-- ==== Sys2Proof/Word.lean ====
section
/-! DEFINITION. The word types of the CL9 and the table type in which replicated units are held. -/

namespace Sys2Proof

abbrev U8 := BitVec 8
abbrev U16 := BitVec 16
abbrev U32 := BitVec 32
abbrev U64 := BitVec 64

/-- A table from an index to an entry: the register windows, contexts, queues and other replicated
units of the die. An index that is not listed holds the reset value its reader names. -/
abbrev TMap (α : Type) := List (Nat × α)

/-- The entry at index `k`, or `d` where the table lists none. -/
def TMap.get {α : Type} (d : α) : TMap α → Nat → α
  | [], _ => d
  | (j, v) :: m, k => if j = k then v else TMap.get d m k

/-- The listed entry at index `k`, if there is one. -/
def TMap.find {α : Type} : TMap α → Nat → Option α
  | [], _ => none
  | (j, v) :: m, k => if j = k then some v else TMap.find m k

/-- The table with `v` at index `k`. -/
def TMap.set {α : Type} : TMap α → Nat → α → TMap α
  | [], k, v => [(k, v)]
  | (j, w) :: m, k, v =>
    if j = k then (k, v) :: m else if k < j then (k, v) :: (j, w) :: m else (j, w) :: TMap.set m k v

/-- The table without index `k`. -/
def TMap.del {α : Type} : TMap α → Nat → TMap α
  | [], _ => []
  | (j, w) :: m, k => if j = k then TMap.del m k else (j, w) :: TMap.del m k

/-- The indices that the table lists. -/
def TMap.keys {α : Type} (m : TMap α) : List Nat := m.map Prod.fst

/-- Every listed entry changed by `f`. -/
def TMap.mapVals {α : Type} (f : Nat → α → α) (m : TMap α) : TMap α :=
  m.map (fun e => (e.1, f e.1 e.2))

end Sys2Proof
end

