-- ==== Sys2Proof/Syntax.lean ====
section
/-! DEFINITION. The commands of the CL9: one constructor per row of the table of operations and events
(spec/opcode_table.json), with the operands that the rules give each, and the records those operands
are made of. What a command measures or receives from outside (a sensor reading, a training result, a
count of cycles, a transfer that arrives damaged) is one of its operands. -/

namespace Sys2Proof

/-- Form V of a thread instruction (R77, R78): the fields of the word below CLASS and OP, and the
second word's immediate where SEL is 2. `rnd`, `sat`, `ty` and the four sign bits share one field
each; `negAbs` is bits [9:6]: NEG A, NEG B, ABS A, ABS B from bit 9 down. -/
structure VForm where
  pneg : Bool
  pred : BitVec 3
  sel : BitVec 2
  dst : U8
  sa : U8
  sb : U8
  sc : U8
  rnd : BitVec 3
  sat : Bool
  ty : BitVec 2
  negAbs : BitVec 4
  sub : BitVec 6
  imm : U32
deriving DecidableEq, Repr

/-- Bits [55:50] of a word (R77): in CVT the source format (R95). -/
abbrev OpField := BitVec 6

/-- Form M (R79). -/
structure MForm where
  pneg : Bool
  pred : BitVec 3
  space : BitVec 2
  data : U8
  addr : U8
  size : BitVec 3
  sem : BitVec 2
  scope : BitVec 3
  offset : BitVec 24
deriving DecidableEq, Repr

/-- Form B (R80): target and join offsets in 8-byte words, counted from the instruction. -/
structure BForm where
  pneg : Bool
  pred : BitVec 3
  target : BitVec 24
  join : BitVec 24
deriving DecidableEq, Repr

/-- Form X (R80): the engine, the uniform registers of the A, B and output descriptors, the format
codes of A and B, and the flags of R108. -/
structure XForm where
  pneg : Bool
  pred : BitVec 3
  engine : Bool
  a : U8
  b : U8
  out : U8
  fmtA : BitVec 5
  fmtB : BitVec 5
  flags : BitVec 14
deriving DecidableEq, Repr

/-- The comparison that FCMP or an integer compare makes; the rules give no codes for them. -/
inductive Cond where
  | eq | ne | lt | le | gt | ge
deriving DecidableEq, Repr

/-- The integer operations that R77 names for class 0x0 (IADD, IMAD, SHL, LOP, ICMP, IMIN) with their
variants; the rules give no codes for them. -/
inductive IntOp where
  | iadd
  | imad
  | shl
  | shr (signed : Bool)
  | and | or | xor
  | icmp (c : Cond) (signed : Bool)
  | imin (signed : Bool)
  | imax (signed : Bool)
deriving DecidableEq, Repr

/-- The moves and uniform operations that R77 names for class 0x3. -/
inductive MoveOp where
  | mov
  | sel (p : BitVec 3)
  | umov
  | uadd
deriving DecidableEq, Repr

/-- The launch-relative values that S2R reads (R76, R166). -/
inductive S2rSel where
  | thread | group
  | blockX | blockY | blockZ | blockLinear
  | rank | clusterSize
  | gridX | gridY | gridZ
  | stitchLo | stitchHi
  | seed (word : BitVec 2)
  | clock (cycles : U32)
deriving DecidableEq, Repr

/-- The atomic operations of class 0x5 (R75, R79); `ret` asks for the old value. `fadd` is the
floating-point add without an anchor. -/
inductive AtomOp where
  | iadd (ret : Bool) | and (ret : Bool) | or (ret : Bool) | xor (ret : Bool)
  | imin (ret signed : Bool) | imax (ret signed : Bool)
  | exch
  | fadd (ret : Bool)
deriving DecidableEq, Repr

/-- What an uncorrectable cache error strikes (R209): a clean line, a dirty one, or a tag or directory entry. -/
inductive CacheError where
  | clean | dirty | tag
deriving DecidableEq, Repr

/-- What an access meets on its way besides its own checks: nothing, a corrected or uncorrectable
SRAM error at its address (R189, R190), an uncorrectable or corrected cache error (R209), an uncorrectable or
corrected DRAM error (R310, R489), a corrected link-ECC error (R489), a transfer repeated after a link-ECC failure (R309),
host data returned damaged (R471), or requests of it stalled by a conflict in a Spool sub-bank (R181). -/
inductive MemEvent where
  | none
  | sramCorrected
  | sramUncorrectable
  | cacheUncorrectable (level : BitVec 2) (way : BitVec 4) (unit : U8) (what : CacheError)
  | cacheCorrected (level : BitVec 2) (way : BitVec 4) (unit : U8)
  | dramCorrected
  | linkCorrected
  | dramUncorrectable
  | linkEccRepeat (again : Bool)
  | hostDamaged
  | spoolStalled (requests : Nat)
deriving DecidableEq, Repr

/-- The result of training one UCIe module (R468): its rate in GT/s, 0 for a module that is down, its
width and its repaired lanes. -/
structure ModuleTrain where
  rate : Nat := 0
  width : Nat := 0
  repaired : Nat := 0
deriving DecidableEq, Repr

/-- What the partner die answers while the Seam link is paired (R427). -/
structure PartnerInfo where
  part : Nat
  stepping : Nat
  strap : Bool
  levelMin : Nat
  levelMax : Nat
  epochA : U32
  epochB : U32
  /-- Its installed DRAM in MiB, and whether inline ECC is on (R218, R239, R476). -/
  dramMib : Nat := 16384
  inlineEcc : Bool := true
  /-- TOP_LEVEL of its platform declaration at stage Finished (R418). -/
  topLevel : BitVec 3 := 2
deriving DecidableEq, Repr

/-- A layer's pixel at an output position. -/
structure LayerPixel where
  layer : Nat
  x : Nat
  y : Nat
deriving DecidableEq, Repr

/-- A failure that a start's self-test finds and a spare may replace (R429 to R431): a lane of a vector engine and a
cell of a matrix engine's row pair, by cluster and physical slot, and a row by its kind, unit, inner unit and array. -/
inductive StartFault where
  | lane (c ps engine lane : Nat)
  | cell (c ps engine pair position : Nat)
  | row (kind c inner array row : Nat)
deriving DecidableEq, Repr

/-- What a start meets (R424 to R430): the strap, the trained links and memory, and the units that
self-test finds failed. -/
structure StartInputs where
  strap : Bool := false
  t0RamOk : Bool := true
  romOk : Bool := true
  coolantOk : Bool := false
  host0 : ModuleTrain := {}
  host1 : ModuleTrain := {}
  dramMib : Nat := 16384
  dramMts : Nat := 9600
  dramPass : Bool := true
  inlineEcc : Bool := true
  seam0 : ModuleTrain := {}
  seam1 : ModuleTrain := {}
  partner : Option PartnerInfo := none
  /-- Failed physical slots, (cluster, physical slot). -/
  badSlots : List (Nat × Nat) := []
  /-- Logical slots without a working ray traversal unit. -/
  badRay : U64 := 0
  badBanks : U8 := 0
  badWays : U16 := 0
  badPipes : BitVec 4 := 0
  badCmp : BitVec 2 := 0
  faults : List StartFault := []
  /-- The controller of the I3C bus has already run ENTDAA (R441). -/
  busAssigned : Bool := false
  tackUs : U32 := 0
  fittingUs : U32 := 0
  finishedUs : U32 := 0
  /-- The Shuttle cycles of the apply of step 12. -/
  applyCycles : U32 := 0
  /-- Commands arrive while the die is at stage Tack, or at stage Fitting, before its start goes on. -/
  pauseTack : Bool := false
  pauseFitting : Bool := false
deriving DecidableEq, Repr

/-- The causes of a front-end restart (R306). -/
inductive RestartCause where
  | t1Watchdog | t3Watchdog | shuttleState | faultPath | seamLost | hostLost
deriving DecidableEq, Repr

/-- The cycles that a committing command counts (R161, R163, R279), and the Shuttle's stamp. -/
structure WorkCounts where
  work : BitVec 48 := 0
  mem : BitVec 48 := 0
  link : BitVec 48 := 0
  refresh : U32 := 0
  retry : U32 := 0
  stamp : U32 := 0
deriving DecidableEq, Repr

/-- The kinds of access that R228 distinguishes, with their codes in fault records (R302). -/
inductive Access where
  | read | write | atomic | fetch
deriving DecidableEq, Repr

/-- An access that needs a walk: its kind, and the logical core that makes it, none for a unit on no core (R224). -/
structure WalkAccess where
  kind : Access
  core : Option Nat := none
deriving DecidableEq, Repr

/-- An on-chip memory of R189 and the place of a row in it. -/
inductive SramUnit where
  | spool (bank sub : Nat)
  | localMem (core bank : Nat)
  | tileBuffer (core : Nat)
deriving DecidableEq, Repr

/-- An error that loses a context (R296), with what its fault record holds. -/
inductive LosingError where
  | divergence (isMatrix : Bool) (thread group block : Nat) (off : BitVec 24)
  | trap (kind : U8) (thread group block : Nat) (off : BitVec 24)
  | translation (check : BitVec 4) (acc : Access) (level : BitVec 4) (va : U64) (span : U16)
  | selvedge (acc : Access) (requester : BitVec 4) (pa : U64)
  | residue (core engine : Nat) (bolt : Bool)
  | staleAnchor (td : U64) (count : U32)
  | timeout (us : U32)
  | sram (kind : BitVec 4) (place : U8) (off : U64)
  | cache (level : BitVec 2) (way : BitVec 4) (unit : U8) (line : U64)
  | dram (channel : BitVec 4) (pa : U64)
deriving DecidableEq, Repr

/-- What a self-test of a physical core slot finds (R429, R430): a lane of a vector engine, a cell of a matrix engine's row
pair, a row of local memory (kind 1), of the tile buffer (2) or of a register-file bank (3), the ray traversal unit, and a
unit that has no spare. -/
inductive SlotFault where
  | lane (engine lane : Nat)
  | cell (engine pair position : Nat)
  | row (kind array row : Nat)
  | ray
  | unit
deriving DecidableEq, Repr

/-- What a HOTSPOT window holds beside the counts of the state (R211): requests of each of the 16 channels and evictions
of each of the 16 set groups that no command carries, such as those of instruction fetches. -/
structure HotspotCounts where
  channels : List Nat := []
  sets : List Nat := []
deriving DecidableEq, Repr

/-- What COMMAND_TIMEOUT times: a command, or the EVENT_WAIT at the head of a queue (R285). -/
inductive TimeoutOf where
  | job (j : Nat)
  | head (q : Nat)
deriving DecidableEq, Repr

/-- The two UCIe links of a die. -/
inductive Link where
  | host | seam
deriving DecidableEq, Repr

/-- A Seam flit as it arrives (R473). -/
structure SeamFlit where
  seq : BitVec 12
  kind : BitVec 4
  ack : BitVec 12
  messages : List U8
  crc : U32
deriving DecidableEq, Repr

/-- A CXL.mem access of the host (R470): a read of a 64-byte line, or a write of its bytes. -/
inductive HostAccess where
  | read (addr : Nat) (damaged : Bool)
  | write (addr : Nat) (bytes : List U8)
deriving DecidableEq, Repr

/-- An error that a Spool scrub finds (R192). -/
structure ScrubError where
  bank : Nat
  sub : Nat
  row : Nat
  off : Nat
  corrected : Bool
deriving DecidableEq, Repr

/-- An error that a DRAM scrub finds (R478). -/
structure DramError where
  channel : Nat
  addr : Nat
  corrected : Bool
deriving DecidableEq, Repr

/-- The caches that have state bits of their own (R207, R215). -/
inductive CacheUnit where
  | l3
  | l1 (cluster : Nat)
  | l2 (cluster : Nat)
deriving DecidableEq, Repr

/-- The result of training a display link (R365): the lanes and the rate in units of 0.01 Gbit/s, none
where training fails. -/
abbrev LinkTrain := Option (Nat × Nat)

/-- What the follower answers to a PREPARE: its active epoch, whether its slot B is COMPLETE with the leader's manifest
digest, and which of its T0, T1, T2 and T4 accept their parts (R457). -/
structure FollowerAnswer where
  active : U32
  matched : Bool
  units : BitVec 4
deriving DecidableEq, Repr

/-- How the follower meets a COMMIT (R458). -/
inductive FollowerCommit where
  /-- It is not PREPARED for the epoch. -/
  | unprepared
  /-- Its record is written, and it acknowledges. -/
  | acknowledged
  /-- The Seam link is lost before the leader has its acknowledgement. -/
  | lost
deriving DecidableEq, Repr

/-- A command of the CL9: one constructor per row of the table of operations and events. -/
inductive Instr where
  /-- DIE_RESET_RELEASE (R425): DIE_RST_N rising begins a full start that runs the staged start sequence through stages Tack, Fitting and Finished. -/
  | dieResetRelease (inputs : StartInputs)
  /-- DIE_RESET_ASSERT (R423): DIE_RST_N falling stops every island, blanks outputs, drops the links and releases THERM_ALERT_N. -/
  | dieResetAssert
  /-- VR_PG_LOSS (R485): VR_PG low for 1 us while VR_VID is not 0 stops the die as DIE_RST_N falling does. -/
  | vrPgLoss
  /-- HOST_LINK_TRAIN_RETRY (R468): When no host module trained, training is repeated every 10 ms. -/
  | hostLinkTrainRetry (m0 : ModuleTrain) (m1 : ModuleTrain) (now : Nat)
  /-- THIMBLE_WATCHDOG_EXPIRY (R26): A Thimble watchdog expiry restarts the core, causes a front-end restart, or stops self-test, depending on the core. -/
  | thimbleWatchdogExpiry (t : Nat) (now : Nat)
  /-- FRONT_END_RESTART (R306): An error in the Shuttle or the fault path, or a lost link, stops dispatch, kills every engine, loses every context and resets the front end. -/
  | frontEndRestart (cause : RestartCause) (now : Nat)
  /-- PTN_APPLY_GO (R46): Writing PTN_APPLY.GO checks the stream and runs quiesce, save, clear, rewrite, restore and resume. -/
  | ptnApplyGo (cycles : U32)
  /-- PTN_VALIDATE_ONLY (R52): GO with VALIDATE_ONLY runs step 1 of the apply only and reports its result. -/
  | ptnValidateOnly (cycles : U32)
  /-- APPLY_ABANDON (R47): A non-restartable command not committed 400 us into quiesce makes the apply end with PATTERN_LIVE and no change. -/
  | applyAbandon (cycles : U32)
  /-- PTN_LIVE_WRITE (R44): A write to a live partition field replaces its shadow and marks it pending. -/
  | ptnLiveWrite (off : Nat) (v : U32)
  /-- LIVE_SHADOW_TAKEUP (R44): At the field's safe point the shadow is taken up, PTN_PENDING clears and LIVE_TAKEN is set. -/
  | liveShadowTakeup (p : Nat) (off : Nat)
  /-- PTN_STATIC_WRITE (R44): A static field write is refused while its partition runs, or checked and applied with a hardware clear while halted. -/
  | ptnStaticWrite (off : Nat) (v : U32)
  /-- PTN_HALT_REQ (R52): Setting or clearing a HALT_REQ bit quiesces and holds a partition, or withdraws the request. -/
  | ptnHaltReq (v : U16)
  /-- PARTITION_HALTED (R52): When the partition's non-restartable commands have ended, HALTED is set. -/
  | partitionHalted (p : Nat)
  /-- REGULATOR_REFILL (R38): Every 1,024 memory cycles each regulator port gains credit at its rate up to its burst. -/
  | regulatorRefill
  /-- COMMAND_COMMIT (R31): The Shuttle accepts the last engine's done report, committing the command and writing its record and event signals. -/
  | commandCommit (job : Nat) (w : WorkCounts)
  /-- TILE_STORE_COMMIT (R326): The memory controller accepts the atomic OR setting a tile's STORED bit, committing the tile. -/
  | tileStoreCommit (job : Nat) (tile : Nat) (e : MemEvent)
  /-- DISPATCH (R269): In each dispatch opportunity the Shuttle takes ready commands by class and round-robin and places them. -/
  | dispatch
  /-- PREEMPTION (R270): 30 us before a ready command's grace ends the Shuttle kills restartable lower-class commands of its partition. -/
  | preemption (job : Nat)
  /-- COMMAND_TIMEOUT (R286): A command's timer expires, its engines are stopped, drained and killed, and the context is lost with TIMEOUT. -/
  | commandTimeout (t : TimeoutOf)
  /-- FADD (R96): Floating-point add, rounded once. -/
  | fadd (g : Nat) (f : VForm)
  /-- FMUL (R96): Floating-point multiply, rounded once. -/
  | fmul (g : Nat) (f : VForm)
  /-- FFMA (R96): Fused multiply-add with one rounding. -/
  | ffma (g : Nat) (f : VForm)
  /-- FMIN (R96): Floating-point minimum with NaN and signed-zero rules. -/
  | fmin (g : Nat) (f : VForm)
  /-- FMAX (R96): Floating-point maximum with NaN and signed-zero rules. -/
  | fmax (g : Nat) (f : VForm)
  /-- FCMP (R96): Floating-point compare writing a predicate. -/
  | fcmp (g : Nat) (c : Cond) (f : VForm)
  /-- FRCP (R148): Reciprocal, 1 ulp in FP32 and correctly rounded in FP64. -/
  | frcp (g : Nat) (f : VForm)
  /-- FRSQ (R148): Reciprocal square root within 1 ulp. -/
  | frsq (g : Nat) (f : VForm)
  /-- FSQRT (R96): Correctly rounded square root. -/
  | fsqrt (g : Nat) (f : VForm)
  /-- FEX2 (R148): FP32 base-2 exponential within 2 ulp. -/
  | fex2 (g : Nat) (f : VForm)
  /-- FLG2 (R148): FP32 base-2 logarithm with the stated accuracy. -/
  | flg2 (g : Nat) (f : VForm)
  /-- FSIN (R148): FP32 sine in radians. -/
  | fsin (g : Nat) (f : VForm)
  /-- FCOS (R148): FP32 cosine in radians. -/
  | fcos (g : Nat) (f : VForm)
  /-- ACVT (R147): Converts an anchored slot in registers to FP32 or FP64 with one rounding. -/
  | acvt (g : Nat) (f : VForm)
  /-- TW_ADD (R151): Twin-thread pair add at command-stream level 2. -/
  | twAdd (g : Nat) (f : VForm)
  /-- TW_ACC (R151): Twin-thread accumulate of an FP32 product into a pair. -/
  | twAcc (g : Nat) (f : VForm)
  /-- TW_MUL (R151): Twin-thread pair multiplied by an FP32 value. -/
  | twMul (g : Nat) (f : VForm)
  /-- CVT (R94): Converts one value between formats with one rounding and saturation rules. -/
  | cvt (g : Nat) (op : OpField) (f : VForm)
  /-- INTEGER_INSTRUCTION (R78): Integer add, multiply-add, shift, logic, compare or min in form V. -/
  | integerInstruction (g : Nat) (op : IntOp) (f : VForm)
  /-- MOVE_UNIFORM_INSTRUCTION (R58): MOV, SEL, UMOV or UADD; uniform instructions execute once per group even with an empty mask. -/
  | moveUniformInstruction (g : Nat) (op : MoveOp) (f : VForm)
  /-- S2R (R76): Reads a launch-relative special value, with CLOCK returning 0 in strict mode. -/
  | s2r (g : Nat) (sel : S2rSel) (f : VForm)
  /-- SHFL (R64): Reads a register of another thread of the group by IDX, UP, DOWN or XOR. -/
  | shfl (g : Nat) (f : VForm)
  /-- VOTE (R65): Writes ALL, ANY, BALLOT or COUNT of a predicate over the executing set to a uniform register. -/
  | vote (g : Nat) (f : VForm)
  /-- BRA (R62): Divergent branch that pushes reconvergence entries when active threads disagree. -/
  | bra (g : Nat) (f : BForm)
  /-- CALL (R80): Control-form call. -/
  | call (g : Nat) (f : BForm)
  /-- RET (R80): Control-form return. -/
  | ret (g : Nat) (f : BForm)
  /-- EXIT (R63): Removes executing threads from the live mask and retires an empty group. -/
  | exit (g : Nat) (f : BForm)
  /-- BAR_SYNC (R71): The group arrives at a named barrier and waits for it to complete. -/
  | barSync (g : Nat) (f : VForm)
  /-- BAR_ARRIVE (R71): The group arrives at a named barrier and continues. -/
  | barArrive (g : Nat) (f : VForm)
  /-- CBAR (R72): Block-cluster barrier with writes visible at cluster scope on completion. -/
  | cbar (g : Nat) (f : VForm)
  /-- FENCE (R74): Applies release or acquire ordering at a scope without an access. -/
  | fence (g : Nat) (f : VForm)
  /-- LD (R79): Load from global, local, cluster-local or Spool space. -/
  | ld (g : Nat) (f : MForm) (e : MemEvent)
  /-- ST (R79): Store to global, local, cluster-local or Spool space. -/
  | st (g : Nat) (f : MForm) (e : MemEvent)
  /-- ATOM (R75): Atomic operation, returning the old value or not, counted as loose in relaxed mode when order-dependent. -/
  | atom (g : Nat) (op : AtomOp) (f : MForm) (e : MemEvent)
  /-- ATOM_CAS (R75): Compare-and-swap atomic. -/
  | atomCas (g : Nat) (f : MForm) (e : MemEvent)
  /-- ATOM_AFADD (R142): Adds a floored float into an anchored fixed-point slot. -/
  | atomAfadd (g : Nat) (f : MForm) (e : MemEvent)
  /-- PHILOX (R167): Evaluates Philox4x32-10 from the seed, call index, thread position and stitch counter. -/
  | philox (g : Nat) (f : VForm)
  /-- MLOAD_A (R108): Loads a chunk of 32 A rows into an A buffer half, optionally paired. -/
  | mloadA (g : Nat) (f : XForm)
  /-- MLOAD_B (R108): Loads a chunk of 32 B columns into a B buffer half. -/
  | mloadB (g : Nat) (f : XForm)
  /-- MANCHOR (R108): Fixes a bank's anchors from summaries or a sweep and clears its Bolts. -/
  | manchor (g : Nat) (f : XForm)
  /-- MMA (R108): Adds every product of the loaded chunks exactly into a Bolt bank. -/
  | mma (g : Nat) (f : XForm)
  /-- MSTORE (R99): Runs the epilogue on a bank and writes the output tile, scales and summaries. -/
  | mstore (g : Nat) (f : XForm)
  /-- MADD (R115): Adds a tile of Bolt spills from memory into a bank. -/
  | madd (g : Nat) (f : XForm)
  /-- RESIDUE_FAILURE (R308): A failed modulo-3 check kills affected commands, quarantines the core and re-dispatches them. -/
  | residueFailure (core : Nat) (engine : Nat) (bolt : Bool) (job : Nat)
  /-- TEX_SAMPLE (R335): Samples a texture with LOD from quad derivatives. -/
  | texSample (g : Nat) (f : VForm)
  /-- TEX_SAMPLE_LOD (R335): Samples a texture at an explicit LOD. -/
  | texSampleLod (g : Nat) (f : VForm)
  /-- TEX_FETCH (R335): Fetches one texel without filtering. -/
  | texFetch (g : Nat) (f : VForm)
  /-- IMAGE_STORE (R335): Stores to an image, optionally UNORDERED. -/
  | imageStore (g : Nat) (f : VForm)
  /-- TRACE_START (R339): Starts ray traversal of a hierarchy and returns a hit, miss or candidate. -/
  | traceStart (g : Nat) (f : VForm)
  /-- TRACE_ACCEPT (R339): Accepts the candidate and continues traversal. -/
  | traceAccept (g : Nat) (f : VForm)
  /-- TRACE_REJECT (R339): Rejects the candidate and continues traversal. -/
  | traceReject (g : Nat) (f : VForm)
  /-- LAUNCH (R278): Runs one invocation of a registered graph version. -/
  | launch (q : Nat) (stamp : U32)
  /-- COPY (R266): Copies bytes between virtual addresses. -/
  | copy (job : Nat)
  /-- FILL (R266): Fills a destination with a repeated 32-bit value. -/
  | fill (job : Nat)
  /-- COMPRESS (R377): Codes 256-byte blocks into fixed 128-byte or 64-byte slots. -/
  | compress (job : Nat) (n : Nat) (e : MemEvent)
  /-- DECOMPRESS (R382): Decodes block slots and checks the trailer, stopping at the first fault. -/
  | decompress (job : Nat) (n : Nat) (e : MemEvent)
  /-- BASTE (R126): Computes and writes the exponent side table of one tensor. -/
  | baste (job : Nat)
  /-- EVENT_RECORD (R254): Signals an event with a value and the queue's sticky status. -/
  | eventRecord (q : Nat) (stamp : U32)
  /-- EVENT_WAIT (R254): Holds the queue until the event reaches a value or fails. -/
  | eventWait (q : Nat) (stamp : U32)
  /-- QUEUE_WAIT_RESUME (R255): A waiting queue resumes within 2 us of the update that satisfies it, halting on an error. -/
  | queueWaitResume (q : Nat) (stamp : U32)
  /-- SUSPEND (R282): Suspends a launch, stream or image upload named by queue and handle. -/
  | suspend (q : Nat) (stamp : U32)
  /-- RESUME (R282): Resumes a suspended long operation. -/
  | resume (q : Nat) (stamp : U32)
  /-- CANCEL (R282): Ends a long operation with ABORTED. -/
  | cancel (q : Nat) (stamp : U32)
  /-- SUSPEND_KILL_TIMEOUT (R282): A restartable node not committed or parked 50 us after SUSPEND is killed with cause 7. -/
  | suspendKillTimeout (job : Nat)
  /-- REGISTER_GRAPH (R275): Records a graph image under an identifier and creates version 0. -/
  | registerGraph (q : Nat) (stamp : U32)
  /-- GRAPH_UNREGISTER (R275): An identifier is unregistered once no unfinished launch uses it. -/
  | graphUnregister (q : Nat) (stamp : U32)
  /-- PATCH_GRAPH_NODE (R276): Replaces node entries and creates a new current version. -/
  | patchGraphNode (q : Nat) (stamp : U32)
  /-- PATCH_GRAPH_PARAMETER (R277): Writes bytes into a parameter block now, refuses with GRAPH_BUSY, or defers. -/
  | patchGraphParameter (q : Nat) (stamp : U32)
  /-- DEFERRED_PARAMETER_WRITE (R277): A NEXT_LAUNCH patch is written after every launch using the block has finished. -/
  | deferredParameterWrite (c : Nat) (graph : U32) (blk : Nat)
  /-- NOP (R266): No operation; writes a completion record. -/
  | nop (q : Nat) (stamp : U32)
  /-- PACK_LOAD (R290): Makes a node's weight packs resident, sharing, evicting, decompressing and checking the digest. -/
  | packLoad (job : Nat) (stamp : U32)
  /-- PARTITION_CONTEXT_SWITCH (R288): Spool range granules pass from outgoing contexts to the incoming context with save, clear and restore. -/
  | partitionContextSwitch (job : Nat)
  /-- SQ_WRITE (R250): A doorbell write of the slot write index, accepted or dropped by its range checks. -/
  | sqWrite (q : Nat) (v : U32)
  /-- CQ_READ (R250): A doorbell write of the completion read index, freeing completion room. -/
  | cqRead (q : Nat) (v : U32)
  /-- FE_CTX_OPEN (R244): Opens a context: check, negotiate, assign index, load roots, log, respond. -/
  | feCtxOpen (fn : Nat)
  /-- FE_CTX_DESTROY (R247): Destroys a context with ABORTED or PRODUCER_LOST, killing, failing events and draining. -/
  | feCtxDestroy (v : U32)
  /-- CONTEXT_DESTROY_DRAINED (R247): Once writes are accepted, translations are dropped, granules freed and the context becomes CLOSED. -/
  | contextDestroyDrained (c : Nat)
  /-- FE_QUEUE_CREATE (R249): Checks a queue descriptor and makes the queue ACTIVE or reports a reason. -/
  | feQueueCreate
  /-- FE_QUEUE_DESTROY (R294): Stops a queue, kills its commands and fails events of its unfinished EVENT_RECORD slots. -/
  | feQueueDestroy (q : Nat)
  /-- QUEUE_DESTROY_RECORD (R295): When engines are idle and writes accepted, the destroy record is written and the queue becomes FREE. -/
  | queueDestroyRecord (q : Nat) (stamp : U32)
  /-- FE_QUEUE_CONTINUE (R251): Resumes a HALTED queue with its next slot. -/
  | feQueueContinue (q : Nat)
  /-- FE_EVENT_SIGNAL (R256): Signals an event from the host. -/
  | feEventSignal (fn : Nat) (v : U32)
  /-- FE_EVENT_FAIL (R256): Fails an event from the host. -/
  | feEventFail (fn : Nat) (v : U32)
  /-- FE_EVENT_RESET (R256): Resets an event's value, error and ignored count. -/
  | feEventReset (fn : Nat) (v : U32)
  /-- ID_APERTURE_WRITE (R238): Moves the BAR4 aperture, refused when beyond installed capacity. -/
  | idApertureWrite (v : U32)
  /-- PAGE_WALK (R225): A translation miss is walked by a die walker through the four-level table. -/
  | pageWalk (c : Nat) (va : U64) (acc : WalkAccess)
  /-- PAGE_FAULT (R230): A replayable fault kills the command, writes a PAGE_FAULT_RETRY record and sets FAULT_WAIT. -/
  | pageFault (job : Nat) (va : U64) (acc : Access)
  /-- MMU_FAULT_RESUME (R230): RESUME releases every waiting command for re-dispatch with zero-filled accumulate outputs. -/
  | mmuFaultResume (v : U32)
  /-- MMU_FAULT_ABORT (R232): ABORT loses the context in FAULT_WAIT with CTX_LOST. -/
  | mmuFaultAbort (v : U32)
  /-- MMU_INV_GO (R226): Starts an invalidation of a context's range on both dies. -/
  | mmuInvGo (v : U32)
  /-- INVALIDATION_DONE (R226): Once entries are dropped, old walks ended and old accesses accepted, BUSY clears and INV_DONE is set. -/
  | invalidationDone
  /-- FLT_CTX_RESUME (R315): The FLT context window RESUME acts as MMU_FAULT_RESUME for that context. -/
  | fltCtxResume (c : Nat)
  /-- FLT_CTX_ABORT (R315): The FLT context window ABORT loses the context as MMU_FAULT_RESUME ABORT does. -/
  | fltCtxAbort (c : Nat)
  /-- FLT_CTX_INV_GO (R315): Starts an invalidation for this context through its FLT window. -/
  | fltCtxInvGo (c : Nat)
  /-- CONTEXT_LOSS (R298): A losing error makes the context LOST and runs its teardown ending with the fault record. -/
  | contextLoss (c : Nat) (err : LosingError)
  /-- FQ_READ_WRITE (R303): Advancing FQ_READ frees space, writing a pending OVERFLOW record and a held PAGE_FAULT record. -/
  | fqReadWrite (c : Nat) (v : U32)
  /-- PQ_READ_WRITE (R304): Advancing PQ_READ frees space in a partition fault queue. -/
  | pqReadWrite (p : Nat) (v : U32)
  /-- ROW_SPARE (R191): After 8 corrected errors a row is spared at the next free point, or its bank retired. -/
  | rowSpare (unit : SramUnit) (row : Nat)
  /-- WAY_DISABLE (R210): A way reaching L3C_CE_THRESH corrected errors stops allocating, is written back and marked disabled. -/
  | wayDisable (w : Nat)
  /-- HOTSPOT_WINDOW (R211): Each 1 ms window judges channel and set imbalance and raises HOTSPOT after 100 in a row. -/
  | hotspotWindow (p : Nat) (h : HotspotCounts)
  /-- LATE_DELIVERY (R160): A delivery later than its fixed count for a hardware cause is counted and a LATE record written. -/
  | lateDelivery (job : Option Nat)
  /-- STRICT_FREEZE_RESUME (R162): Once the delivery arrives, the frozen command resumes and the stopped cycles are counted as stalls. -/
  | strictFreezeResume (job : Nat) (refresh : U32) (retry : U32)
  /-- LINK_RETRAIN (R311): Retries that do not recover a link make it retrain for at most 300 us with a LINK record. -/
  | linkRetrain (l : Link)
  /-- LINK_LOST (R311): A link not retrained within 300 us is lost and causes a front-end restart. -/
  | linkLost (l : Link) (now : Nat)
  /-- SEAM_FLIT_RECEIVE (R473): A 256-byte Seam flit is received, checked, acknowledged and its messages delivered by channel. -/
  | seamFlitReceive (fl : SeamFlit)
  /-- CXL_MEM_ACCESS (R470): A host CXL.mem access is served through the home L3 as class-3 traffic of the owning partition. -/
  | cxlMemAccess (a : HostAccess)
  /-- CXL_CACHE_SNOOP (R469): A host snoop is answered from the cluster L2s. -/
  | cxlCacheSnoop (addr : Nat) (inv : Bool)
  /-- LOG_ENABLE_WRITE (R169): Setting LOG_ENABLE resets LOG_DROPPED and the entry number and starts logging. -/
  | logEnableWrite (p : Nat) (v : Bool)
  /-- LOG_TAIL_WRITE (R169): Advancing LOG_TAIL frees ring space, writing an OVERFLOW entry after drops. -/
  | logTailWrite (p : Nat) (v : U16)
  /-- DET_CLEAR (R172): DET_CTRL.CLEAR sets DET_LATE_UNTAGGED to 0. -/
  | detClear
  /-- COUNTER_LO_READ (R175): A read of a _LO counter register latches its _HI partner. -/
  | counterLoRead (off : Nat)
  /-- CLU_MX_CLEAR (R132): Sets the cluster matrix counters to 0. -/
  | cluMxClear (n : Nat)
  /-- CLU_MEM_CLEAR (R196): Sets the cluster local-memory and tile-buffer error counters to 0. -/
  | cluMemClear (n : Nat)
  /-- CMP_CLEAR (R386): Sets every compression engine counter to 0. -/
  | cmpClear
  /-- SPL_RETAIN_WRITE (R187): Selects retained banks, dropping a write that sets more than four bits. -/
  | splRetainWrite (v : U32)
  /-- SPOOL_SCRUB (R192): T5 reads every Spool word once per scrub period in free sub-bank cycles. -/
  | spoolScrub (errs : List ScrubError)
  /-- L3C_ENABLE (R207): Enables or disables the L3, refused without a prior invalidate. -/
  | l3cEnable (v : Bool)
  /-- L3C_INVALIDATE (R207): Invalidates the L3, writing back dirty data when enabled. -/
  | l3cInvalidate
  /-- L1_ENABLE (R215): Enables or disables the cluster's L1s under the invalidate rule. -/
  | l1Enable (n : Nat) (v : Bool)
  /-- L2_ENABLE (R215): Enables or disables the cluster's L2 under the invalidate rule. -/
  | l2Enable (n : Nat) (v : Bool)
  /-- L1_INVALIDATE (R215): Invalidates every L1 of the cluster. -/
  | l1Invalidate (n : Nat)
  /-- L2_INVALIDATE (R215): Invalidates the cluster's L2. -/
  | l2Invalidate (n : Nat)
  /-- CACHE_OPERATION_DONE (R207): An invalidate or disable write-back ends, BUSY clears and INVALIDATED or ENABLED changes. -/
  | cacheOperationDone (u : CacheUnit)
  /-- MODESET (R343): Applies a pipe's timing and routing, blanking and retraining, or refuses invalid timing. -/
  | modeset (p : Nat) (train : LinkTrain)
  /-- FLIP_RESET (R357): Aborts unapplied flip sets and releases them, keeping the shown configuration. -/
  | flipReset (p : Nat)
  /-- FLIP_WRITE (R352): Advances a pipe's flip ring write index under the doorbell checks. -/
  | flipWrite (p : Nat) (v : U32)
  /-- FLIP_SET_CHECK (R353): When a set becomes head, T2 reads and checks it, discarding failures. -/
  | flipSetCheck (p : Nat)
  /-- FLIP_LATCH (R354): 100 us before vertical blank T2 reads the head set's gates and decides apply, skip, late or discard. -/
  | flipLatch (p : Nat)
  /-- VERTICAL_BLANK (R354): FRAME increments, the latched set is applied, and replaced sets are released. -/
  | verticalBlank (p : Nat)
  /-- LINE_BUFFER_UNDERFLOW (R358): A missing source pixel is replaced by BG, counted, and fetch restarts next frame. -/
  | lineBufferUnderflow (p : Nat) (lines : U32)
  /-- NOTCH_SIGNATURE (R360): At a region's last pixel its CRC is checked or learned, raising NOTCH on mismatch. -/
  | notchSignature (p : Nat) (r : Nat) (missing : List LayerPixel)
  /-- INK_WRITE (R362): Advancing INK_WRITE makes the pipe fetch new stroke records for drawing. -/
  | inkWrite (p : Nat) (v : U32)
  /-- INK_PREDICTION_EXPIRY (R363): The prediction is removed when no real record arrives within the horizon. -/
  | inkPredictionExpiry (p : Nat)
  /-- HPD_CONNECT (R365): HPD high for 2 ms reads sink data, sets CONNECTED and trains the link. -/
  | hpdConnect (o : Nat) (sink : List U8) (train : LinkTrain)
  /-- HPD_DISCONNECT (R365): HPD low for 2 ms clears CONNECTED and LINK_UP and sets UNPLUG. -/
  | hpdDisconnect (o : Nat)
  /-- IRQ_HPD (R365): A short HPD pulse reads link status and retrains if needed. -/
  | irqHpd (o : Nat) (train : LinkTrain)
  /-- DSP_MIRROR_WRITE (R367): Clearing or setting a MIRROR bit hands a pipe to its driver or returns it to mirroring. -/
  | dspMirrorWrite (v : U32)
  /-- INTERRUPT_ASSERT (R395): A source asserts and sets PENDING. -/
  | interruptAssert (src : Nat)
  /-- MSIX_MESSAGE_SEND (R395): A vector with an enabled pending source and no outstanding message sends, after holdoff. -/
  | msixMessageSend (vec : Nat)
  /-- IC_EOI (R396): Completing a vector clears IN_SERVICE and re-samples its level sources. -/
  | icEoi (vf : Nat) (v : U32)
  /-- IC_SOURCE_ENABLE (R397): Setting or clearing a source's ENABLE. -/
  | icSourceEnable (src : Nat) (v : Bool)
  /-- IC_VECTOR_WRITE (R394): Sets a source's vector, dropping values outside its class range. -/
  | icVectorWrite (src : Nat) (v : Nat)
  /-- THIMBLE_INTERRUPT (R392): An internal source starts its Thimble handler, with fast sources on the second register bank. -/
  | thimbleInterrupt (src : Nat)
  /-- PWR_PLATFORM_WRITE (R404): Declares cooling and top level, refused when invalid or locked. -/
  | pwrPlatformWrite (v : U32)
  /-- PWR_LEVEL_REQ (R405): The driver requests a performance level, granted as the slowest of all causes. -/
  | pwrLevelReq (v : U32)
  /-- LEVEL_CHANGE (R406): Frequency, bias, memory assist and voltage move to the target level in order. -/
  | levelChange
  /-- COOLANT_LOSS (R407): COOLANT_OK low for 1 us clamps to P2 and raises the COOLANT interrupt. -/
  | coolantLoss
  /-- COOLANT_RESTORE (R407): COOLANT_OK high for 1 s ends the coolant cause. -/
  | coolantRestore
  /-- SENSOR_SAMPLE (R408): Each junction sensor is sampled every 100 us, driving THERM_ALERT_N. -/
  | sensorSample (temps : List Nat)
  /-- THERMAL_THROTTLE_STEP (R409): T4 slows the thermal level every 1 ms above THROTTLE or speeds it every 10 ms below. -/
  | thermalThrottleStep
  /-- THERMAL_TRIP (R411): 110 C clamps to P7 and raises THERM. -/
  | thermalTrip
  /-- CRITICAL_STOP (R411): 125 C stops every island including display and holds THERM_ALERT_N low. -/
  | criticalStop
  /-- POWER_LIMIT_WINDOW (R412): Each energy window compared with the limit steps the limit level. -/
  | powerLimitWindow (energy : Nat)
  /-- ISLAND_CLOCK_GATE (R414): An arithmetic island idle for 1 us is clock-gated, possibly entering Idle. -/
  | islandClockGate (core : Nat)
  /-- SLEEP_DOZE (R415): PWR_SLEEP state 2 enters Doze through the entry sequence. -/
  | sleepDoze
  /-- SLEEP_NAP (R415): PWR_SLEEP state 3 enters Nap through the entry sequence. -/
  | sleepNap
  /-- SLEEP_HOLD (R415): PWR_SLEEP state 4 enters Hold through the entry sequence. -/
  | sleepHold
  /-- SLEEP_OFF (R415): PWR_SLEEP state 5 prepares the die for removal of power. -/
  | sleepOff
  /-- SLEEP_ENTRY_REFUSED (R415): A non-restartable command not committed after 10 ms refuses the entry. -/
  | sleepEntryRefused
  /-- WAKE_PIN (R417): A debounced enabled WAKE pin event returns the die to Run. -/
  | wakePin (w : Nat)
  /-- SIDEBAND_WAKE (R416): A UCIe sideband wake message returns the die from Hold. -/
  | sidebandWake
  /-- RETEST_DUE (R433): A slot's accumulated idle time reaching 8 minutes makes a retest due. -/
  | retestDue (slot : Nat)
  /-- RETEST_SEGMENT (R433): A 50 us retest segment runs on a core idle for 10 us. -/
  | retestSegment (slot : Nat) (found : List SlotFault)
  /-- QUARANTINE_SLOT_TEST (R436): Within 1 s of a quarantine the slot is fully tested and returned or retired. -/
  | quarantineSlotTest (slot : Nat) (found : List SlotFault)
  /-- SLOT_REJOIN (R436): A returned or remapped slot rejoins at a rest or remap point with a CORE record. -/
  | slotRejoin (slot : Nat)
  /-- DARNING_MAP_WRITE (R432): T5 writes the whole map to the older flash copy within 1 s of a change. -/
  | darningMapWrite
  /-- POWERED_HOURS_WRITE (R432): T5 writes the powered-hour count at least every 24 hours. -/
  | poweredHoursWrite (h : Nat)
  /-- ENTDAA (R441): Dynamic address assignment of the I3C target. -/
  | entdaa (addr : Nat)
  /-- RSTDAA (R441): Returns the target to unaddressed. -/
  | rstdaa
  /-- ENEC (R441): Enables target events such as in-band interrupts. -/
  | enec (ev : U8)
  /-- DISEC (R441): Disables target events. -/
  | disec (ev : U8)
  /-- GETPID (R442): Returns the 48-bit provisioned identifier. -/
  | getpid
  /-- GETBCR (R441): Returns BCR 0x2E. -/
  | getbcr
  /-- GETDCR (R441): Returns DCR 0x00. -/
  | getdcr
  /-- GETSTATUS (R441): Returns target status. -/
  | getstatus
  /-- GETMXDS (R441): Returns maximum data speed. -/
  | getmxds
  /-- SETMWL (R441): Sets maximum write length, refusing values below 4,112. -/
  | setmwl (v : U16)
  /-- GETMWL (R441): Returns maximum write length. -/
  | getmwl
  /-- SETMRL (R441): Sets maximum read length, refusing values below 4,112. -/
  | setmrl (v : U16)
  /-- GETMRL (R441): Returns maximum read length. -/
  | getmrl
  /-- ENTHDR0 (R441): Enters HDR-DDR mode. -/
  | enthdr0
  /-- RSTACT (R441): Target reset action common command. -/
  | rstact (v : U8)
  /-- SERVICE_RESPONSE_READ (R444): A private read fetches a ready response, NACKed when none is ready. -/
  | serviceResponseRead
  /-- INFO (R446): Returns the 64-byte identity and state payload. -/
  | info (tag : U8)
  /-- READ_REG (R445): Reads an allowed BAR0 register over the service port. -/
  | readReg (tag : U8) (off : Nat)
  /-- WRITE_REG (R445): Writes PWR_PLATFORM over the service port, denying other offsets. -/
  | writeReg (tag : U8) (off : Nat) (v : U32)
  /-- WAKE (R445): Wakes the die from Doze, Nap or Hold when the I3C wake source is enabled. -/
  | wake (tag : U8)
  /-- UPLOAD_BEGIN (R448): Starts an upload into slot B, erasing its first sector. -/
  | uploadBegin (tag : U8) (len : U32) (handle : U32)
  /-- UPLOAD_BLOCK (R449): Delivers one 4 KiB image block for background programming. -/
  | uploadBlock (tag : U8) (idx : Nat) (data : List U8) (crc : U32)
  /-- UPLOAD_END (R450): Waits for programming, checks completeness and verifies slot B. -/
  | uploadEnd (tag : U8)
  /-- UPLOAD_STATUS (R445): Returns blocks received and the lowest missing index. -/
  | uploadStatus (tag : U8)
  /-- PREPARE (R457): Has every owning unit of both dies check slot B and prepares an epoch. -/
  | prepare (tag : U8) (e : U32) (partner : Option FollowerAnswer)
  /-- COMMIT (R458): Arms the prepared epoch on the follower then the leader. -/
  | commit (tag : U8) (e : U32) (partner : FollowerCommit)
  /-- SLOT_B_COPY (R459): After Finished a die that booted slot B copies it to slot A and verifies it. -/
  | slotBCopy
  /-- GET_PUBKEY (R461): Returns the HSS attestation public key. -/
  | getPubkey (tag : U8)
  /-- ATTEST (R462): Returns a signed report over a nonce, reserving indices in flash. -/
  | attest (tag : U8) (nonce : List U8)
  /-- MAKER_CHALLENGE (R463): Returns a fresh 32-byte maker challenge. -/
  | makerChallenge (tag : U8)
  /-- MAKER_ENTER (R463): Checks a signed token and enters a maker mode, clearing memories and losing contexts. -/
  | makerEnter (tag : U8) (token : List U8)
  /-- DRAM_REFRESH (R477): Per-bank refresh at the interval the devices require. -/
  | dramRefresh (ch : Nat) (cycles : Nat)
  /-- REFRESH_RATE_READ (R477): Every 32 ms the refresh-rate reports are read and the interval derated. -/
  | refreshRateRead (rates : List Nat)
  /-- DRAM_SCRUB (R478): The memory controller reads every usable line once per scrub period with inline ECC. -/
  | dramScrub (errs : List DramError)
  /-- BYPASS (R486): JTAG BYPASS instruction. -/
  | bypass
  /-- IDCODE (R486): JTAG IDCODE instruction returning 0x1090_BB47. -/
  | idcode
  /-- SAMPLE_PRELOAD (R486): JTAG SAMPLE/PRELOAD instruction. -/
  | samplePreload
  /-- EXTEST (R486): JTAG EXTEST, accepted only while DIE_RST_N is low. -/
  | extest
  /-- CLAMP (R486): JTAG CLAMP, accepted only while DIE_RST_N is low. -/
  | clamp
  /-- HIGHZ (R486): JTAG HIGHZ instruction. -/
  | highz
  /-- REGISTER_WRITE (R11): A write to a register without a row of its own behaves by its access code. -/
  | registerWrite (bar : Nat) (off : Nat) (size : Nat) (v : U32)
  /-- POWER_LOSS (R464): Supply is lost abruptly, during an upload, a COMMIT, the slot copy, a record write or an index reservation, and the alternate flash copies decide what stands. -/
  | powerLoss
  /-- LINK_RETRAINED (R311): A retraining host or Seam link comes back within 300 us, stalled traffic resumes, and after a host-link loss dispatch resumes once the link has trained again. -/
  | linkRetrained (l : Link) (now : Nat)
  /-- SECTOR_PROGRAMMED (R449): T0 finishes erasing and programming a buffered upload block's sector in the background, which frees a place in the 16-block buffer. -/
  | sectorProgrammed
  /-- RETEST_OVERDUE (R433): ID_RETEST.OVERDUE counts each minute that a slot's accumulated idle time passes 10 minutes with its retest unfinished. -/
  | retestOverdue (slot : Nat)
  /-- MSIX_ENTRY_UNMASK (R397): Clearing a per-entry or function MSI-X mask sends a held message whose pending bit was set. -/
  | msixEntryUnmask (e : Nat)
  /-- UNDEFINED_ENCODING (R81): An instruction whose CLASS, OP or field value is undefined traps, ending the command and losing the context with CTX_LOST. -/
  | undefinedEncoding (g : Nat) (word : U64)
  /-- UNDEFINED_SLOT_OPCODE (R267): A fetched queue slot whose opcode is undefined, or not available at the context's level, loses the context with CTX_LOST. -/
  | undefinedSlotOpcode (q : Nat)
  /-- UNDEFINED_SERVICE_COMMAND (R444): A service-port private write with an undefined command byte discards any unread response and gets result BAD_FRAME. -/
  | undefinedServiceCommand (tag : U8) (cmd : U8)
deriving DecidableEq, Repr

end Sys2Proof
end

