-- ==== Sys2Proof/Config.lean ====
section
/-! DEFINITION. The uninterpreted constants of the model: values that the rules leave open. None has a
body, so nothing can be proved of a value it gives. -/

namespace Sys2Proof.Config

/-- A value the rules leave open, drawn afresh: applied to the state's free counter. -/
opaque free : Nat → Nat

/-- What a register of a group holds before anything has written it (R56): applied to the group's seed
and the register's key. -/
opaque startReg : Nat → Nat → U32

/-- What a predicate register of a group holds before anything has written it. -/
opaque startPred : Nat → Nat → U64

/-- The 16 bytes of a reconvergence-stack entry in private memory, and the entry that 16 bytes give which are not the
ones spilled (R63 and R243 give no layout): join address, address and mask. -/
opaque stackBytes : Nat → Nat → U64 → Nat
opaque stackEntry : Nat → Nat × Nat × U64

/-- What a 32-bit immediate stands for as a 64-bit source of an FP64 operation (R78 states none). -/
opaque imm64 : U32 → U64

/-- The result that hardware approximates in an FP32 or FP64 instruction of R148, before the bound of that
rule: applied to the operation's number and the operand. -/
opaque approx : Nat → Nat → Nat

/-- The predicate that takes SHFL's output bit where DST is no predicate number: R78 has DST name both the result's
register and that predicate. -/
opaque shuffleBit : Nat → Nat

/-- The predicate bit of a compare of FP16 or BF16 pairs, from the results of its low and high halves (R96
gives one predicate bit a thread and two results). -/
opaque packedCmp : Bool → Bool → Bool

/-- A shift by 32 or more, whose result R77 does not state: applied to the operation's number, the value and
the count. -/
opaque wideShift : Nat → U32 → U32 → U32

/-- Which operation of its class a word's OP and SUB stand for, in the order of the model's lists: R77 and R78 give no OP values
for the classes 0x0, 0x3, 0x5 and 0xA and no SUB values for the comparisons of FCMP. A number past a list's end is an OP
that the class lacks. -/
opaque opIndex : Nat → Nat → Nat → Nat

/-- What a register holds above a value of 1 or 2 bytes that a load or an atomic operation returned (R79 states
nothing): applied to the width in bytes and the value; only the bits above the value count. -/
opaque aboveLoad : Nat → U32 → U32

/-! ### The fixed functions of the graphics units -/

/-- A surface component that does not hold a value takes the code above it rather than the one below: the component's
kind, and the value's numerator and denominator. R320 and R324 state no rounding. -/
opaque surfaceUp : Nat → Int → Nat → Bool

/-- The sRGB code of a value that no code has, from its numerator and denominator. -/
opaque srgbCode : Int → Nat → Nat

/-- The code that a NaN or an infinity becomes in a surface component: the kind and the FP32 code. -/
opaque specialColour : Nat → Nat → Nat

/-- The value of an sRGB code, as numerator and denominator. -/
opaque srgb : Nat → Int × Nat

/-- The FP16 code in linear light of a display component under the sRGB transfer, 0, or PQ, 2, of which the manual gives no
curve (R345, R347): the transfer, and the value's numerator and denominator, or the FP16 code of an infinity or a NaN
with denominator 0. -/
opaque toLinear : Nat → Int → Nat → Nat

/-- The preferred timing that a sink's data gives, whose format lies outside the manual (R365, R366): the sink window's
bytes, and the number of a field of the timing in the model's order. -/
opaque preferredTiming : List U8 → Nat → Nat

/-- The encoded value of an FP16 code under the output's transfer, PQ or sRGB, as numerator and denominator (R347). -/
opaque outputCurve : Bool → Nat → Int × Nat

/-- The weight of one of the nine chroma samples around a luma sample, by the parities of its place (R346 gives 4:2:0 and
no siting). -/
opaque chromaWeight : Nat → Nat → Nat → Nat

/-- The first source position of a scaling filter and the weights of its taps, by the source and destination extents and
the output position (R349 gives neither). -/
opaque scaleBase : Nat → Nat → Nat → Nat
opaque scaleWeight : Nat → Nat → Nat → Nat → Nat

/-- A sample point of ink coverage in 1/256 pixel: 256 times its row plus its column (R362 gives 16 fixed points). -/
opaque inkSample : Nat → Nat

/-- The shorter side of the scaled boot framebuffer rounds up, by the quotient's numerator and denominator (R366). -/
opaque bootUp : Nat → Nat → Bool

/-- A blended component where an operand is a NaN or an infinity, or a factor has no stated value: the component's kind
and 256 times its channel, the blend word, the source's and the constant's words, and the destination sample. -/
opaque specialBlend : Nat → Nat → List Nat → Nat → Nat

/-- A draw's fragment kernel writes neither depth nor discards, which nothing in its record says (R331): the bytes of the
record. -/
opaque plainShader : List Nat → Bool

/-- A byte of the parameter buffer, whose layout is private (R322): the record of the primitive or the bin, as numbers, and
the byte's place. -/
opaque binByte : List Nat → Nat → Nat

/-- The place in the heap, in chunks of 256 bytes, of a chunk of a tile's bin: the heap's bytes, the tile and the chunk. -/
opaque binChunk : Nat → Nat → Nat → Nat

/-- The resolved code of a pixel: the surface format and its samples' codes (R318 states no filter). -/
opaque resolve : Nat → List Nat → Nat

/-- A primitive after clipping, the viewport and the snap to 1/256 pixel: the clip-space positions of its vertices
and the viewport's words; an empty list where nothing of it is left. -/
opaque clipSnap : List (List Nat) → List Nat → List (Int × Int)

/-- The place of sample `i` of `n` within a pixel, in 1/256 pixel. -/
opaque samplePos : Nat → Nat → Nat × Nat

/-- A line or point covers a sample: its snapped positions, the pixel, and the sample with 16 times their number. -/
opaque thinCover : List (Int × Int) → Nat → Nat → Nat → Bool

/-- An interpolated FP32 value of a primitive: its vertices' words, whether it is a triangle and the viewport's words,
which word (0 the depth), the pixel and the sample. -/
opaque interpolate : List (List Nat) → List Nat → Nat → Nat → Nat → Nat → Nat

/-- A weight or a level in 1/256 units is rounded up, from the exact value's numerator and denominator: R335 states that
weights are quantised and no direction. -/
opaque filterUp : Int → Nat → Bool

/-- The squares of the major and the minor axis of a sample's footprint, and of the axis from which a sampler without
anisotropy takes its level: the descriptor's fields and the quad's coordinates. R335 and R336 give no formula. -/
opaque footprint : List Nat → List Nat → Rat × Rat × Rat

/-- The coordinates and the weight in 1/256 of a probe of an anisotropic sample: the descriptor's fields, the coordinates,
the number of probes and which one. -/
opaque probe : List Nat → List Nat → Nat → Nat → Rat × Rat × Nat

/-- The layer and the coordinates in it that a cube coordinate names, and the layer of a sample that names none: the
descriptor's fields and the operands. -/
opaque cubePlace : List Nat → List Nat → Nat × Rat × Rat

/-- A filter of several texels of an integer format: their words and their weights. -/
opaque filteredUint : List Nat → List Int → Nat

/-- The texels that a filtered sample reads where a coordinate or a LOD is no number or a field of the sampler has no
stated meaning: the descriptor's and the sampler's fields, the operands and the quad's coordinates. Each is a level, a
layer, x and y (none for the border colour), and a weight in 1/256. -/
opaque taps : List Nat → List Nat → List Nat → List Nat → List (Nat × Nat × Option (Nat × Nat) × Int × Nat)

/-- The four FP32 codes of a texel of a block-compressed format: the format, 256 more where sRGB is decoded, the ASTC
footprint, the block's bytes and the texel's place in it. -/
opaque blockTexel : Nat → Nat → List Nat → Nat → Nat → List Nat

/-- The result of a sample with depth compare enabled, whose reference R334 does not name, from the descriptor, the
sampler, and the operands followed by the words of the texels. -/
opaque compared : List Nat → List Nat → List Nat → Nat

/-- A fetch outside the texture (R335 states no result). -/
opaque outsideTexel : List Nat → List Nat → List Nat

/-- A conservative box test reports a box that the exact segment does not meet: the ray's words and the committed t, and
the box (R338). -/
opaque boxSpurious : List Nat → List Nat → Bool

/-- The entry distance of a box that only the conservative test reports. -/
opaque boxEntry : List Nat → List Nat → Rat

/-- The triangle test where a word of the ray or of a vertex is no number: ray and vertices to t, u, v and back face,
none where the triangle is missed. -/
opaque triangleHit : List Nat → List Nat → Option (Nat × Nat × Nat × Bool)

/-- A distance or barycentric coordinate of a triangle hit takes the FP32 code above its exact value, of the two around
it. -/
opaque triangleUp : Int → Nat → Bool

/-- The face whose vertices turn counter-clockwise as the ray comes is the front (R339 names no winding). -/
opaque counterClockwiseFront : Bool

/-- A word of a hit to which the rules give no value: the words of the ray, the node's address and the word. -/
opaque rayOpen : List Nat → Nat → Nat → Nat

/-- A byte of a thread's traversal state in private memory, from the state's numbers; and a number of the state that
other bytes than those give (R340 gives no layout). -/
opaque travByte : List Nat → Nat → Nat
opaque travWord : List Nat → Nat → Nat

/-- A predicted ink position in 1/16 pixel from its exact value (R363 states no rounding). -/
opaque inkRound : Int → Nat → Int

/-! ### Identity -/

/-- Byte `i` of the sibling die's section of the capability table, which that die's repairs decide. -/
opaque partnerSection : Nat → U8

/-- Byte `i` of the die secret that T0 reconstructs from the PUF (R460). -/
opaque dieSecret : Nat → U8

/-- Byte `i` of the root key digest in mask ROM (R455). -/
opaque rootKeyDigest : Nat → U8

/-- Byte `i` of the maker key digest in mask ROM (R463). -/
opaque makerKeyDigest : Nat → U8

/-- Byte `i` of the identifier and root of the attestation key's top tree (R461 gives no derivation). -/
opaque attestKey : Nat → U8

/-- Byte `i` of the HSS signature of a report with a signature index (R461, R462). -/
opaque attestSign : List U8 → Nat → Nat → U8

end Sys2Proof.Config
end

