-- ==== Sys2Proof/Machine/State.lean ====
section
/-! DEFINITION. The state of one CL9 die as plain data, unit by unit, and the state after power is
applied, before DIE_RST_N rises. A default value is the field's reset value; where the rules give none
the docstring says so and the assumption log holds the choice. -/

namespace Sys2Proof.Machine

open Sys2Proof

/-! ### The die -/

/-- The part (R1, R17). -/
inductive Part where
  | x64 | x48 | x32
deriving DecidableEq, Repr

/-- The stepping; the manual describes B0 (00_scope.md). -/
inductive Stepping where
  | a1 | b0
deriving DecidableEq, Repr

/-- The stages of FE_STATUS.STAGE (R261, R425). -/
inductive Stage where
  | preTack | tack | fitting | finished
deriving DecidableEq, Repr

/-- The identity and start block: what the part is, how far its start came (R425 to R428), and the ID
registers (R264, R437). -/
structure Die where
  part : Part := .x64
  stepping : Stepping := .b0
  strap : Bool := false
  /-- Installed LPDDR5X capacity in MiB (R475). -/
  dramMib : Nat := 0
  dramMts : Nat := 0
  inlineEcc : Bool := false
  stage : Stage := .preTack
  /-- DIE_RST_N is low or the die has stopped; nothing runs. -/
  inReset : Bool := true
  /-- DIE_RST_N is low. -/
  pinLow : Bool := true
  /-- A start that has not ended: it waits at step 3 for a host module to train (R468), or for its next idle step. -/
  waiting : Option StartInputs := none
  /-- The apply of step 12 has begun. -/
  applying : Bool := false
  holdReason : U8 := 0
  fromSlotB : Bool := false
  partnerMissing : Bool := false
  mapLost : Bool := false
  strapIgnored : Bool := false
  /-- The package has two dies and the Seam link is paired (R427). -/
  twoDie : Bool := false
  /-- The partner has been lost since it was paired (R311). -/
  partnerLost : Bool := false
  tackUs : U32 := 0
  fittingUs : U32 := 0
  finishedUs : U32 := 0
  capGen : U32 := 0
  aperture : U8 := 0
  degraded : Bool := false
  /-- The counts that the last rewrite of the capability table found below their floors (R312). -/
  below : BitVec 4 := 0
  /-- The active maker mode, 0 for none (R463). -/
  makerMode : U8 := 0
  /-- The cluster tested in full at step 5 (R425). -/
  testedCluster : Nat := 0
  /-- Thimble cores T0 to T5 that run (R25, R26). -/
  thimbles : BitVec 6 := 0
  /-- Display pipes and compression engines that self-test took out of service (R428, R430). -/
  pipesOut : BitVec 4 := 0
  enginesOut : BitVec 2 := 0
  /-- T5's self-test and scrubbing are stopped until the next start (R26). -/
  t5Stopped : Bool := false
  /-- The usable DRAM of the sibling die in bytes, as it told when the dies paired (R218, R239). -/
  siblingBytes : Nat := 0
deriving DecidableEq, Repr

/-- An entry of the darning map (R431). -/
structure DarnEntry where
  type : Nat
  c : Nat := 0
  s : Nat := 0
  u : Nat := 0
  index : Nat := 0
  value : Nat := 0
deriving DecidableEq, Repr

/-- T5's darning state (R430 to R439). -/
structure Darn where
  /-- The live map, oldest entry first. -/
  entries : List DarnEntry := []
  /-- Sequence of the last written copy, and whether a map write is owed. -/
  seq : U32 := 0
  pending : Bool := false
  full : Bool := false
  hours : Nat := 0
  done : U16 := 0
  overdue : U16 := 0
  /-- Retests that are due, by logical slot: the segments of 64 that are done (R433). -/
  due : TMap Nat := []
  /-- Slots that rejoin: the physical slot, and whether a remap point is needed (R436). -/
  rejoin : TMap (Nat × Bool) := []
deriving DecidableEq, Repr

/-! ### Memory -/

/-- Byte-addressed memory: a list of cells with strictly rising addresses and no cell that holds the
byte an unlisted address reads as, which is zero. -/
abbrev Mem := List Host.Cell

/-- SECDED, link or inline-ECC errors that persist: the failing 128-byte lines of R310. -/
abbrev FailingLines := List Nat

/-! ### Patterns and partitions -/

/-- A selvedge window (R37). -/
structure SvWindow where
  valid : Bool := false
  rd : Bool := false
  wr : Bool := false
  shared : Bool := false
  base : Nat := 0
  size : Nat := 0
deriving DecidableEq, Repr

/-- A regulator's rate in 0.1 GB/s and burst in KiB (R34, R38). -/
structure Regulator where
  rate : U16 := 0
  burst : U16 := 0
deriving DecidableEq, Repr

/-- A partition window (R53): its static fields and the active values of its live fields. -/
structure Part16 where
  enable : Bool := false
  vf : Bool := false
  rekey : Bool := false
  qFirst : U16 := 0
  qCount : U16 := 0
  quota : U16 := 0
  cores : U64 := 0
  banks : U8 := 0
  pipes : U8 := 0
  ways : U16 := 0
  dma : U32 := 0
  key : U64 := 0
  /-- Windows 0 to 7; an index that is not listed is not VALID. -/
  windows : TMap SvWindow := []
  reserve : U8 := 0
  cmp0 : BitVec 5 := 0
  cmp1 : BitVec 5 := 0
  /-- Ports 0 DRAM, 1 L3 fill, 2 host link, 3 Seam link. -/
  regs : TMap Regulator := []
  /-- Block-group words of hardware clusters 0 to 7 (R40). -/
  groups : TMap U32 := []
deriving DecidableEq, Repr

/-- An apply that waits for non-restartable commands at step 2 (R46, R47): the package partitions that it affects, its
checked result, the sequence number, the apply's duration, the live registers and bias keys that the stream
gives a value, and the partition windows whose static fields it changes. -/
structure Apply where
  affected : U16
  result : TMap Part16
  seq : U32
  cycles : U32
  carried : List Nat := []
  keys : List Nat := []
deriving DecidableEq, Repr

/-- The PTN block (R52). -/
structure Ptn where
  srcLo : U32 := 0
  srcHi : BitVec 20 := 0
  srcLen : BitVec 17 := 0
  busy : Bool := false
  step : BitVec 3 := 0
  result : U8 := 0
  failOffset : U32 := 0
  activeSeq : U32 := 0
  applyTime : U32 := 0
  events : BitVec 4 := 0
  view : Bool := false
  haltReq : U16 := 0
  halted : U16 := 0
  /-- The active partition windows, keyed 16 * die + partition. -/
  parts : TMap Part16 := []
  /-- Live shadows not yet taken up, keyed 256 * (16 * die + partition) + register offset (R43, R44). -/
  shadows : TMap U32 := []
  /-- Credit in bytes, keyed 8 * partition + port: ports 0 to 3 of R38, the host and Seam ports inward, and 6 and 7
  the same two outward. Traffic that an access sets going may take it below zero. -/
  credit : TMap Int := []
  apply : Option Apply := none
deriving DecidableEq, Repr

/-! ### Fault records -/

/-- A fault record before it is written (R301); SEQ is given when it is written. -/
structure FaultRec where
  status : U8
  source : U8
  context : U16
  stitch : U64 := 0
  addr : U64 := 0
  info : U32 := 0
  lost : Bool := false
  merged : Bool := false
  die : Bool := false
  phys : Bool := false
  loss : U8 := 0
deriving DecidableEq, Repr

/-! ### Contexts and graphs -/

/-- The states of a context (R246). -/
inductive CtxState where
  | closed | running | faultWait | lost | destroying
deriving DecidableEq, Repr

/-- A parameter write that waits for the launches using its block (R277). -/
structure Deferred where
  blk : Nat
  addr : U64
  bytes : List U8
deriving DecidableEq, Repr

/-- A registered graph (R271, R275, R276): its image, the header fields the Shuttle holds, its current
version and where each live version's node table lies. -/
structure Graph where
  image : Nat
  level : U8
  nodes : Nat
  packs : Nat
  params : Nat
  timeout : U32
  spoolBytes : Nat
  spoolBase : Nat
  spoolVa : U64
  versionArea : Nat
  versionBytes : Nat
  paramTable : Nat
  packTable : Nat
  predTable : Nat
  current : Nat := 0
  /-- Physical address of the node table of each version made so far whose table still stands. -/
  tables : TMap Nat := []
  deferred : List Deferred := []
deriving DecidableEq, Repr

/-- A context: its open request (R242), its states, and its FE, MMU, FLT and DET windows (R262, R235,
R315, R174). All of it is cleared when a context opens. -/
structure Ctx where
  state : CtxState := .closed
  strict : Bool := false
  partition : Nat := 0
  csLevel : U8 := 0
  ptnLevel : U8 := 0
  abiLevel : U8 := 0
  loss : U8 := 0
  ignored : U32 := 0
  failedEvents : U32 := 0
  root0 : U64 := 0
  root1 : U64 := 0
  privBase : U64 := 0
  privPerGroup : U32 := 0
  priority : U16 := 0
  fqBase : Nat := 0
  fqOrder : Nat := 6
  save0 : Nat := 0
  save1 : Nat := 0
  saveSize : U32 := 0
  /-- MMU window: lowest failing page number, span in pages, merged and replayable faults. -/
  faultPage : BitVec 37 := 0
  faultSpan : U16 := 0
  merged : U32 := 0
  faults : U32 := 0
  /-- FLT window. -/
  fqWrite : U32 := 0
  fqRead : U32 := 0
  overflow : U32 := 0
  causeStatus : U8 := 0
  causeSource : U8 := 0
  causeLoss : U8 := 0
  fltMerged : U32 := 0
  invVa : BitVec 37 := 0
  invPages : U32 := 0
  invBusy : Bool := false
  invRejected : Bool := false
  /-- The next record number, and the records dropped since the last OVERFLOW record (R303). -/
  fqSeq : U32 := 0
  fqDroppedSince : U32 := 0
  /-- A PAGE_FAULT record that waits for space (R303). -/
  held : Option FaultRec := none
  /-- A PAGE_FAULT record is outstanding: written or held, and not yet answered (R231). -/
  outstanding : Bool := false
  /-- The fault of that record, which an ABORT reports (R232, R302). -/
  faulting : Option FaultRec := none
  /-- DET window counters. -/
  work : U64 := 0
  mem : U64 := 0
  link : U64 := 0
  refresh : U64 := 0
  retry : U64 := 0
  killed : U64 := 0
  loose : U32 := 0
  hostTimed : U32 := 0
  /-- The status with which a destroy runs (R247). -/
  destroyStatus : U8 := 0
  /-- The save directory: granules of the save area on this die that hold a saved copy, by SPACE 3
  granule index, and whether each is packed (R287, R385). -/
  saved : TMap Bool := []
  graphs : TMap Graph := []
deriving DecidableEq, Repr

/-! ### Render passes -/

/-- A fragment of a tile (R319, R330): its primitive's ordinal, pixel and sample, its depth, and whether the
primitive covers it; an uncovered one is a helper. -/
structure Frag where
  ord : Nat
  x : Nat
  y : Nat
  sample : Nat
  depth : U32
  covered : Bool
deriving DecidableEq, Repr

/-- A surviving primitive (R321): ordinal, draw, facing, whether it is a triangle, its snapped positions, the
words of its post-transform vertices, and the tiles in whose bins it lies. -/
structure Prim where
  ord : Nat
  draw : Nat
  front : Bool
  area : Bool
  poly : List (Int × Int)
  verts : List (List U32)
  tiles : List Nat
deriving DecidableEq, Repr

/-- What a fragment thread holds at EXIT (R319). -/
structure FragOut where
  keep : Bool
  depth : U32
  colours : List U32
deriving DecidableEq, Repr

/-- A fragment in ticket order, with its output once its thread has exited (R330). -/
structure Ticket where
  frag : Frag
  draw : Nat
  front : Bool
  /-- It has passed its depth and stencil tests before shading (R331). -/
  tested : Bool := false
  out : Option FragOut := none
deriving DecidableEq, Repr

/-- A tile in a core's tile buffer: the core, the place in its bin of the next primitive and the fragments of that
primitive sent so far, its contents keyed 16 * sample place + attachment (8 depth, 9 stencil), the fragments that have
not retired, and the quads with fragments that are held back, each with its primitive's place in the bin (R330). -/
structure TileBuf where
  core : Nat
  next : Nat := 0
  sent : Nat := 0
  px : TMap Nat := []
  tickets : List Ticket := []
  held : List (Nat × List Frag) := []
deriving DecidableEq, Repr

/-- A render pass: the header of its state block (R325), and what its engines and parameter buffer hold. -/
structure Pass where
  phase : Nat := 0
  stage : Nat := 0
  startDraw : Nat := 0
  startPrim : Nat := 0
  stopDraw : Nat := 0
  stopPrim : Nat := 0
  stored : Nat := 0
  kills : Nat := 0
  /-- Geometry: the draw, its next primitive, its survivors so far, the next ordinal and that of the phase's
  start. -/
  draw : Nat := 0
  next : Nat := 0
  prim : Nat := 0
  ord : Nat := 0
  startOrd : Nat := 0
  /-- Shaded vertices of the draw by instance * COUNT + vertex, and the vertices with a record in this phase. -/
  shaded : TMap (List U32) := []
  verts : List (Nat × Nat) := []
  heap : Nat := 0
  bins : List Prim := []
  tiles : TMap TileBuf := []
  /-- Tiles discarded in this run for an uncorrectable tile-buffer error (R190). -/
  spoilt : List Nat := []
  /-- The bytes of the pass descriptor, and of each draw record with its state block that geometry has read. -/
  desc : List U8 := []
  recs : TMap (List U8 × List U8) := []
deriving DecidableEq, Repr

/-! ### Queues and commands in flight -/

/-- The states of a queue (R251). -/
inductive QueueState where
  | free | active | stalled | halted | stopped | destroying
deriving DecidableEq, Repr

/-- A queue (R248 to R251, R263, R268). -/
structure Queue where
  state : QueueState := .free
  cls : Nat := 0
  ctx : Nat := 0
  sqOrder : Nat := 0
  cqOrder : Nat := 0
  notify : Bool := false
  sqBase : Nat := 0
  cqBase : Nat := 0
  rptr : Nat := 0
  sqRead : U32 := 0
  sqWrite : U32 := 0
  cqWrite : U32 := 0
  cqRead : U32 := 0
  dropped : U32 := 0
  sticky : U8 := 0
  /-- The oldest slot that has not finished, and the slots beyond it that have (R294). -/
  oldest : U32 := 0
  finished : List U32 := []
  /-- Records owed by dispatched commands (R251). -/
  owed : Nat := 0
  /-- The slot at SQ_READ is an EVENT_WAIT that waits (R254). -/
  waiting : Bool := false
  /-- The status with which a destroy ends, and its count of slots without a record (R295). -/
  destroyStatus : U8 := 0
  endedWithout : U32 := 0
  /-- The destroy is FE_QUEUE_CMD's own, whose end FE_QUEUE_RESULT reports (R249, R294). -/
  ownDestroy : Bool := false
  /-- Slots still in the ring that SUSPEND holds back, and that CANCEL ends when their turn comes (R282). -/
  holds : List U32 := []
  cancels : List U32 := []
deriving DecidableEq, Repr

/-- What a command in flight is doing. -/
inductive JobState where
  /-- ready, waiting for engines -/
  | ready
  /-- on its engines -/
  | running
  /-- its engines' work is in its outputs; the Shuttle has not accepted the last done report -/
  | done
  /-- killed on a page fault, waiting for RESUME (R230) -/
  | faultWait
  /-- killed, to run again before later commands of its queue -/
  | rerun
  /-- suspended (R282) -/
  | suspended
  /-- waiting for its packs (R291) -/
  | packWait
deriving DecidableEq, Repr

/-- The whole-launch part of a LAUNCH (R278, R282). -/
structure Launch where
  graph : U32
  version : Nat
  seedLo : U64
  seedHi : U64
  committed : List Nat := []
  suspended : Bool := false
  spoolReady : Bool := false
  /-- The block groups under which the launch was dispatched (R43). -/
  groups : TMap U32 := []
  /-- Sums of the committed nodes' counters for the launch record (R280). -/
  work : BitVec 48 := 0
  refresh : U32 := 0
  retry : U32 := 0
  loose : U32 := 0
  kills : Nat := 0
  hostTimed : Bool := false
deriving DecidableEq, Repr

/-- The progress of a COMPRESS or DECOMPRESS stream that SUSPEND may stop (R282, R378). -/
structure Stream where
  /-- The block slots of the command done so far. -/
  block : Nat := 0
  /-- The history, newest byte first, and the stream's counts and running CRC register (R378). -/
  hist : List U8 := []
  blocks : Nat := 0
  nofit : Nat := 0
  crc : U32 := 0xFFFFFFFF
  /-- The stream's NOFIT count when the command started, and the stream index of its first NOFIT block. -/
  nofit0 : Nat := 0
  first : Option Nat := none
  /-- SUSPEND has written the state to STATE_OUT (R383). -/
  saved : Bool := false
deriving DecidableEq, Repr

/-- A command in flight: a dispatched slot, or a node of a dispatched launch. -/
structure Job where
  queue : Nat
  slot : U32
  ctx : Nat
  opcode : U8
  /-- The node type of R272 or the engine kind the opcode gives; 0 for a whole launch. -/
  kind : Nat
  handle : U32
  nonRestart : Bool
  parkable : Bool := false
  record : Bool := true
  /-- The launch this command is a node of, and its node index. -/
  parent : Option Nat := none
  node : Nat := 0
  payload : List U8
  packs : List U8 := []
  /-- The byte offset in the die's Spool window of each pack slot's copy, once loaded (R290). -/
  packOffs : List Nat := []
  /-- The argument of a KERNEL (R273). -/
  arg : U64 := 0
  timeout : U32 := 0
  st : JobState := .ready
  /-- The number of kills before commit (R279). -/
  kills : Nat := 0
  /-- The order of dispatch, for victims and re-runs (R270). -/
  order : Nat := 0
  /-- The killed command re-runs before every other command of its partition: 2 the one that failed a residue check, 1 one
  that an apply, a context switch or a residue failure killed (R46, R288, R308). -/
  front : Nat := 0
  /-- Logical cores, DMA channel and compression engine that the command holds. -/
  cores : U64 := 0
  dma : Option Nat := none
  cmp : Option Nat := none
  /-- The coding slot of that engine that a stream holds (R371). -/
  codingSlot : Nat := 0
  /-- The status with which the command will end. -/
  status : U8 := 0
  loose : U32 := 0
  hostTimed : Bool := false
  /-- Refresh, retry and late deliveries counted to the running command (R160, R162). -/
  late : U32 := 0
  refresh : U32 := 0
  retry : U32 := 0
  /-- A stale-anchor kill makes the next run sweep (R125). -/
  forceSweep : Bool := false
  /-- SUSPEND has reached the command and it has not stopped (R282). -/
  suspending : Bool := false
  /-- The timer stands while the killed command waits to run again (R285). -/
  timerHeld : Bool := false
  launch : Option Launch := none
  stream : Option Stream := none
  /-- Blocks not yet started: the next linear block index (R66). -/
  nextBlock : Nat := 0
  pass : Option Pass := none
  /-- The tile in progress, for fault records (R166, R301). -/
  tile : Nat := 0
  /-- Frames of the tensors that a summarising command writes (R123), and the side tables that its run has preset. -/
  sumFrames : List Nat := []
  presets : List Nat := []
  /-- The untagged writes to frames that had been made when the run started (R123). -/
  started : Nat := 0
deriving DecidableEq, Repr

/-- The Shuttle front end (R261, R306, R313) and its dispatch position. -/
structure Fe where
  ctxReq : Nat := 0
  ctxStatus : U8 := 0
  ctxContext : U8 := 0
  ctxReason : U8 := 0
  /-- An OPEN, by its function, that waits for an apply (R48). -/
  openWaits : Option Nat := none
  ctxBusy : Bool := false
  queueDesc : Nat := 0
  queueStatus : U8 := 0
  queueReason : U8 := 0
  queueBusy : Bool := false
  eventAddr : Nat := 0
  eventValue : U64 := 0
  eventStatus : U8 := 0
  eventIgnored : Bool := false
  /-- The levels that the last accepted open negotiated: command stream, pattern stream, ABI (R240). -/
  csInUse : U8 := 0
  ptnInUse : U8 := 0
  abiInUse : U8 := 0
  events : BitVec 5 := 0
  ignoredCount : U32 := 0
  /-- The queue last served in each class 0 to 4 (R269). -/
  lastServed : TMap Nat := []
  nextJob : Nat := 0
  dispatches : Nat := 0
  /-- Dispatch is stopped: a third restart (R307), or a host link lost (R311). -/
  halted : Bool := false
  awaitHost : Bool := false
deriving DecidableEq, Repr

/-- A partition fault-queue window (R304, R314). -/
structure PartFq where
  base : Nat := 0
  order : Nat := 6
  enable : Bool := false
  write : U32 := 0
  read : U32 := 0
  dropped : U32 := 0
  seq : U32 := 0
  droppedSince : U32 := 0
deriving DecidableEq, Repr

/-- The FLT block (R313). -/
structure Flt where
  events : BitVec 9 := 0
  restarts : U16 := 0
  cause : U8 := 0
  halted : Bool := false
  quar : U64 := 0
  pq : TMap PartFq := []
  /-- Times in µs of the front-end restarts since start, newest first (R307). -/
  restartTimes : List Nat := []
  failing : FailingLines := []
deriving DecidableEq, Repr

/-! ### Translation -/

/-- A cached translation (R224): context, first page, size in 4 KiB pages, physical page, rights. -/
structure TlbEntry where
  ctx : Nat
  page : Nat
  pages : Nat
  pa : Nat
  wr : Bool
  ex : Bool
  uncached : Bool
deriving DecidableEq, Repr

/-- A pointer entry held by the walk cache (R224): context, level, the address bits from that level's
index up, and the next table. -/
structure WalkEntry where
  ctx : Nat
  level : Nat
  pre : Nat
  table : Nat
deriving DecidableEq, Repr

/-- The invalidation in progress (R226). -/
structure Inval where
  ctx : Nat
  page : Nat
  pages : Nat
deriving DecidableEq, Repr

/-- The MMU block (R234) and the translation buffers, newest entry first: by core, by cluster, and the die's walk cache
(R224). -/
structure Mmu where
  invVa : BitVec 37 := 0
  invPages : U32 := 0
  invContext : U8 := 0
  inval : Option Inval := none
  doneSeq : U16 := 0
  events : BitVec 5 := 0
  walks : U32 := 0
  coreTlb : TMap (List TlbEntry) := []
  clusterTlb : TMap (List TlbEntry) := []
  walkCache : List WalkEntry := []
deriving DecidableEq, Repr

/-! ### Determinism -/

/-- A replay-log window (R169, R173). -/
structure LogWin where
  base : Nat := 0
  order : Nat := 7
  head : U16 := 0
  tail : U16 := 0
  enable : Bool := false
  dropped : U32 := 0
  live : U32 := 0
  seq : U32 := 0
  droppedSince : U32 := 0
deriving DecidableEq, Repr

/-- The DET block (R172, R175). -/
structure Det where
  profile : U32 := 0
  profileInfo : U32 := 0x2000000
  lateUntagged : U32 := 0
  logs : TMap LogWin := []
  /-- _HI values latched by a read of their _LO register, keyed by BAR0 offset (R175). -/
  latches : TMap U32 := []
deriving DecidableEq, Repr

/-! ### Interrupts -/

/-- A source's bits that are held (R395, R400); PENDING of a level source is computed. -/
structure IcSource where
  enable : Bool := false
  pending : Bool := false
  inService : Bool := false
  /-- The physical function's entry (R394); none stands for the reset value of the source. -/
  vector : Option Nat := none
  /-- The vector on which the source was sent. -/
  sentOn : Nat := 0
deriving DecidableEq, Repr

/-- A vector window (R401) and its MSI-X mask and pending bits (R393). -/
structure IcVector where
  holdoff : U8 := 0
  awaiting : Bool := false
  count : U32 := 0
  masked : Bool := true
  held : Bool := false
deriving DecidableEq, Repr

/-- The interrupt controller. -/
structure Ic where
  sources : TMap IcSource := []
  vectors : TMap IcVector := []
  /-- The MSI-X function masks, bit 0 the physical function, bit n VF n. -/
  functionMasks : BitVec 16 := 0
  /-- The register bank each Thimble core runs on: 1 while a fast handler runs (R392). -/
  fastBank : BitVec 6 := 0
  /-- Thimble cores in a normal handler. -/
  handler : BitVec 6 := 0
deriving DecidableEq, Repr

/-! ### On-chip memories and caches -/

/-- The states of a Spool granule (R179). -/
inductive GranState where
  | free | pack | alloc
deriving DecidableEq, Repr

/-- A granule of a Spool bank that is not FREE (R179, R287): its context while ALLOC, and DIRTY. -/
structure Granule where
  st : GranState := .free
  ctx : Nat := 0
  dirty : Bool := false
deriving DecidableEq, Repr

/-- A resident PACK run (R290, R291). -/
structure PackRun where
  part : Nat
  bank : Nat
  first : Nat
  count : Nat
  digest : List U8
  packId : U64
  pin : Bool
  lastUse : Nat
deriving DecidableEq, Repr

/-- A share-table entry in use (R195). -/
structure ShareEntry where
  bank : Nat
  readers : U16
  first : Nat
  count : Nat
deriving DecidableEq, Repr

/-- A Spool bank's window (R194). -/
structure BankWin where
  ce : U32 := 0
  ue : U32 := 0
  stalls : U32 := 0
  ueOffset : BitVec 24 := 0
  /-- Spare rows used in each sub-bank (R191). -/
  spares : TMap Nat := []
  /-- Corrected errors of each row, keyed 0x10000 * sub-bank + row (R191). -/
  rowCe : TMap Nat := []
deriving DecidableEq, Repr

/-- The Spool block (R193 to R195). -/
structure Spl where
  online : U8 := 0xFF
  retired : U8 := 0
  clearing : U8 := 0
  retain : U8 := 0
  scrub : Bool := true
  period : U8 := 0x3C
  events : BitVec 6 := 0
  banks : TMap BankWin := []
  /-- Granules that are not FREE, keyed 256 * bank + granule. -/
  grans : TMap Granule := []
  packs : List PackRun := []
  shares : TMap ShareEntry := []
  granSel : U32 := 0
  /-- Banks that the next apply takes out of service (R191). -/
  toRetire : U8 := 0
deriving DecidableEq, Repr

/-- The three state bits of a cache (R207), its requested ENABLE, and the operation that runs. -/
structure CacheState where
  enabled : Bool := false
  invalidated : Bool := false
  busy : Bool := false
  enableReg : Bool := false
  /-- The running operation is the write-back of a disable. -/
  disabling : Bool := false
deriving DecidableEq, Repr

/-- A partition's HOTSPOT window (R211, R214). -/
structure HotWin where
  channel : Bool := false
  set : Bool := false
  hotChannel : BitVec 4 := 0
  hotGroup : BitVec 4 := 0
  runChannel : Nat := 0
  runSet : Nat := 0
  rekeys : U32 := 0
  /-- The window's DRAM requests by channel and L3 evictions by set group. -/
  requests : TMap Nat := []
  evictions : TMap Nat := []
deriving DecidableEq, Repr

/-- The L3 control block (R213, R214). -/
structure L3c where
  cache : CacheState := {}
  result : U8 := 0
  events : BitVec 5 := 0
  live : U16 := 0xFFFF
  disabled : U16 := 0
  thresh : U16 := 0x40
  ce : TMap U32 := []
  ue : TMap U32 := []
  hot : TMap HotWin := []
deriving DecidableEq, Repr

/-- A sector of a cache line (R199, R203, R205): dirty with the context that wrote it, none for the host; the owner of an
L3 sector; the bytes that a line of an L1, or a sibling-homed line of an L2, holds apart from its home; and the dirty
bytes of the latter. -/
structure Sector where
  dirty : Bool := false
  writer : Option Nat := none
  owner : Nat := 0
  bytes : List U8 := []
  mask : BitVec 128 := 0
deriving DecidableEq, Repr

/-- A line of a cache (R197 to R201): its tag, which is the line number in L1 and L2, its age, and its valid sectors, of
which only the L3 of a CL9-X64 has more than sector 0. -/
structure CacheLine where
  tag : Nat
  age : BitVec 4 := 0
  sectors : TMap Sector := []
deriving DecidableEq, Repr

/-- The lines of the caches: of the L1s keyed 4 * (128 * core + set) + way, of the L2s keyed
16 * (2048 * cluster + set) + way, and of the L3 keyed 16 * (1024 * slice + set) + way. -/
structure Lines where
  l1 : TMap CacheLine := []
  l2 : TMap CacheLine := []
  l3 : TMap CacheLine := []
deriving DecidableEq, Repr

/-- A logical core slot (R430, R436, R437). -/
structure CoreSlot where
  phys : Nat := 0
  /-- STATE of CLU_CORE (R440). -/
  st : BitVec 3 := 0
  lanes : BitVec 4 := 0
  idle : U32 := 0
  ray : Bool := true
  /-- Corrected errors of its rows and spare rows used (R191): local memory keyed 0x10000 * bank + row, and
  tile-buffer rows. -/
  lmRows : TMap Nat := []
  lmSpares : TMap Nat := []
  tbRows : TMap Nat := []
  tbSpares : Nat := 0
deriving DecidableEq, Repr

/-- A compression engine's window (R387). -/
structure CmpEngine where
  blocks : U32 := 0
  nofit : U32 := 0
  faults : U32 := 0
  ce : U32 := 0
  ue : U32 := 0
deriving DecidableEq, Repr

/-- The CMP block (R386). -/
structure Cmp where
  events : BitVec 4 := 0
  engines : TMap CmpEngine := []
deriving DecidableEq, Repr

/-- A cluster block: matrix counters (R132), memory errors (R196), caches (R215). -/
structure Cluster where
  sweeps : U32 := 0
  stale : U32 := 0
  residue : U32 := 0
  /-- Spare matrix cells used of each physical slot, bit 8 * engine + row pair (R105, R132). -/
  mxSpares : TMap U16 := []
  lmCe : U32 := 0
  lmUe : U32 := 0
  tbCe : U32 := 0
  tbUe : U32 := 0
  l1 : CacheState := {}
  l2 : CacheState := {}
  cacheResult : U8 := 0
  l2Ce : U32 := 0
  l2Ue : U32 := 0
deriving DecidableEq, Repr

/-! ### Thread groups -/

/-- Anchored adds to a global slot held in the L2 of a cluster (R145): the slot and the sum so far. -/
structure Delta where
  cluster : Nat
  ctx : Nat
  pa : Nat
  bytes : Nat
  value : Nat
deriving DecidableEq, Repr

/-- What keeps a group from issuing. -/
inductive GroupWait where
  | none
  | barrier (b : Nat)
  | cbar
deriving DecidableEq, Repr

/-- What a group runs: a kernel, the vertices of a draw from a linear index on, or fragments of a tile,
thread by thread. -/
inductive Role where
  | kernel
  | vertex (draw base : Nat)
  | fragment (tile : Nat) (frags : List Frag)
deriving DecidableEq, Repr

/-- A loaded operand half of a matrix engine (R107, R109): its tensor descriptor's address, the format code, KC,
and of each of its 32 lines the codes of the elements within the tensor and their block scales, none where the
tensor is not scaled. -/
structure MxHalf where
  td : Nat
  fmt : Nat
  kc : Nat
  codes : List (List Nat)
  scales : List (List Nat)
deriving DecidableEq, Repr

/-- A Bolt (R115): the 232-bit register, the flags, the sticky overflow bit of each sign, and the shadow that adds the
residues modulo 3 of its addends (R130). -/
structure Bolt where
  v : BitVec 232 := 0
  nan : Bool := false
  posInf : Bool := false
  negInf : Bool := false
  ovfPos : Bool := false
  ovfNeg : Bool := false
  shadow : BitVec 2 := 0
deriving DecidableEq, Repr

/-- A Bolt bank with anchors: the exponent terms of its rows and columns, and its Bolts by 32 * i + j. -/
structure MxBank where
  rows : List (Option Int)
  cols : List (Option Int)
  bolts : TMap Bolt := []
deriving DecidableEq, Repr

/-- A block's matrix engine: A halves 0 and 1, B halves 2 and 3, and banks 0 to 3 that have anchors. -/
structure MxEngine where
  halves : TMap MxHalf := []
  banks : TMap MxBank := []
deriving DecidableEq, Repr

/-- A hit of a ray: distance and barycentrics as FP32, and what it names (R339). -/
structure Hit where
  t : U32
  u : U32 := 0
  v : U32 := 0
  prim : U32 := 0
  geom : U32 := 0
  inst : U32 := 0
  back : Bool := false
  group : U32 := 0
deriving DecidableEq, Repr

/-- An entry of a traversal stack (R340): a node's address and kind, the base of its hierarchy's nodes, and
the instance leaf under which it lies. -/
structure StackEntry where
  node : Nat
  kind : Nat
  inst : Option Nat := none
  /-- The triangle of a leaf at which traversal goes on. -/
  next : Nat := 0
deriving DecidableEq, Repr

/-- A thread's traversal (R339, R340). -/
structure Trav where
  root : Nat
  flags : U32
  ray : List U32
  stack : List StackEntry := []
  best : Option Hit := none
  cand : Option Hit := none
  procedural : Bool := false
  restart : Bool := false
deriving DecidableEq, Repr

/-- A resident group (R54 to R63). A register, uniform register or predicate that nothing has written
since the group started holds a free value drawn from `seed`. -/
structure Group where
  job : Nat
  block : Nat
  /-- The group's index within its block. -/
  index : Nat
  /-- The resident slot of its vector engine (R55, R243). -/
  slot : Nat := 0
  n : Nat
  seed : Nat
  live : U64 := 0xFFFFFFFFFFFFFFFF
  active : U64 := 0xFFFFFFFFFFFFFFFF
  /-- The instruction offset from the code address, in 8-byte words. -/
  pc : Nat := 0
  /-- The reconvergence stack, top first: join address, address and mask. -/
  stack : List (Nat × Nat × U64) := []
  /-- The 16 bytes of each entry that has spilled to private memory, the bottom of the stack first (R63). -/
  spilled : List Nat := []
  /-- The return addresses of CALL, innermost first. -/
  calls : List Nat := []
  /-- Vector registers, keyed 64 * register + thread. -/
  regs : TMap U32 := []
  /-- The registers that the group's start has set, for vertices and fragments (R319), keyed as `regs`. -/
  first : TMap U32 := []
  uregs : TMap U32 := []
  preds : TMap U64 := []
  wait : GroupWait := .none
  /-- A ray traversal that waits on a candidate, by thread (R339). -/
  rays : TMap Trav := []
  /-- A TRACE that has not completed: the words of the threads that have returned, and the traversals of those that
  have begun (R339). -/
  traced : TMap (List U32) := []
  going : TMap Trav := []
  role : Role := .kernel
  retired : Bool := false
deriving DecidableEq, Repr

/-- A named barrier with arrivals (R71). -/
structure Barrier where
  arrived : Nat := 0
  /-- The expected count that a register named; none for the block's live groups. -/
  expected : Option Nat := none
  waiting : List Nat := []
deriving DecidableEq, Repr

/-- A resident block (R66, R67, R71, R72). -/
structure Block where
  job : Nat
  linear : Nat
  /-- The block cluster: its first block's identifier, this block's rank and the cluster's size. -/
  cluster : Nat
  rank : Nat
  size : Nat
  core : Nat
  /-- Base and declared size of its local memory in bytes (R183). -/
  base : Nat
  bytes : Nat
  groups : List Nat
  mem : Mem := []
  barriers : TMap Barrier := []
  /-- Groups that have executed CBAR since it last completed. -/
  cbar : List Nat := []
  /-- Matrix engines of the block: count, and faithful mode of each (R107, R138). -/
  engines : Nat := 0
  faithful0 : Bool := false
  faithful1 : Bool := false
  mx : TMap MxEngine := []
  /-- The block waits at b15 for RESUME (R283); whether its local memory is in the save area, and there
  packed. -/
  parked : Bool := false
  saved : Option Bool := none
  retired : Bool := false
deriving DecidableEq, Repr

/-! ### The display -/

/-- A notch region (R359, R360): its registers, and the coordinates and signature that hold for the frame. -/
structure Region where
  x0 : U16 := 0
  y0 : U16 := 0
  x1 : U16 := 0
  y1 : U16 := 0
  expected : U32 := 0
  actual : U32 := 0
  mode : BitVec 2 := 0
  mismatch : Bool := false
  count : U16 := 0
  inFrame : List Nat := [0, 0, 0, 0]
  frameExpected : U32 := 0
deriving DecidableEq, Repr

/-- A pipe's timing and routing (R369). -/
structure Timing where
  output : BitVec 2 := 0
  stream : Bool := false
  bpc : BitVec 2 := 0
  pq : Bool := false
  dsc : Bool := true
  hactive : U16 := 0
  htotal : U16 := 0
  vactive : U16 := 0
  vtotal : U16 := 0
  clock : U32 := 0
deriving DecidableEq, Repr

/-- A flip set that T2 has read (R351): its place, its header and descriptors, the partition under which it passed its
checks, and whether LATE has been counted for it. -/
structure FlipSet where
  addr : Nat
  header : List U8
  descs : TMap (List U8)
  owner : Option Nat
  late : Bool := false
deriving DecidableEq, Repr

/-- A set that is in use (R356): the layers of it that are still shown, and its release event and value. -/
structure FlipUse where
  layers : List Nat
  release : Option (Nat × Nat)
deriving DecidableEq, Repr

/-- A display pipe (R343, R352 to R364, R369). -/
structure Pipe where
  enable : Bool := false
  /-- The registers, and the timing that the last MODESET applied. -/
  regs : Timing := {}
  mode : Timing := {}
  running : Bool := false
  mirroring : Bool := false
  /-- The pipe's timing is the one that mirroring chooses: no MODESET has been applied since the start (R366). -/
  bootTiming : Bool := false
  dscOn : Bool := false
  result : U8 := 0
  frame : U32 := 0
  flipBase : Nat := 0
  flipOrder : Nat := 1
  flipWrite : U32 := 0
  flipRead : U32 := 0
  late : U32 := 0
  skipped : U32 := 0
  underflow : U32 := 0
  inkDropped : U32 := 0
  inkBase : Nat := 0
  inkOrder : Nat := 6
  horizon : BitVec 6 := 0x19
  predict : Bool := true
  inkWrite : U32 := 0
  inkRead : U32 := 0
  palette : TMap U32 := []
  regions : TMap Region := []
  /-- The descriptors shown, by layer. -/
  layers : TMap (List U8) := []
  inUse : List FlipUse := []
  head : Option FlipSet := none
  latched : Option FlipSet := none
  /-- The ends of the predicted ink segments, in 1/16 pixel (R363). -/
  predicted : List (Int × Int) := []
  /-- More than 64 segments have been live at once in this frame (R362). -/
  crowded : Bool := false
  /-- An underflow has left layer pixels out of this frame (R358). -/
  missed : Bool := false
deriving DecidableEq, Repr

/-- The DSP block (R368). -/
structure Dsp where
  mirror : BitVec 4 := 0xF
  bootAddr : Nat := 0
  bootWidth : U16 := 0
  bootHeight : U16 := 0
  bootPitch : BitVec 18 := 0
  connected : BitVec 3 := 0
  linkUp : BitVec 3 := 0
  events : BitVec 10 := 0
  sinks : TMap (List U8) := []
  pipes : TMap Pipe := []
deriving DecidableEq, Repr

/-! ### Power -/

/-- The power states of R413; Idle is Run with every arithmetic island gated. -/
inductive PowerState where
  | run | doze | nap | hold | off
deriving DecidableEq, Repr

/-- The settings of a WAKE pin (R417). -/
structure WakeCfg where
  enable : Bool := false
  polarity : Bool := false
  level : Bool := false
  debounce : BitVec 4 := 0
deriving DecidableEq, Repr

/-- The PWR block (R404 to R421). -/
structure Pwr where
  cooling : Bool := false
  topLevel : BitVec 3 := 2
  locked : Bool := false
  req : BitVec 3 := 2
  current : BitVec 3 := 2
  target : BitVec 3 := 2
  cause : BitVec 3 := 1
  changing : Bool := false
  /-- The level to whose frequency a comparator holds the islands while the change to it runs (R407, R411). -/
  clamp : Option (BitVec 3) := none
  watts : U8 := 0
  window : BitVec 10 := 10
  /-- COOLANT_OK as filtered, and the coolant cause. -/
  coolantOk : Bool := false
  coolant : Bool := false
  losses : U16 := 0
  /-- The throttle level and the limit level while their causes last, and the windows below 90 % in a row. -/
  thermal : Option (BitVec 3) := none
  limit : Option (BitVec 3) := none
  limitLow : Nat := 0
  trip : Bool := false
  state : PowerState := .run
  /-- The state that an entry is taking the die to, and its step (R415). -/
  entry : Option PowerState := none
  step : BitVec 3 := 0
  result : U8 := 0
  critical : Bool := false
  /-- THERM_ALERT_N is driven low. -/
  alert : Bool := false
  wakeCfg : TMap WakeCfg := []
  wakeI3c : Bool := true
  wakeSideband : Bool := true
  wakeCause : BitVec 7 := 0
  events : BitVec 10 := 0
  throttle : U8 := 0x5F
  alertAt : U8 := 0x64
  hyst : BitVec 4 := 5
  energy : U64 := 0
  /-- The last readings, in 0.125 °C; a sensor that is not listed has none. -/
  temps : TMap Nat := []
  /-- The logical cores whose islands are clock-gated (R414). -/
  gated : U64 := 0
deriving DecidableEq, Repr

/-! ### Links and memory channels -/

/-- A UCIe module's window (R490). -/
structure Module where
  state : BitVec 2 := 0
  rate : BitVec 6 := 0
  width : BitVec 7 := 0
  repaired : U8 := 0
  retries : U32 := 0
  crcErrors : U32 := 0
  retrains : U16 := 0
deriving DecidableEq, Repr

/-- The SLK block (R490) and the die-link protocol's receiver and sender (R473). -/
structure Slk where
  level : BitVec 4 := 0
  partnerStepping : BitVec 4 := 0
  events : BitVec 4 := 0
  /-- UH0, UH1, US0, US1. -/
  modules : TMap Module := []
  /-- The sequence number expected next, the flits received since the last ACK was sent, and the retries in a row
  without progress. -/
  expected : BitVec 12 := 0
  unacked : Nat := 0
  attempts : Nat := 0
  /-- Flits kept for replay, oldest first, and the flits that the last received flit made the die send. -/
  replay : List SeamFlit := []
  sent : List SeamFlit := []
  /-- The bytes of each channel's last message while it goes on in the next flit, and the messages delivered. -/
  part : List U8 := []
  delivered : TMap (List (List U8)) := []
deriving DecidableEq, Repr

/-- A memory channel's window (R489). -/
structure Channel where
  ce : U32 := 0
  ue : U32 := 0
  linkCe : U32 := 0
  repeats : U32 := 0
  stalls : U64 := 0
  rate : BitVec 3 := 3
  ueAddr : U32 := 0
deriving DecidableEq, Repr

/-- The MC block (R488), and the last answer to a host's CXL.mem read or snoop: its bytes, and whether it carried
the indication of damaged data. -/
structure Mc where
  events : BitVec 5 := 0
  scrub : Bool := true
  period : U8 := 0x18
  channels : TMap Channel := []
  answer : List U8 := []
  damaged : Bool := false
deriving DecidableEq, Repr

/-! ### The service port -/

/-- The upload states of R465. -/
inductive UploadState where
  | idle | receiving | suspended | complete | failed | aborted
deriving DecidableEq, Repr

/-- The activation states of R465. -/
inductive ActState where
  | none | prepared | armed | copying
deriving DecidableEq, Repr

/-- The I3C target, the service protocol and the SVC block (R441 to R465). -/
structure Svc where
  /-- The dynamic address. -/
  addr : Option (BitVec 7) := none
  /-- In-band interrupts and Hot-Join as ENEC and DISEC leave them, and whether the die has issued its Hot-Join. -/
  ibiOn : Bool := false
  hjOn : Bool := true
  hotJoin : Bool := false
  mwl : U16 := 4112
  mrl : U16 := 4112
  hdr : Bool := false
  rstact : Option U8 := none
  /-- What the last common command returned, whether the last command or transfer was refused with a NACK, and the
  mandatory bytes of the in-band interrupts that the last step sent. -/
  reply : List U8 := []
  nack : Bool := false
  ibis : List U8 := []
  /-- The response that is ready, and the bytes of the last one that was read. -/
  response : Option (List U8) := none
  lastRead : List U8 := []
  upload : UploadState := .idle
  reason : BitVec 3 := 0
  result : U8 := 0
  length : Nat := 0
  handle : U32 := 0
  /-- The blocks received, and those of them that are not programmed yet, in the order of arrival. -/
  received : List Nat := []
  buffer : List (Nat × List U8) := []
  /-- The epochs and the activation state that the die shows; the manifest digest of the image that runs. -/
  activeEpoch : U32 := 0
  armedEpoch : U32 := 0
  act : ActState := .none
  preparedEpoch : U32 := 0
  ackMask : U8 := 0
  running : List U8 := []
  /-- The next signature index and the reserved limit. -/
  next : Nat := 0
  limit : Nat := 0
  challenge : Option (List U8) := none
  events : BitVec 7 := 0
deriving DecidableEq, Repr

/-! ### Test access -/

/-- The instructions of the test access port (R486). -/
inductive JtagInstr where
  | bypass | idcode | samplePreload | extest | clamp | highz
deriving DecidableEq, Repr

/-- The test access port: its instruction, and what the selected data register has captured. -/
structure Jtag where
  instr : JtagInstr := .idcode
  data : U32 := 0x1090BB47
deriving DecidableEq, Repr

/-- A named fault. The rules end no command of the CL9 in a stop of the machine, and no meaning raises
one. -/
inductive Fault where
  /-- No command raises it; safe. -/
  | none
deriving DecidableEq, Repr

/-- A refusal by name. -/
inductive Refusal where
  /-- Raised by the dispatch alone, for a command that has no meaning yet; safe. -/
  | notModelled (mnemonic : String)
deriving DecidableEq, Repr

/-- The state of the die. -/
structure State where
  die : Die := {}
  darn : Darn := {}
  mem : Mem := []
  flash : Mem := []
  ptn : Ptn := {}
  fe : Fe := {}
  ctxs : TMap Ctx := []
  queues : TMap Queue := []
  jobs : TMap Job := []
  flt : Flt := {}
  mmu : Mmu := {}
  det : Det := {}
  ic : Ic := {}
  spl : Spl := {}
  l3c : L3c := {}
  lines : Lines := {}
  cmp : Cmp := {}
  clusters : TMap Cluster := []
  /-- Logical core slots, keyed 8 * cluster + slot. -/
  cores : TMap CoreSlot := []
  groups : TMap Group := []
  blocks : TMap Block := []
  deltas : List Delta := []
  dsp : Dsp := {}
  pwr : Pwr := {}
  slk : Slk := {}
  mc : Mc := {}
  svc : Svc := {}
  jtag : Jtag := {}
  /-- Frames with VALID and TOUCHED of R123, keyed by 64 KiB frame number: bit 0 VALID, bit 1 TOUCHED. -/
  frames : TMap (BitVec 2) := []
  /-- The model's own count of untagged writes to frames, and of each frame the count after its last one (R123). -/
  writes : Nat := 0
  lastWrite : TMap Nat := []
  /-- The model's own field: the logical core whose translation buffers, L1 and L2 serve the accesses of the command that
  runs; none for units that are not on a core. -/
  user : Option Nat := none
  /-- The model's own record of what the runs of each command in flight have written, by command: physical addresses and
  lengths. A kill leaves these bytes undefined (R28). -/
  trail : TMap (List (Nat × Nat)) := []
  /-- The model's own counter from which free values are drawn. -/
  freeCtr : Nat := 0
  /-- The commands that wait, first in, first out. -/
  pending : List Instr := []
deriving DecidableEq, Repr

/-- The machine right after power is applied: DIE_RST_N low, nothing listed. -/
def State.reset : State := {}

end Sys2Proof.Machine
end

