-- ==== Sys2Proof/Machine/Ops.lean ====
section
/-! DEFINITION. The shared operations: bytes of memory, tables of units, saturating counters, check
codes, the constants of each part, and the events that raise interrupts. -/

namespace Sys2Proof.Machine

open Sys2Proof

/-! ### Outcomes -/

/-- A step of the die. Every command that the rules describe ends in a next state. -/
abbrev Out := Host.Outcome State Fault Refusal

/-! ### Memory -/

/-- The byte at an address; an address that is not listed reads as zero. -/
def Mem.byte : Mem → Nat → U8
  | [], _ => 0
  | (b, v) :: m, a => if b = a then v else if a < b then 0 else Mem.byte m a

/-- The memory with byte `v` at an address, in canonical form. -/
def Mem.put : Mem → Nat → U8 → Mem
  | [], a, v => if v = 0 then [] else [(a, v)]
  | (b, w) :: m, a, v =>
    if a < b then (if v = 0 then (b, w) :: m else (a, v) :: (b, w) :: m)
    else if a = b then (if v = 0 then m else (a, v) :: m)
    else (b, w) :: Mem.put m a v

/-- The canonical form: addresses strictly rise, and no listed byte is zero. -/
def Mem.wf : Mem → Bool
  | [] => true
  | [(_, v)] => v != 0
  | (a, v) :: (b, w) :: m => v != 0 && decide (a < b) && Mem.wf ((b, w) :: m)

/-- The `n` bytes from an address. -/
def Mem.bytes (m : Mem) (a : Nat) : Nat → List U8
  | 0 => []
  | n + 1 => m.byte a :: Mem.bytes m (a + 1) n

/-- The memory with the bytes `bs` from an address. -/
def Mem.putBytes : Mem → Nat → List U8 → Mem
  | m, _, [] => m
  | m, a, b :: bs => Mem.putBytes (m.put a b) (a + 1) bs

/-- The number that bytes spell, least significant byte first (R10, R34). -/
def ofBytes : List U8 → Nat
  | [] => 0
  | b :: bs => b.toNat + 256 * ofBytes bs

/-- The `n` bytes of a number, least significant first. -/
def toBytes : Nat → Nat → List U8
  | 0, _ => []
  | n + 1, v => BitVec.ofNat 8 v :: toBytes n (v / 256)

/-- The number in the `n` bytes from an address. -/
def Mem.num (m : Mem) (a n : Nat) : Nat := ofBytes (m.bytes a n)

/-- The memory with a number in the `n` bytes from an address. -/
def Mem.putNum (m : Mem) (a n v : Nat) : Mem := m.putBytes a (toBytes n v)

/-- The memory with `n` zero bytes from an address. -/
def Mem.zero (m : Mem) (a n : Nat) : Mem := m.filter (fun c => c.1 < a || a + n ≤ c.1)

/-- The memory without every cell from `lo` up to `hi`, moved nowhere: what a hardware clear leaves. -/
def Mem.keep (m : Mem) (p : Nat → Bool) : Mem := m.filter (fun c => p c.1)

/-- Field `off`, `n` bytes wide, of a record given as its bytes. -/
def field (bs : List U8) (off n : Nat) : Nat := ofBytes ((bs.drop off).take n)

/-- The address target: bits [51:50] of a physical address (R217). -/
def target (pa : Nat) : Nat := pa / 2 ^ 50 % 4

/-- A target's base address. -/
def targetBase (t : Nat) : Nat := t * 2 ^ 50

/-! ### Counters -/

/-- A 32-bit counter that saturates. -/
def satAdd32 (c : U32) (n : Nat) : U32 := BitVec.ofNat 32 (min (c.toNat + n) 0xFFFFFFFF)

/-- A 64-bit counter that saturates. -/
def satAdd64 (c : U64) (n : Nat) : U64 := BitVec.ofNat 64 (min (c.toNat + n) 0xFFFFFFFFFFFFFFFF)

/-- A 48-bit counter that saturates. -/
def satAdd48 (c : BitVec 48) (n : Nat) : BitVec 48 := BitVec.ofNat 48 (min (c.toNat + n) 0xFFFFFFFFFFFF)

/-- A 16-bit counter that saturates. -/
def satAdd16 (c : U16) (n : Nat) : U16 := BitVec.ofNat 16 (min (c.toNat + n) 0xFFFF)

/-- Bit `i` of a mask. -/
def bit (m : BitVec w) (i : Nat) : Bool := m.getLsbD i

/-- The mask with bit `i` set or cleared. -/
def setBit {w : Nat} (m : BitVec w) (i : Nat) (v : Bool) : BitVec w :=
  if v then m ||| BitVec.twoPow w i else m &&& ~~~(BitVec.twoPow w i)

/-- The number of set bits. -/
def popcount {w : Nat} (m : BitVec w) : Nat := ((List.range w).filter (fun i => bit m i)).length

/-- The indices of the set bits, ascending. -/
def bitsOf {w : Nat} (m : BitVec w) : List Nat := (List.range w).filter (fun i => bit m i)

/-! ### Check codes -/

/-- One bit step of the reflected CRC-32C. -/
def crc32cBit (c : U32) : U32 :=
  if bit c 0 then (c >>> 1) ^^^ 0x82F63B78 else c >>> 1

/-- One byte of the reflected CRC-32C. -/
def crc32cByte (c : U32) (b : U8) : U32 :=
  crc32cBit (crc32cBit (crc32cBit (crc32cBit (crc32cBit (crc32cBit (crc32cBit (crc32cBit
    (c ^^^ b.zeroExtend 32))))))))

/-- The CRC-32C of bytes: initial value and final inversion of all ones. -/
def crc32c (bs : List U8) : U32 := ~~~(bs.foldl crc32cByte 0xFFFFFFFF)

/-! ### What the parts have (R17, the variant table of 00_scope.md) -/

/-- Enabled core slots of each cluster. -/
def Part.slots : Part → Nat
  | .x64 => 8 | .x48 => 6 | .x32 => 4

/-- A Spool bank's size in MiB (R178). -/
def Part.bankMib : Part → Nat
  | .x64 => 12 | .x48 => 8 | .x32 => 4

/-- The L2 of a cluster in KiB. -/
def Part.l2Kib : Part → Nat
  | .x64 => 4096 | .x48 => 4096 | .x32 => 2048

/-- The L3 in MiB. -/
def Part.l3Mib : Part → Nat
  | .x64 => 64 | .x48 => 32 | .x32 => 16

/-- Display pipes. -/
def Part.pipes : Part → Nat
  | .x64 => 4 | .x48 => 3 | .x32 => 2

/-- Compression engines. -/
def Part.engines : Part → Nat
  | .x64 => 2 | .x48 => 2 | .x32 => 0

/-- Ray traversal units and Seam modules are present. -/
def Part.big : Part → Bool
  | .x64 => true | .x48 => true | .x32 => false

/-- The part code of ID_PART and the DEVICE entry (R240, R264). -/
def Part.code : Part → Nat
  | .x64 => 1 | .x48 => 2 | .x32 => 3

/-- The stepping code (R240, R264). -/
def Stepping.code : Stepping → Nat
  | .a1 => 1 | .b0 => 2

/-- The stage code of FE_STATUS.STAGE (R261). -/
def Stage.code : Stage → Nat
  | .preTack => 0 | .tack => 1 | .fitting => 2 | .finished => 3

/-- The logical core slots that the part enables, k = 8c + s. -/
def Part.coreSlots (p : Part) : List Nat :=
  (List.range 64).filter (fun k => k % 8 < p.slots)

/-- The usable DRAM of the die in bytes: 15/16 of the installed capacity under inline ECC (R476). -/
def State.capacity (s : State) : Nat :=
  if s.die.inlineEcc then s.die.dramMib * 2 ^ 20 * 15 / 16 else s.die.dramMib * 2 ^ 20

/-- The trained DRAM bandwidth in 0.1 GB/s: 16 channels of 16 bits. -/
def State.dramRate (s : State) : Nat := s.die.dramMts * 32 / 100

/-- This die dispatches: a one-die package, or the die strapped 0 (R19). -/
def State.leader (s : State) : Bool := !s.die.twoDie || !s.die.strap

/-- The die number that records of this die carry. -/
def State.dieNo (s : State) : Nat := if s.die.twoDie && s.die.strap then 1 else 0

/-- The dies of the package, by number. -/
def State.dies (s : State) : List Nat := if s.die.twoDie then [0, 1] else [0]

/-- The key of partition `p` of this die in the partition windows. -/
def State.partKey (s : State) (p : Nat) : Nat := 16 * s.dieNo + p

/-- The Seam link is in use (R38, R218). -/
def State.seamInUse (s : State) : Bool := s.die.twoDie && !s.die.partnerLost

/-- Partition `p` of this die. -/
def State.part (s : State) (p : Nat) : Part16 := s.ptn.parts.get {} (s.partKey p)

/-- Context `c`. -/
def State.ctx (s : State) (c : Nat) : Ctx := s.ctxs.get {} c

/-- Queue `q`. -/
def State.queue (s : State) (q : Nat) : Queue := s.queues.get {} q

/-- The state with context `c` changed. -/
def State.updCtx (s : State) (c : Nat) (f : Ctx → Ctx) : State :=
  { s with ctxs := s.ctxs.set c (f (s.ctx c)) }

/-- The state with queue `q` changed. -/
def State.updQueue (s : State) (q : Nat) (f : Queue → Queue) : State :=
  { s with queues := s.queues.set q (f (s.queue q)) }

/-- The state with command `j` changed, where it is in flight. -/
def State.updJob (s : State) (j : Nat) (f : Job → Job) : State :=
  match s.jobs.find j with
  | none => s
  | some v => { s with jobs := s.jobs.set j (f v) }

/-- The next free value, and the state whose counter has moved past it. -/
def State.free (s : State) : Nat × State := (Config.free s.freeCtr, { s with freeCtr := s.freeCtr + 1 })

/-! ### Events and interrupts -/

/-- FE_EVENTS bits (R261). -/
def State.feEvent (s : State) (i : Nat) : State :=
  { s with fe := { s.fe with events := setBit s.fe.events i true } }

/-- PTN_EVENTS bits (R52). -/
def State.ptnEvent (s : State) (i : Nat) : State :=
  { s with ptn := { s.ptn with events := setBit s.ptn.events i true } }

/-- FLT_EVENTS bits (R313). -/
def State.fltEvent (s : State) (i : Nat) : State :=
  { s with flt := { s.flt with events := setBit s.flt.events i true } }

/-- MMU_EVENTS bits (R234). -/
def State.mmuEvent (s : State) (i : Nat) : State :=
  { s with mmu := { s.mmu with events := setBit s.mmu.events i true } }

/-- Interrupt source `src`. -/
def State.source (s : State) (src : Nat) : IcSource := s.ic.sources.get {} src

/-- The state with interrupt source `src` changed. -/
def State.updSource (s : State) (src : Nat) (f : IcSource → IcSource) : State :=
  { s with ic := { s.ic with sources := s.ic.sources.set src (f (s.source src)) } }

/-- An edge source asserts: PENDING is set (R395). -/
def State.raise (s : State) (src : Nat) : State :=
  s.updSource src (fun x => { x with pending := true })

end Sys2Proof.Machine
end

