-- ==== Sys2Proof/Machine/Sha.lean ====
section
/-! DEFINITION. SHA-256, the digest of weight packs, images and ROMs (R290, R448, R461). -/

namespace Sys2Proof.Machine

open Sys2Proof

/-- The words of a number of `32 * n` bits, the most significant first. -/
def shaTable (n v : Nat) : List U32 := (List.range n).map (fun i => BitVec.ofNat 32 (v >>> (32 * (n - 1 - i))))

/-- The 64 round constants, one after another: the first 32 bits of the fractional part of the cube root of each of the
first 64 primes. -/
def shaK : List U32 := shaTable 64
  0x428a2f9871374491b5c0fbcfe9b5dba53956c25b59f111f1923f82a4ab1c5ed5d807aa9812835b01243185be550c7dc372be5d7480deb1fe9bdc06a7c19bf174e49b69c1efbe47860fc19dc6240ca1cc2de92c6f4a7484aa5cb0a9dc76f988da983e5152a831c66db00327c8bf597fc7c6e00bf3d5a7914706ca63511429296727b70a852e1b21384d2c6dfc53380d13650a7354766a0abb81c2c92e92722c85a2bfe8a1a81a664bc24b8b70c76c51a3d192e819d6990624f40e3585106aa07019a4c1161e376c082748774c34b0bcb5391c0cb34ed8aa4a5b9cca4f682e6ff3748f82ee78a5636f84c878148cc7020890befffaa4506cebbef9a3f7c67178f2

/-- The initial hash value: the first 32 bits of the fractional part of the square root of each of the first 8 primes. -/
def shaInit : List U32 := shaTable 8 0x6a09e667bb67ae853c6ef372a54ff53a510e527f9b05688c1f83d9ab5be0cd19

/-- The exclusive or of a word's rotations to the right. -/
def turns (x : U32) (ns : List Nat) : U32 := ns.foldl (fun y n => y ^^^ x.rotateRight n) 0

/-- The word of the message schedule that follows sixteen, the newest first. -/
def shaNext (w : List U32) : U32 :=
  let at_ (i : Nat) : U32 := w.getD i 0
  (turns (at_ 1) [17, 19] ^^^ (at_ 1 >>> 10)) + at_ 6 + (turns (at_ 14) [7, 18] ^^^ (at_ 14 >>> 3)) + at_ 15

/-- The eight working variables after one round, with the sum of the round's constant and message word. -/
def shaRound (v : List U32) (kw : U32) : List U32 :=
  let x (i : Nat) : U32 := v.getD i 0
  let choice := (x 4 &&& (x 5 ^^^ x 6)) ^^^ x 6
  let majority := (x 0 &&& (x 1 ||| x 2)) ||| (x 1 &&& x 2)
  let m := turns (x 4) [6, 11, 25] + choice + x 7 + kw
  (m + turns (x 0) [2, 13, 22] + majority) :: (v.take 3 ++ (x 3 + m) :: (v.drop 4).take 3)

/-- The 64 rounds: the words still to come are those of the block, oldest first, then the schedule. -/
def shaRounds : List U32 → (todo seen : List U32) → (v : List U32) → List U32
  | [], _, _, v => v
  | k :: ks, t :: ts, seen, v => shaRounds ks ts ((t :: seen).take 16) (shaRound v (k + t))
  | k :: ks, [], seen, v =>
    let w := shaNext seen
    shaRounds ks [] ((w :: seen).take 16) (shaRound v (k + w))

/-- The sixteen big-endian words of 64 bytes. -/
def shaWords : (n : Nat) → List U8 → List U32
  | 0, _ => []
  | n + 1, bs => BitVec.ofNat 32 (ofBytes (bs.take 4).reverse) :: shaWords n (bs.drop 4)

/-- The hash after `n` blocks of 64 bytes. -/
def shaBlocks : (n : Nat) → List U8 → List U32 → List U32
  | 0, _, h => h
  | n + 1, bs, h => shaBlocks n (bs.drop 64) (List.zipWith (· + ·) h (shaRounds shaK (shaWords 16 bs) [] h))

/-- The SHA-256 of bytes. -/
def sha256 (bs : List U8) : List U8 :=
  let pad := (119 - bs.length % 64) % 64
  let m := bs ++ [0x80] ++ List.replicate pad 0 ++ (toBytes 8 (8 * bs.length)).reverse
  (shaBlocks (m.length / 64) m shaInit).flatMap (fun w => (toBytes 4 w.toNat).reverse)

end Sys2Proof.Machine
end

