-- ==== Sys2Proof/Machine/Num.lean ====
section
/-! DEFINITION. The eighteen number formats (spec/04_number_formats.md R82-R94): decoding a code to an
exact value, rounding an exact value once to a format, and exact arithmetic on values. -/

namespace Sys2Proof.Machine

/-- The formats of R82, in the order of their codes 0x00 to 0x11. -/
inductive Fmt where
  | b1 | i2 | i4 | i8 | u8 | i16 | i32 | e2m1 | e3m2 | e2m3 | e4m3 | e5m2 | bf16 | fp16 | fp32 | fp64
  | tw32 | bolt
  deriving DecidableEq, Repr

/-- The format a 5-bit code names; codes 0x12 to 0x1F are reserved (R82). -/
def Fmt.ofCode (c : Nat) : Option Fmt :=
  [Fmt.b1, .i2, .i4, .i8, .u8, .i16, .i32, .e2m1, .e3m2, .e2m3, .e4m3, .e5m2, .bf16, .fp16, .fp32,
    .fp64, .tw32, .bolt][c]?

/-- The width in bits (R82). -/
def Fmt.bits : Fmt → Nat
  | .b1 => 1 | .i2 => 2 | .i4 => 4 | .i8 => 8 | .u8 => 8 | .i16 => 16 | .i32 => 32
  | .e2m1 => 4 | .e3m2 => 6 | .e2m3 => 6 | .e4m3 => 8 | .e5m2 => 8 | .bf16 => 16 | .fp16 => 16
  | .fp32 => 32 | .fp64 => 64 | .tw32 => 64 | .bolt => 256

/-- What the top exponent of a float format encodes (R85): infinities and NaNs, only the NaN
S.1111.111, or ordinary finite values. -/
inductive TopExp where
  | ieee | nanOnly | finite
  deriving DecidableEq, Repr

/-- The parameters of a float format (R85). -/
structure FloatParams where
  eb : Nat
  sb : Nat
  bias : Int
  top : TopExp
  deriving DecidableEq, Repr

/-- The float formats' rows of R85's table. -/
def Fmt.float : Fmt → Option FloatParams
  | .e2m1 => some ⟨2, 1, 1, .finite⟩
  | .e3m2 => some ⟨3, 2, 3, .finite⟩
  | .e2m3 => some ⟨2, 3, 1, .finite⟩
  | .e4m3 => some ⟨4, 3, 7, .nanOnly⟩
  | .e5m2 => some ⟨5, 2, 15, .ieee⟩
  | .fp16 => some ⟨5, 10, 15, .ieee⟩
  | .bf16 => some ⟨8, 7, 127, .ieee⟩
  | .fp32 => some ⟨8, 23, 127, .ieee⟩
  | .fp64 => some ⟨11, 52, 1023, .ieee⟩
  | .b1 | .i2 | .i4 | .i8 | .u8 | .i16 | .i32 | .tw32 | .bolt => none

/-- The range of an integer format (R83); B1 stands for the two signed units and has no range. -/
def Fmt.intRange : Fmt → Option (Int × Int)
  | .i2 => some (-2, 1)
  | .i4 => some (-8, 7)
  | .i8 => some (-128, 127)
  | .u8 => some (0, 255)
  | .i16 => some (-32768, 32767)
  | .i32 => some (-2147483648, 2147483647)
  | .b1 | .e2m1 | .e3m2 | .e2m3 | .e4m3 | .e5m2 | .bf16 | .fp16 | .fp32 | .fp64 | .tw32 | .bolt => none

/-- An exact value: a NaN, an infinity, or (-1)^neg * m * 2^e. A zero keeps its sign. -/
inductive FVal where
  | nan
  | inf (neg : Bool)
  | fin (neg : Bool) (m : Nat) (e : Int)
  deriving DecidableEq, Repr

/-- The rounding modes of R92. -/
inductive Rnd where
  | rne | rtz | rup | rdn
  deriving DecidableEq, Repr

/-- The RND field (R78, R92); other values are undefined. -/
def Rnd.ofField : Nat → Option Rnd
  | 0 => some .rne
  | 1 => some .rtz
  | 2 => some .rup
  | 3 => some .rdn
  | _ => none

/-- An integer as a value. -/
def FVal.ofInt (v : Int) : FVal := .fin (decide (v < 0)) v.natAbs 0

/-- An integer times a power of two as a value. -/
def FVal.ofScaled (v : Int) (e : Int) : FVal := .fin (decide (v < 0)) v.natAbs e

/-- The two's-complement value of the low `w` bits of `c`. -/
def signedOf (w c : Nat) : Int :=
  let c := c % 2 ^ w
  if c < 2 ^ (w - 1) then (c : Int) else (c : Int) - (2 ^ w : Nat)

/-- The low `w` bits of an integer. -/
def wrapTo (w : Nat) (v : Int) : Nat := (v % ((2 ^ w : Nat) : Int)).toNat

/-- The value of a float code (R85). -/
def FloatParams.decode (p : FloatParams) (c : Nat) : FVal :=
  let sig := c % 2 ^ p.sb
  let ex := c / 2 ^ p.sb % 2 ^ p.eb
  let neg := decide (c / 2 ^ (p.sb + p.eb) % 2 = 1)
  let ordinary : FVal :=
    if ex = 0 then .fin neg sig (1 - p.bias - p.sb)
    else .fin neg (2 ^ p.sb + sig) ((ex : Int) - p.bias - p.sb)
  match p.top with
  | .finite => ordinary
  | .nanOnly => if ex = 2 ^ p.eb - 1 ∧ sig = 2 ^ p.sb - 1 then .nan else ordinary
  | .ieee => if ex = 2 ^ p.eb - 1 then (if sig = 0 then .inf neg else .nan) else ordinary

/-- The exact sum of two values with the sign of an exact zero sum as IEEE 754 gives for the mode. -/
def FVal.addWith (r : Rnd) : FVal → FVal → FVal
  | .nan, _ => .nan
  | _, .nan => .nan
  | .inf a, .inf b => if a = b then .inf a else .nan
  | .inf a, .fin .. => .inf a
  | .fin .., .inf b => .inf b
  | .fin a m e, .fin b n f =>
    let lo := if e ≤ f then e else f
    let x : Int := (m <<< (e - lo).toNat : Nat)
    let y : Int := (n <<< (f - lo).toNat : Nat)
    let s := (if a then -x else x) + (if b then -y else y)
    if s = 0 then .fin (if a = b then a else decide (r = .rdn)) 0 0
    else .fin (decide (s < 0)) s.natAbs lo

/-- The exact product. -/
def FVal.mul : FVal → FVal → FVal
  | .nan, _ => .nan
  | _, .nan => .nan
  | .inf a, .inf b => .inf (a != b)
  | .inf a, .fin b n _ => if n = 0 then .nan else .inf (a != b)
  | .fin a m _, .inf b => if m = 0 then .nan else .inf (a != b)
  | .fin a m e, .fin b n f => .fin (a != b) (m * n) (e + f)

/-- The value with its sign changed. -/
def FVal.neg : FVal → FVal
  | .nan => .nan
  | .inf a => .inf (!a)
  | .fin a m e => .fin (!a) m e

/-- The magnitude. -/
def FVal.abs : FVal → FVal
  | .nan => .nan
  | .inf _ => .inf false
  | .fin _ m e => .fin false m e

def FVal.isNan : FVal → Bool
  | .nan => true
  | _ => false

def FVal.isZero : FVal → Bool
  | .fin _ 0 _ => true
  | _ => false

/-- The sign of a value that is not a NaN: -1, 0 or 1. -/
def FVal.sgn : FVal → Int
  | .nan => 0
  | .inf a => if a then -1 else 1
  | .fin a m _ => if m = 0 then 0 else if a then -1 else 1

/-- m * 2^e is less than n * 2^f, both not zero: by the places of their top bits, and then exactly. -/
def magLt (m : Nat) (e : Int) (n : Nat) (f : Int) : Bool :=
  let p := e + (Nat.log2 m : Nat)
  let q := f + (Nat.log2 n : Nat)
  if p < q then true else if q < p then false
  else
    let lo := if e ≤ f then e else f
    decide (m <<< (e - lo).toNat < n <<< (f - lo).toNat)

/-- The order of two values that are not NaNs; -0 and +0 are equal (R96). -/
def FVal.lt (x y : FVal) : Bool :=
  match x, y with
  | .nan, _ => false
  | _, .nan => false
  | .inf a, .inf b => a && !b
  | .inf a, .fin .. => a
  | .fin .., .inf b => !b
  | .fin a m e, .fin b n f =>
    if m = 0 then n != 0 && !b
    else if n = 0 then a
    else match a, b with
      | true, false => true
      | false, true => false
      | false, false => magLt m e n f
      | true, true => magLt n f m e

/-- floor(log2 |x|) of a non-zero finite value (R116); none for zeros, infinities and NaNs. -/
def FVal.expo : FVal → Option Int
  | .fin _ m e => if m = 0 then none else some (e + (Nat.log2 m : Nat))
  | _ => none

/-- m / 2^k rounded to an integer magnitude by the mode, for a value of the given sign (R92). -/
def roundShift (r : Rnd) (neg : Bool) (m k : Nat) : Nat :=
  let q := m >>> k
  let rest := m % 2 ^ k
  let twice := 2 * rest
  let up : Bool := match r with
    | .rne => decide (2 ^ k < twice) || (decide (twice = 2 ^ k) && decide (q % 2 = 1) && decide (0 < k))
    | .rtz => false
    | .rup => decide (rest ≠ 0) && !neg
    | .rdn => decide (rest ≠ 0) && neg
  if up then q + 1 else q

/-- m * 2^e rounded to an integer magnitude. -/
def roundMag (r : Rnd) (neg : Bool) (m : Nat) (e : Int) : Nat :=
  if 0 ≤ e then m <<< e.toNat else roundShift r neg m (-e).toNat

/-- The magnitude code of the largest finite value (R85). -/
def FloatParams.maxMag (p : FloatParams) : Nat :=
  match p.top with
  | .ieee => (2 ^ p.eb - 1) * 2 ^ p.sb - 1
  | .nanOnly => 2 ^ (p.eb + p.sb) - 2
  | .finite => 2 ^ (p.eb + p.sb) - 1

/-- The magnitude code of an infinity, where the format has one. -/
def FloatParams.infMag (p : FloatParams) : Nat := (2 ^ p.eb - 1) * 2 ^ p.sb

/-- The code of a signed magnitude code. -/
def FloatParams.signed (p : FloatParams) (neg : Bool) (mag : Nat) : Nat :=
  if neg then 2 ^ (p.eb + p.sb) + mag else mag

/-- The canonical NaN of R86; a format with no NaN gives +0 (R93). -/
def FloatParams.nanCode (p : FloatParams) : Nat :=
  match p.top with
  | .finite => 0
  | .nanOnly => 2 ^ (p.eb + p.sb) - 1
  | .ieee => if p.eb = 5 ∧ p.sb = 2 then 0x7F else p.infMag + 2 ^ (p.sb - 1)

/-- A finite overflow of the given sign (R93). -/
def FloatParams.overflow (p : FloatParams) (r : Rnd) (satfin neg : Bool) : Nat :=
  match p.top with
  | .finite => p.signed neg p.maxMag
  | .nanOnly => if satfin then p.signed neg p.maxMag else p.nanCode
  | .ieee =>
    let toInf : Bool := match r with
      | .rne => true
      | .rtz => false
      | .rup => !neg
      | .rdn => neg
    if satfin || !toInf then p.signed neg p.maxMag else p.signed neg p.infMag

/-- The one rounding of an exact value to a float format (R92, R93). -/
def FloatParams.encode (p : FloatParams) (r : Rnd) (satfin : Bool) : FVal → Nat
  | .nan => p.nanCode
  | .inf neg => match p.top with
    | .finite => p.signed neg p.maxMag
    | .nanOnly => if satfin then p.signed neg p.maxMag else p.nanCode
    | .ieee => if satfin then p.signed neg p.maxMag else p.signed neg p.infMag
  | .fin neg m e =>
    if m = 0 then p.signed neg 0 else
      let top : Int := e + (Nat.log2 m : Nat)
      let emin : Int := 1 - p.bias
      let ex : Int := if top < emin then emin else top
      let q := roundMag r neg m (e - (ex - p.sb))
      -- the significand joins the exponent field by addition, so a carry moves into the field
      let mag := ((ex - emin).toNat * 2 ^ p.sb) + q
      if p.maxMag < mag then p.overflow r satfin neg else p.signed neg mag

/-- The value of a code of a format narrower than TW32 (R83, R85). -/
def Fmt.decode (f : Fmt) (c : Nat) : FVal :=
  match f.float with
  | some p => p.decode c
  | none => match f with
    | .b1 => .fin (decide (c % 2 = 1)) 1 0
    | .u8 => .fin false (c % 256) 0
    | _ => FVal.ofInt (signedOf f.bits c)

/-- The nearest end of an integer range that holds `v`, or `v` itself. -/
def clampInt (lo hi v : Int) : Int := if v < lo then lo else if hi < v then hi else v

/-- The one rounding of an exact value to a format (R92-R94); the code has `f.bits` bits. -/
def Fmt.encode (f : Fmt) (r : Rnd) (satfin : Bool) (v : FVal) : Nat :=
  match f.float with
  | some p => p.encode r satfin v
  | none => match f.intRange with
    | some (lo, hi) => match v with
      | .nan => 0
      | .inf neg => wrapTo f.bits (if neg then lo else hi)
      | .fin neg m e =>
        let q : Int := (roundMag r neg m e : Nat)
        wrapTo f.bits (clampInt lo hi (if neg then -q else q))
    | none => if v.sgn < 0 then 1 else 0

/-- The SAT clamp to [0, 1] of a rounded code (R78, R94). -/
def Fmt.sat01 (f : Fmt) (c : Nat) : Nat :=
  let v := f.decode c
  if v.sgn ≤ 0 then 0
  else if FVal.lt (.fin false 1 0) v then f.encode .rne false (.fin false 1 0) else c

/-- Round to a float or integer format and read the value back. -/
def Fmt.round (f : Fmt) (r : Rnd) (v : FVal) : FVal := f.decode (f.encode r false v)

/-- An integer square root: the largest r with r * r ≤ m, built from bit `k` - 1 down. -/
def isqrtFrom (m : Nat) : Nat → Nat → Nat
  | 0, r => r
  | k + 1, r =>
    let c := r + 2 ^ k
    isqrtFrom m k (if c * c ≤ m then c else r)

def isqrt (m : Nat) : Nat := isqrtFrom m (Nat.log2 m / 2 + 1) 0

/-- The reciprocal to 120 or more significant bits, with a sticky lowest bit, so that one rounding
of it is the rounding of the exact reciprocal. -/
def FVal.recip : FVal → FVal
  | .nan => .nan
  | .inf a => .fin a 0 0
  | .fin a m e =>
    if m = 0 then .inf a else
      let k := Nat.log2 m + 121
      let q := 2 ^ k / m
      .fin a (2 * q + (if q * m = 2 ^ k then 0 else 1)) (-e - k - 1)

/-- The square root, with a sticky lowest bit; a negative non-zero value gives a NaN, -0 gives -0. -/
def FVal.sqrt : FVal → FVal
  | .nan => .nan
  | .inf a => if a then .nan else .inf false
  | .fin a m e =>
    if m = 0 then .fin a 0 0 else if a then .nan else
      let pad := 260 - Nat.log2 m
      let pad := if (e - (pad : Nat)) % 2 = 0 then pad else pad + 1
      let n := m <<< pad
      let r := isqrt n
      .fin false (2 * r + (if r * r = n then 0 else 1)) ((e - (pad : Nat)) / 2 - 1)

/-- ln 2 in units of 2^-192. -/
def ln2Fixed : Nat := 0xb17217f7d1cf79abc9e3b39803f2f6af40f343267298b62d

/-- pi in units of 2^-448. -/
def piFixed : Nat :=
  0x3243f6a8885a308d313198a2e03707344a4093822299f31d0082efa98ec4e6c89452821e638d01377be5466cf34e90c6cc0ac29b7c97c50dd

/-- sum of y^k / k! from term `k` on, `fuel` terms, in units of 2^-192. -/
def expSeries (y : Nat) : Nat → Nat → Nat → Nat
  | 0, _, _ => 0
  | fuel + 1, k, term => term + expSeries y fuel (k + 1) (term * y / 2 ^ 192 / (k + 1))

/-- 2^x of a finite value to about 180 bits: x = n + f with f in [0, 1). -/
def FVal.exp2 : FVal → FVal
  | .nan => .nan
  | .inf a => if a then .fin false 0 0 else .inf false
  | .fin a m e =>
    let x : Int := (roundMag .rtz a m (e + 192) : Nat)
    let x := if a then -x else x
    let n := x / ((2 ^ 192 : Nat) : Int)
    let f := (x % ((2 ^ 192 : Nat) : Int)).toNat
    .fin false (expSeries (f * ln2Fixed / 2 ^ 192) 60 0 (2 ^ 192)) (n - 192)

/-- The first `fuel` fraction bits of log2 of t * 2^-200, for t in [2^200, 2^201). -/
def log2Bits : Nat → Nat → Nat → Nat
  | 0, _, acc => acc
  | fuel + 1, t, acc =>
    let s := t * t / 2 ^ 200
    if 2 ^ 201 ≤ s then log2Bits fuel (s / 2) (2 * acc + 1) else log2Bits fuel s (2 * acc)

/-- log2 of a value, to 90 fraction bits. -/
def FVal.log2 : FVal → FVal
  | .nan => .nan
  | .inf a => if a then .nan else .inf false
  | .fin a m e =>
    if m = 0 then .inf true else if a then .nan else
      let k := Nat.log2 m
      let t := if k ≤ 200 then m <<< (200 - k) else m >>> (k - 200)
      let frac : Int := (log2Bits 90 t 0 : Nat)
      FVal.ofScaled ((e + (k : Nat)) * ((2 ^ 90 : Nat) : Int) + frac) (-90)

/-- sum of (-1)^k y^(2k + odd) / (2k + odd)!, in units of 2^-256. -/
def trigSeries (y2 : Nat) : Nat → Nat → Nat → Int
  | 0, _, _ => 0
  | fuel + 1, j, term =>
    (term : Int) - trigSeries y2 fuel (j + 2) (term * y2 / 2 ^ 256 / ((j + 1) * (j + 2)))

/-- The sine (shift 0) or cosine (shift 1) of a finite value in radians, to about 240 bits. -/
def FVal.trig (shift : Nat) : FVal → FVal
  | .nan => .nan
  | .inf _ => .nan
  | .fin a m e =>
    if m = 0 then (if shift = 0 then .fin a 0 0 else .fin false 1 0) else
      let x := roundMag .rtz false m (e + 448)
      let quarter := piFixed / 2
      let n := x / quarter
      let y := (x % quarter) / 2 ^ 192
      let y2 := y * y / 2 ^ 256
      -- sin|x| and cos|x| from the quarter that |x| lies in
      let k := (n + shift) % 4
      let s := trigSeries y2 45 1 y
      let c := trigSeries y2 45 0 (2 ^ 256)
      let v := if k = 0 then s else if k = 1 then c else if k = 2 then -s else -c
      let v := if shift = 0 && a then -v else v
      FVal.ofScaled v (-256)

/-- The spacing of a float format at the magnitude of a value, as a value (the ulp of R148). -/
def FloatParams.ulp (p : FloatParams) (v : FVal) : FVal :=
  let emin : Int := 1 - p.bias
  match v.expo with
  | some t => .fin false 1 ((if t < emin then emin else t) - p.sb)
  | none => .fin false 1 (emin - p.sb)

/-- The value `raw` where it is finite and within `bound` of the exact value, and otherwise the nearest
representable one: an approximate result of R148 is any value that keeps the stated bound. -/
def withinBound (f : Fmt) (exact bound : FVal) (raw : Nat) : Nat :=
  let d := FVal.addWith .rne (f.decode raw) exact.neg
  match d with
  | .fin .. => if FVal.lt bound d.abs then f.encode .rne false exact else raw
  | _ => f.encode .rne false exact

/-- The pair of FP32 codes (hi, lo) of the TW32 value nearest an exact value (R90, R151):
hi = RNE(r), lo = RNE(r - hi); an infinite or NaN hi stands alone. -/
def twinOf (r : FVal) : Nat × Nat :=
  let hi := Fmt.fp32.encode .rne false r
  match Fmt.fp32.decode hi with
  | .fin s m e =>
    (hi, match FVal.addWith .rne r (FVal.neg (.fin s m e)) with
      | .fin t n f => if n = 0 then 0 else Fmt.fp32.encode .rne false (.fin t n f)
      | _ => 0)
  | _ => (hi, 0)

/-- The value of a TW32 pair (R90): an infinite or NaN hi stands alone, otherwise the sum hi + lo. -/
def twinVal (hi lo : Nat) : FVal :=
  match Fmt.fp32.decode hi with
  | .fin s m e => FVal.addWith .rne (.fin s m e) (Fmt.fp32.decode lo)
  | v => v

end Sys2Proof.Machine
end

