-- ==== Sys2Proof/Machine/CacheLines.lean ====
section
/-! DEFINITION. How the die's units reach memory: the frames and granules that a write touches, the regulators, the lines of
the three caches, their victims and write-backs, and the bytes that a core sees (R23, R38, R123, R197 to R206, R208, R211,
R287, R310). Local, host and on-die bytes stand in `mem` as their point of coherence shows them; an L1 line, and an L2 line
that the sibling die homes, hold bytes of their own. -/

namespace Sys2Proof.Machine

open Sys2Proof

/-! ### Bytes at their home -/

/-- The frames of R123 that the `n` bytes from `a` lie in; host memory has none. -/
def framesOf (a n : Nat) : List Nat :=
  if target a = 2 || n = 0 then [] else
  (List.range ((a + n - 1) / 0x10000 - a / 0x10000 + 1)).map (fun i => a / 0x10000 + i)

/-- The granule table after a write of `n` bytes: an ALLOC granule that it reaches is DIRTY (R287). -/
def markDirty (g : TMap Granule) (a n : Nat) : TMap Granule :=
  if target a ≠ 3 || n = 0 then g else
  let off := a % 2 ^ 50
  g.mapVals (fun k x =>
    if x.st == .alloc && decide (off / 0x10000 ≤ k) && decide (k ≤ (off + n - 1) / 0x10000) then
      { x with dirty := true } else x)

/-- The state after bytes are written to a physical address by a summarising writer for its tensor: the
bytes, DIRTY of the granules, and no error in a failing line that they replace whole (R287, R310). -/
def State.pokeTagged (s : State) (a : Nat) (bs : List U8) : State :=
  { s with
    mem := s.mem.putBytes a bs
    spl := { s.spl with grans := markDirty s.spl.grans a bs.length }
    flt := { s.flt with
      failing := s.flt.failing.filter (fun l => !(decide (a ≤ l * 128) && decide (l * 128 + 128 ≤ a + bs.length))) } }

/-- Frames that an untagged write reaches: VALID is cleared and TOUCHED set (R123). -/
def State.touch (s : State) (fs : List Nat) : State :=
  { s with
    frames := fs.foldl (fun m f => m.set f 2) s.frames
    writes := s.writes + 1
    lastWrite := fs.foldl (fun m f => m.set f (s.writes + 1)) s.lastWrite }

/-- The state after any other write (R123). -/
def State.poke (s : State) (a : Nat) (bs : List U8) : State := (s.pokeTagged a bs).touch (framesOf a bs.length)

/-- The `n` bytes at a physical address. -/
def State.peek (s : State) (a n : Nat) : List U8 := s.mem.bytes a n

/-! ### Owners and regulators -/

/-- The partition that owns a physical address: the one whose window over it carries WRITE, else the lowest-indexed
whose window covers it; none outside every window (R202). -/
def State.lineOwner (s : State) (a : Nat) : Option Nat :=
  let holds := fun (p : Nat) (writes : Bool) => (s.part p).enable && (s.part p).windows.any (fun w =>
    w.2.valid && (!writes || w.2.wr) && decide (w.2.base ≤ a) && decide (a < w.2.base + w.2.size))
  ((List.range 16).find? (holds · true)).or ((List.range 16).find? (holds · false))

/-- The partition whose queue takes the records of a physical address: its owner, else partition 0 (R302, R470). -/
def State.partOf (s : State) (a : Nat) : Nat := (s.lineOwner a).getD 0

/-- The DRAM channel of an address: the XOR of its 4-bit fields above the 1 KiB block (R198). -/
def dramChannel (a : Nat) : Nat :=
  [14, 18, 22, 26, 30].foldl (fun c i => c ^^^ (a / 2 ^ i % 16)) (a / 2 ^ 10 % 16) ^^^ (a / 2 ^ 34 % 4)

/-- The credit of partition `p` at a port. -/
def State.credit (s : State) (p port : Nat) : Int := s.ptn.credit.get 0 (8 * p + port)

/-- Traffic of a partition spends its credit at a port (R38). -/
def State.spend (s : State) (p port bytes : Nat) : State :=
  { s with ptn := { s.ptn with credit := s.ptn.credit.set (8 * p + port) (s.credit p port - bytes) } }

/-- The port of host or sibling traffic, by target and direction (R38). -/
def linkPort (t : Nat) (outward : Bool) : Nat := (if t = 2 then 2 else 3) + if outward then 4 else 0

/-- A request of partition `p` to the DRAM: its regulator pays and its channel counts it (R23, R38, R211). -/
def State.dram (s : State) (p a n : Nat) : State :=
  let h : HotWin := s.l3c.hot.get {} p
  let ch := dramChannel a
  let h := { h with requests := h.requests.set ch (h.requests.get 0 ch + 1) }
  ({ s with l3c := { s.l3c with hot := s.l3c.hot.set p h } } : State).spend p 0 n

/-! ### Places -/

/-- The L1 set of an address (R197). -/
def l1Set (a : Nat) : Nat := a / 2 ^ 7 % 2 ^ 7

/-- The L2 set: three 11-bit fields, taken to 10 bits on CL9-X32 (R197). -/
def Part.l2Set (p : Part) (a : Nat) : Nat :=
  ((a / 2 ^ 7 % 2 ^ 11) ^^^ (a / 2 ^ 18 % 2 ^ 11) ^^^ (a / 2 ^ 29 % 2 ^ 11)) % (if p = .x32 then 2 ^ 10 else 2 ^ 11)

/-- The set within the L3 slice of an address's channel: a fold of the address on CL9-X64, and on the other parts a
hash under the owning partition's bias key (R199, R200). -/
def Part.l3Set (p : Part) (key : U64) (a : Nat) : Nat :=
  let h := ((a / 2 ^ 7 % 2 ^ 29) ^^^ (key.toNat % 2 ^ 29)) * (key.toNat / 2 ^ 32 ||| 1) % 2 ^ 32
  match p with
  | .x64 => (a / 2 ^ 14 % 2 ^ 8) ^^^ (a / 2 ^ 22 % 2 ^ 8) ^^^ (a / 2 ^ 30 % 2 ^ 6)
  | .x48 => h / 2 ^ 22
  | .x32 => h / 2 ^ 23

/-- The tag of an L3 line and the sector of an address in it (R199, R200). -/
def Part.l3Tag (p : Part) (a : Nat) : Nat := if p = .x64 then a / 2 ^ 14 % 2 ^ 22 else a / 2 ^ 7 % 2 ^ 29
def Part.l3Sector (p : Part) (a : Nat) : Nat := if p = .x64 then a / 2 ^ 7 % 8 else 0

/-- The address of a sector of an L3 line: a CL9-X64 tag omits A[13:10], which the slice recovers from the channel
function (R198, R199). -/
def Part.l3Addr (p : Part) (slice tag sector : Nat) : Nat :=
  if p = .x64 then tag * 2 ^ 14 + (slice ^^^ dramChannel (tag * 2 ^ 14)) * 2 ^ 10 + sector * 2 ^ 7 else tag * 2 ^ 7

/-- The first keys of an address's set in the three tables. -/
def l1Base (k a : Nat) : Nat := 4 * (128 * k + l1Set a)
def State.l2Base (s : State) (cl a : Nat) : Nat := 16 * (2048 * cl + s.die.part.l2Set a)
def State.l3Base (s : State) (p a : Nat) : Nat := 16 * (1024 * dramChannel a + s.die.part.l3Set (s.part p).key a)

/-- The live L3 ways of a partition (R202, R208). -/
def State.liveWays (s : State) (p : Nat) : List Nat := bitsOf ((s.part p).ways &&& s.l3c.live &&& ~~~s.l3c.disabled)

/-! ### Lines of one set (R201) -/

/-- The way, of those given, of a set that holds a tag. -/
def findWay (t : TMap CacheLine) (base : Nat) (ways : List Nat) (tag : Nat) : Option Nat :=
  ways.find? (fun w => (t.find (base + w)).any (fun l => l.tag == tag))

/-- An access to a way: its line becomes the youngest of the set, and the others age up to 15. -/
def touchWay (t : TMap CacheLine) (base : Nat) (ways : List Nat) (way : Nat) : TMap CacheLine :=
  ways.foldl (fun t w =>
    match t.find (base + w) with
    | none => t
    | some l => t.set (base + w) { l with age := if w = way then 0 else if l.age = 15 then 15 else l.age + 1 }) t

/-- The way that a new line takes: an empty one, else the one with the oldest age, the lowest of equals. -/
def victimWay (t : TMap CacheLine) (base : Nat) (ways : List Nat) : Nat :=
  match ways.find? (fun w => (t.find (base + w)).isNone) with
  | some w => w
  | none =>
    let age := fun w => (t.find (base + w)).elim 0 (fun l => l.age.toNat)
    ways.foldl (fun b w => if age b < age w then w else b) (ways.headD 0)

/-! ### The caches of the die -/

/-- A cache takes part in accesses: it is enabled and no disable write-back has stopped its allocation (R207). -/
def CacheState.allocates (c : CacheState) : Bool := c.enabled && !c.disabling

/-- The L1 and L2 of a cluster. -/
def State.l1c (s : State) (cl : Nat) : CacheState := (s.clusters.get {} cl).l1
def State.l2c (s : State) (cl : Nat) : CacheState := (s.clusters.get {} cl).l2

/-- The L2s of the die that hold a line: the directory of its L3 slice (R204). -/
def State.holders (s : State) (a : Nat) : List Nat :=
  (List.range 8).filter (fun cl => (findWay s.lines.l2 (s.l2Base cl a) (List.range 16) (a / 128)).isSome)

/-- A line's sector 0. -/
def CacheLine.sector (l : CacheLine) (i : Nat) : Sector := l.sectors.get {} i

def State.setL1 (s : State) (t : TMap CacheLine) : State := { s with lines := { s.lines with l1 := t } }
def State.setL2 (s : State) (t : TMap CacheLine) : State := { s with lines := { s.lines with l2 := t } }
def State.setL3 (s : State) (t : TMap CacheLine) : State := { s with lines := { s.lines with l3 := t } }

/-- The partition that pays for a write-back of a line: its owner, else the given one (R45, R210). -/
def State.payer (s : State) (p a : Nat) : Nat := (s.lineOwner a).getD p

/-- A dirty sector of the L3 is written back to DRAM. -/
def State.sectorBack (s : State) (slice tag : Nat) (e : Nat × Sector) : State :=
  if e.2.dirty then s.dram e.2.owner (s.die.part.l3Addr slice tag e.1) 128 else s

/-- An L3 line leaves its way, its dirty sectors written back; an eviction counts for its set group (R201, R211). -/
def State.l3Drop (s : State) (key : Nat) (evicted : Bool) : State :=
  match s.lines.l3.find key with
  | none => s
  | some l =>
    let s := l.sectors.foldl (fun s e => s.sectorBack (key / 16 / 1024) l.tag e) s
    let s := s.setL3 (s.lines.l3.del key)
    if !evicted then s else
    let p := (l.sectors.map (fun e => e.2.owner)).headD 0
    let h : HotWin := s.l3c.hot.get {} p
    let g := key / 16 % 16
    let h := { h with evictions := h.evictions.set g (h.evictions.get 0 g + 1) }
    { s with l3c := { s.l3c with hot := s.l3c.hot.set p h } }

/-- A sector of an L3 line changes. -/
def State.setSector (s : State) (key tag i : Nat) (f : Sector → Sector) : State :=
  let l : CacheLine := (s.lines.l3.find key).getD { tag := tag }
  s.setL3 (s.lines.l3.set key { l with sectors := l.sectors.set i (f (l.sector i)) })

/-- An access of `n` bytes within a line of local DRAM at the L3 (R199 to R203): a hit, a fill of the sector that the access
does not write whole, or the DRAM itself where the line has no owner with a live way; a dirty sector that another context
writes is written back first. An access of a page with UNCACHED allocates no line (R220). -/
def State.l3Access (s : State) (p : Nat) (w : Option Nat) (a n : Nat) (wr unc : Bool) : State :=
  let line := a / 128 * 128
  match if s.l3c.cache.enabled then (s.lineOwner a).filter (fun o => !(s.liveWays o).isEmpty) else none with
  | none => s.dram p a n
  | some o =>
    let base := s.l3Base o a
    let ways := s.liveWays o
    let tag := s.die.part.l3Tag a
    let i := s.die.part.l3Sector a
    let found := findWay s.lines.l3 base ways tag
    let hit := found.any (fun way => ((s.lines.l3.find (base + way)).any (fun l => (l.sectors.find i).isSome)))
    if !hit && (unc || !s.l3c.cache.allocates) then s.dram p a n
    else
      let way := found.getD (victimWay s.lines.l3 base ways)
      let s := if found.isSome then s else s.l3Drop (base + way) true
      let s := if hit || (wr && n = 128) then s else (s.dram p line 128).spend p 1 128
      let s := s.setSector (base + way) tag i (fun x => { x with owner := o })
      let x := (s.lines.l3.find (base + way)).elim {} (fun l => l.sector i)
      let s := if wr && x.dirty && x.writer != w then s.dram o line 128 else s
      let s := if wr then s.setSector (base + way) tag i (fun x => { x with dirty := true, writer := w }) else s
      s.setL3 (touchWay s.lines.l3 base ways way)

/-- An access at a line's home, beyond the L2s: the L3, the Seam link or the host link (R197, R205, R206). -/
def State.homeAccess (s : State) (p : Nat) (w : Option Nat) (a n : Nat) (wr : Bool) (unc : Bool := false) : State :=
  match target a with
  | 0 => s.l3Access p w a n wr unc
  | 3 => s
  | t => s.spend p (linkPort t wr) n

/-- The bytes that the mask marks, over the others. -/
def overlay (mask : BitVec 128) (new old : List U8) : List U8 :=
  (List.range 128).map (fun i => if bit mask i then (new[i]?).getD 0 else (old[i]?).getD 0)

/-- Anchored deltas of a cluster on a line are added at their homes (R145). -/
def State.flushDeltas (s : State) (f : Delta → Bool) : State :=
  let s := (s.deltas.filter f).foldl
    (fun s d => s.poke d.pa (toBytes d.bytes ((s.mem.num d.pa d.bytes + d.value) % 2 ^ (8 * d.bytes)))) s
  { s with deltas := s.deltas.filter (fun d => !f d) }

/-- The write-back of a dirty L2 line, for its writer: a sibling-homed line sends its dirty bytes alone (R203, R205); a line
that another writer is to take goes to DRAM. -/
def State.l2Back (s : State) (p : Nat) (l : CacheLine) (dramToo : Bool) : State :=
  let x := l.sector 0
  let a := l.tag * 128
  if !x.dirty then s else
  let s := s.homeAccess (s.payer p a) x.writer a (if target a = 1 then popcount x.mask else 128) true
  let s := if dramToo && target a = 0 then s.dram (s.payer p a) a 128 else s
  if target a = 1 then s.poke a (overlay x.mask x.bytes (s.peek a 128)) else s

/-- An L2 line leaves its way: deltas on it are added at their homes, and dirty bytes written back. -/
def State.l2Drop (s : State) (p key : Nat) : State :=
  match s.lines.l2.find key with
  | none => s
  | some l =>
    let s := s.flushDeltas (fun d => d.cluster == key / 16 / 2048 && d.pa / 128 == l.tag)
    let s := s.l2Back p l false
    s.setL2 (s.lines.l2.del key)

/-- The anchored deltas that a cluster holds against a line are added at its home; a sibling-homed line, whose bytes the L2
holds, leaves with them (R145). -/
def State.mergeLine (s : State) (cl p a : Nat) : State :=
  let mine := fun (d : Delta) => d.cluster == cl && d.pa / 128 == a / 128
  if !s.deltas.any mine then s else
  match if target a = 1 then findWay s.lines.l2 (s.l2Base cl a) (List.range 16) (a / 128) else none with
  | some way => s.l2Drop p (s.l2Base cl a + way)
  | none => s.flushDeltas mine

/-- The copies of a coherent line in the L2s of other clusters: a reader leaves them clean, and a writer removes them, a
dirty one of another context going to DRAM first (R203, R204). -/
def State.l2Others (s : State) (p cl : Nat) (w : Option Nat) (a : Nat) (wr : Bool) : State :=
  if target a = 1 then s else
  ((s.holders a).filter (· != cl)).foldl (fun s c =>
    let base := s.l2Base c a
    match findWay s.lines.l2 base (List.range 16) (a / 128) with
    | none => s
    | some way =>
      match s.lines.l2.find (base + way) with
      | none => s
      | some l =>
        let s := if wr then s.flushDeltas (fun d => d.cluster == c && d.pa / 128 == l.tag) else s
        let s := s.l2Back p l (wr && (l.sector 0).writer != w)
        s.setL2 (if wr then s.lines.l2.del (base + way)
          else s.lines.l2.set (base + way) { l with sectors := [(0, { l.sector 0 with dirty := false })] })) s

/-- An access of `n` bytes within a line at the L2 of a cluster (R197, R203 to R205). A write makes the line dirty for its
context; a sibling-homed line holds its own bytes, which the write's data reaches through `State.see` and
`State.store`. -/
def State.l2Access (s : State) (cl p : Nat) (w : Option Nat) (a n : Nat) (wr : Bool) : State :=
  let base := s.l2Base cl a
  let ways := List.range 16
  let found := if (s.l2c cl).enabled then findWay s.lines.l2 base ways (a / 128) else none
  if found.isNone && !(s.l2c cl).allocates then s.homeAccess p w a n wr
  else
    let line := a / 128 * 128
    let s := s.l2Others p cl w a wr
    let way := found.getD (victimWay s.lines.l2 base ways)
    let s := if found.isSome then s else
      let s := if wr && n = 128 then s else s.homeAccess p w line 128 false
      let s := s.l2Drop p (base + way)
      s.setL2 (s.lines.l2.set (base + way)
        { tag := a / 128, sectors := [(0, { bytes := if target a = 1 then s.peek line 128 else [] })] })
    let l : CacheLine := (s.lines.l2.find (base + way)).getD { tag := a / 128 }
    let x := l.sector 0
    let s := if wr && x.dirty && x.writer != w then s.l2Back p l true else s
    let x := if wr && x.dirty && x.writer != w then { x with mask := 0 } else x
    let s := if wr then
        s.setL2 (s.lines.l2.set (base + way) { l with sectors := [(0, { x with dirty := true, writer := w })] })
      else s
    s.setL2 (touchWay s.lines.l2 base ways way)

/-- The bytes that a unit sees at a physical address: a core through its L1, and through its cluster's L2 where the sibling
die homes the line; every other unit at the home (R204 to R206). -/
def State.seeByte (s : State) (a : Nat) : U8 :=
  match s.user with
  | none => s.mem.byte a
  | some k =>
    let held := fun (t : TMap CacheLine) (base : Nat) (ways : List Nat) =>
      (findWay t base ways (a / 128)).bind (fun w => (t.find (base + w)).bind (fun l => ((l.sector 0).bytes)[a % 128]?))
    ((held s.lines.l1 (l1Base k a) (List.range 4)).or (held s.lines.l2 (s.l2Base (k / 8) a) (List.range 16))).getD
      (s.mem.byte a)

def State.see (s : State) (a n : Nat) : List U8 :=
  if s.lines.l1.isEmpty && s.lines.l2.isEmpty then s.peek a n else (List.range n).map (fun i => s.seeByte (a + i))

/-- A read by a core of a line: at its L1, which takes the line from the L2 (R197, R201). -/
def State.l1Access (s : State) (k p : Nat) (w : Option Nat) (a n : Nat) : State :=
  let base := l1Base k a
  let ways := List.range 4
  let c := s.l1c (k / 8)
  match if c.enabled then findWay s.lines.l1 base ways (a / 128) else none with
  | some way => s.setL1 (touchWay s.lines.l1 base ways way)
  | none =>
    let s := (s.mergeLine (k / 8) p a).l2Access (k / 8) p w a n false
    if !c.allocates then s else
    let way := victimWay s.lines.l1 base ways
    let s := s.setL1 (s.lines.l1.del (base + way))
    let bs := s.see (a / 128 * 128) 128
    s.setL1 (touchWay (s.lines.l1.set (base + way) { tag := a / 128, sectors := [(0, { bytes := bs })] }) base ways way)

/-- An L1 line is dropped. -/
def State.l1Forget (s : State) (k a : Nat) : State :=
  match findWay s.lines.l1 (l1Base k a) (List.range 4) (a / 128) with
  | none => s
  | some way => s.setL1 (s.lines.l1.del (l1Base k a + way))

/-- The part of an access that lies in each line. -/
def lineParts (a n : Nat) : List (Nat × Nat) :=
  if n = 0 then [] else
  (List.range ((a + n - 1) / 128 - a / 128 + 1)).map (fun i =>
    let b := if i = 0 then a else (a / 128 + i) * 128
    (b, min ((a / 128 + i + 1) * 128) (a + n) - b))

/-- One access of context `c`, of partition `p`, to `n` bytes within a line: through the caches of the core that makes it,
or at the home, which other units and pages with UNCACHED reach (R202, R220). An atomic operation is done beyond the L1. -/
def State.lineAccess (s : State) (c p : Nat) (acc : Access) (unc : Bool) (a n : Nat) : State :=
  let wr := acc == .write || acc == .atomic
  if target a = 3 then s else
  match s.user with
  | none => (s.l2Others p 8 (some c) a wr).homeAccess p (some c) a n wr unc
  | some k =>
    let s := if acc == .atomic then s.l1Forget k a else s
    if unc then (s.l2Others p 8 (some c) a wr).homeAccess p (some c) a n wr true
    else if wr then s.l2Access (k / 8) p (some c) a n true
    else s.l1Access k p (some c) a n

/-- An access of context `c` to the `n` bytes at a physical address, line by line. -/
def State.access (s : State) (c p : Nat) (acc : Access) (unc : Bool) (a n : Nat) : State :=
  (lineParts a n).foldl (fun s e => s.lineAccess c p acc unc e.1 e.2) s

/-- The ports at which an access to a line would spend credit (R38): none where a cache that serves it holds the line. -/
def State.portsOf (s : State) (acc : Access) (unc : Bool) (a : Nat) : List Nat :=
  let wr := acc == .write || acc == .atomic
  let inL1 := s.user.any (fun k => !wr && !unc && (s.l1c (k / 8)).enabled &&
    (findWay s.lines.l1 (l1Base k a) (List.range 4) (a / 128)).isSome)
  let inL2 := s.user.any (fun k => !unc && (s.l2c (k / 8)).enabled && (s.holders a).contains (k / 8))
  if target a = 3 || inL1 || inL2 then []
  else if target a ≠ 0 then [linkPort (target a) wr]
  else
    match if s.l3c.cache.enabled then (s.lineOwner a).filter (fun o => !(s.liveWays o).isEmpty) else none with
    | none => [0]
    | some o =>
      let base := s.l3Base o a
      let hit := (findWay s.lines.l3 base (s.liveWays o) (s.die.part.l3Tag a)).any (fun way =>
        (s.lines.l3.find (base + way)).any (fun l => (l.sectors.find (s.die.part.l3Sector a)).isSome))
      if hit then [] else if !unc && s.l3c.cache.allocates then [0, 1] else [0]

/-- Partition `p` holds credit at every port that an access needs (R23, R38). -/
def State.credited (s : State) (p : Nat) (acc : Access) (unc : Bool) (a n : Nat) : Bool :=
  (lineParts a n).all (fun e => (s.portsOf acc unc e.1).all (fun port => decide (0 < s.credit p port)))

/-- Bytes that a core writes through its L1 into its L2: an L1 line that holds them is updated, a sibling-homed L2 line
takes them and marks them, and every other write stands at its home at once (R197, R204, R205). -/
def State.storeByte (s : State) (k a : Nat) (v : U8) : State :=
  let put := fun (t : TMap CacheLine) (base : Nat) (ways : List Nat) (dirty : Bool) =>
    match findWay t base ways (a / 128) with
    | none => t
    | some w =>
      match t.find (base + w) with
      | none => t
      | some l =>
        let x := l.sector 0
        t.set (base + w) { l with sectors := [(0, { x with
          dirty := dirty, bytes := x.bytes.set (a % 128) v, mask := setBit x.mask (a % 128) dirty })] }
  (s.setL1 (put s.lines.l1 (l1Base k a) (List.range 4) false)).setL2
    (if target a = 1 then put s.lines.l2 (s.l2Base (k / 8) a) (List.range 16) true else s.lines.l2)

/-- The L2 of the core that writes holds the sibling-homed line of an address. -/
def State.keeps (s : State) (a : Nat) : Bool :=
  target a == 1 && s.user.any (fun k => (s.holders a).contains (k / 8))

/-- The state after a unit writes bytes at a physical address. -/
def State.store (s : State) (a : Nat) (bs : List U8) : State :=
  if s.lines.l1.isEmpty && s.lines.l2.isEmpty then s.poke a bs else
  match s.user with
  | none => s.poke a bs
  | some k =>
    let t := (bs.zipIdx).foldl (fun s e => s.storeByte k (a + e.2) e.1) s
    (lineParts a bs.length).foldl (fun t e =>
      if s.keeps e.1 then t else t.poke e.1 ((bs.drop (e.1 - a)).take e.2)) t

/-- The same for a summarising writer (R123). -/
def State.storeTagged (s : State) (a : Nat) (bs : List U8) : State :=
  { s.store a bs with frames := s.frames, writes := s.writes, lastWrite := s.lastWrite }

/-! ### Invalidation -/

/-- The L1 of a core is invalidated (R74, R159, R206). -/
def State.l1Clear (s : State) (k : Nat) : State :=
  if s.lines.l1.isEmpty then s else s.setL1 (s.lines.l1.filter (fun e => e.1 / 512 != k))

/-- The lines of the L2 of a cluster that satisfy a test leave it, dirty ones written back (R205, R207, R208). -/
def State.l2Clear (s : State) (f : Nat → CacheLine → Bool) : State :=
  (s.lines.l2.filter (fun e => f (e.1 / 16 / 2048) e.2)).foldl (fun s e => s.l2Drop (s.partOf (e.2.tag * 128)) e.1) s

/-- The lines of the L3 that satisfy a test on slice, set, way and line leave it, dirty sectors written back. -/
def State.l3Clear (s : State) (f : Nat → CacheLine → Bool) : State :=
  (s.lines.l3.filter (fun e => f e.1 e.2)).foldl (fun s e => s.l3Drop e.1 false) s

/-- The dirty sibling-homed lines of a cluster's L2 are written back, and stay clean (R205). -/
def State.l2Flush (s : State) (cl : Nat) : State :=
  (s.lines.l2.filter (fun e => e.1 / 16 / 2048 == cl && target (e.2.tag * 128) == 1 && (e.2.sector 0).dirty)).foldl
    (fun s e =>
      let s := s.l2Back (s.partOf (e.2.tag * 128)) e.2 false
      let x := { e.2.sector 0 with dirty := false, mask := 0 }
      s.setL2 (s.lines.l2.set e.1 { e.2 with sectors := [(0, x)] })) s

end Sys2Proof.Machine
end

