-- ==== Sys2Proof/Machine/Records.lean ====
section
/-! DEFINITION. What the die writes to memory about its own events: replay-log entries, fault records,
event objects and completion records; the selvedge check of physical accesses; and the kill of a
command. -/

namespace Sys2Proof.Machine

open Sys2Proof

/-! ### Windows and failing lines -/

/-- Some window of the partition that starts at or below `a` and ends beyond it grants the access; the
answer is the end of the window that reaches furthest. -/
def Part16.reach (p : Part16) (a : Nat) (wr : Bool) : Option Nat :=
  (p.windows.map Prod.snd).foldl
    (fun best w =>
      if w.valid && decide (w.base ≤ a) && decide (a < w.base + w.size) && (if wr then w.wr else w.rd) then
        match best with
        | none => some (w.base + w.size)
        | some e => some (max e (w.base + w.size))
      else best)
    none

/-- The `n` bytes from `a` lie in windows of the partition that grant the access; adjoining windows
count together, and there are at most eight (R37). -/
def Part16.covers (p : Part16) (wr : Bool) : Nat → Nat → Nat → Bool
  | 0, _, n => n == 0
  | fuel + 1, a, n =>
    if n = 0 then true else
    match p.reach a wr with
    | none => false
    | some e => if a + n ≤ e then true else Part16.covers p wr fuel e (a + n - e)

/-- The `n` bytes from a physical address of target 0 or 1 lie in the DRAM of their die (R217, R218): of the sibling's,
as much as it told at the pairing. -/
def State.inDram (s : State) (a n : Nat) : Bool :=
  match target a with
  | 0 => decide (a + n ≤ s.capacity)
  | 1 => s.seamInUse && a / 2 ^ 48 % 4 == 0 && decide (a % 2 ^ 48 + n ≤ s.die.siblingBytes)
  | _ => true

/-- A physical access on behalf of partition `p` passes its windows, and the bytes exist (R217, R252). -/
def State.windowOk (s : State) (p a n : Nat) (wr : Bool) : Bool := s.inDram a n && (s.part p).covers wr 9 a n

/-- A read of the `n` bytes from `a` meets an uncorrectable DRAM error that persists (R310). -/
def State.failing (s : State) (a n : Nat) : Bool :=
  target a == 0 && s.flt.failing.any (fun l => decide (l * 128 < a + n) && decide (a < l * 128 + 128))

/-- A write of the `n` bytes from `a` needs a read that meets such an error: a failing line that it does
not replace whole (R310). -/
def State.failingPart (s : State) (a n : Nat) : Bool :=
  target a == 0 && s.flt.failing.any (fun l =>
    decide (l * 128 < a + n) && decide (a < l * 128 + 128) && !(decide (a ≤ l * 128) && decide (l * 128 + 128 ≤ a + n)))

/-- The first byte from `a` on that lies in a failing line (R302, R310); a write meets only a line that it does not
replace whole. -/
def State.failedAt (s : State) (a n : Nat) (wr : Bool) : Nat :=
  (s.flt.failing.filter (fun l => decide (l * 128 < a + n) && decide (a < l * 128 + 128) &&
    !(wr && decide (a ≤ l * 128) && decide (l * 128 + 128 ≤ a + n)))).foldl
    (fun m l => min m (max a (l * 128))) (a + n)

/-! ### The replay log -/

/-- The ring entry that a log window writes next lies in target 0 below the installed capacity. -/
def State.logPlace (s : State) (w : LogWin) : Bool :=
  decide (w.base + 32 * w.head.toNat + 32 ≤ s.capacity)

/-- The ring is full (R169). -/
def LogWin.full (w : LogWin) : Bool :=
  (w.head.toNat + 1) % 2 ^ w.order == w.tail.toNat % 2 ^ w.order

/-- The bytes of a log entry (R170). -/
def logBytes (type die ctx seq stitch : Nat) (payload : List U8) : List U8 :=
  toBytes 1 type ++ toBytes 1 die ++ toBytes 2 ctx ++ toBytes 4 seq ++ toBytes 8 stitch ++
    (payload ++ List.replicate 16 0).take 16

/-- The state with a log window changed. -/
def State.setLog (s : State) (p : Nat) (w : LogWin) : State :=
  { s with det := { s.det with logs := s.det.logs.set p w } }

/-- The stitch counter of a command (R166): its launch index and node index where it is a node. -/
def Job.stitch (j : Job) : Nat :=
  if j.parent.isSome then j.handle.toNat * 2 ^ 32 + j.node % 2 ^ 16 * 2 ^ 16 else 0

/-! ### Fault records -/

/-- The bytes of a fault record (R301). -/
def FaultRec.bytes (r : FaultRec) (seq : U32) : List U8 :=
  toBytes 1 r.status.toNat ++ toBytes 1 r.source.toNat ++ toBytes 2 r.context.toNat ++
    toBytes 4 seq.toNat ++ toBytes 8 r.stitch.toNat ++ toBytes 8 r.addr.toNat ++ toBytes 4 r.info.toNat ++
    toBytes 2 (r.lost.toNat + 2 * r.merged.toNat + 4 * r.die.toNat + 8 * r.phys.toNat) ++
    toBytes 1 r.loss.toNat ++ [0]

/-- FAULT_P of partition `p` asserts; on a follower it never does (R389). -/
def State.raiseFault (s : State) (p : Nat) : State := if s.leader then s.raise (32 + p) else s

/-- The state with a partition fault-queue window changed. -/
def State.setPq (s : State) (p : Nat) (w : PartFq) : State :=
  { s with flt := { s.flt with pq := s.flt.pq.set p w } }

/-- MC_EVENTS bits, and a channel changed (R488, R489). -/
def State.mcEvent (s : State) (i : Nat) : State := { s with mc := { s.mc with events := setBit s.mc.events i true } }

def State.updChannel (s : State) (c : Nat) (f : Channel → Channel) : State :=
  { s with mc := { s.mc with channels := s.mc.channels.set c (f (s.mc.channels.get {} c)) } }

/-- A channel counts an uncorrectable error (R488, R489). -/
def State.mcUe (s : State) (a : Nat) : State :=
  let ch := dramChannel a
  let x : Channel := s.mc.channels.get {} ch
  let x := { x with ue := satAdd32 x.ue 1, ueAddr := BitVec.ofNat 32 (a / 16) }
  { s with mc := { s.mc with events := setBit s.mc.events 1 true, channels := s.mc.channels.set ch x } }

/-- A record of a partition's own queue is written, or dropped and counted (R304). The write of a record into a failing
line meets its error (R310): the record is dropped, and the channel counts the error. -/
def State.partRecord (s : State) (p : Nat) (r : FaultRec) : State :=
  let w := s.flt.pq.get {} p
  let a := w.base + 32 * (w.write.toNat % 2 ^ w.order)
  let bad := w.enable && s.failingPart a 32
  let placed := ((target a == 0 && decide (a + 32 ≤ s.capacity)) || target a == 2) && !bad
  let s := if bad then s.mcUe (s.failedAt a 32 true) else s
  if w.enable && decide ((w.write - w.read).toNat < 2 ^ w.order) && placed then
    let s := s.poke a (r.bytes w.seq)
    ((s.setPq p { w with write := w.write + 1, seq := w.seq + 1 }).fltEvent 8).raiseFault p
  else
    (s.setPq p { w with
      dropped := satAdd32 w.dropped 1, droppedSince := w.droppedSince + 1, seq := w.seq + 1 }).fltEvent 2

/-- The partitions that are enabled on this die. -/
def State.enabledParts (s : State) : List Nat := (List.range 16).filter (fun p => (s.part p).enable)

/-- A record goes to the queue of every enabled partition (R302). -/
def State.everyPart (s : State) (r : FaultRec) : State :=
  s.enabledParts.foldl (fun s p => s.partRecord p r) s

/-- A DRAM record that names no context (R310). -/
def State.dramRecord (s : State) (a : Nat) (byHost : Bool) : State :=
  (s.mcUe a).partRecord (s.partOf a)
    { status := 0x02, source := 0x0A, context := 0xFFFF, addr := BitVec.ofNat 64 a,
      info := BitVec.ofNat 32 (dramChannel a + if byHost then 16 else 0), phys := true }

/-- A log entry is written, or dropped and counted (R169, R170). A write that meets a failing line is a drop as well, with
a DRAM record for the Thimble core that made it (R310). -/
def State.log (s : State) (p type ctx stitch : Nat) (payload : List U8) : State :=
  let w := s.det.logs.get {} p
  let a := w.base + 32 * w.head.toNat
  let bad := s.failingPart a 32
  if !w.enable then s
  else if w.full || !s.logPlace w || bad then
    let t := s.setLog p { w with dropped := satAdd32 w.dropped 1, droppedSince := w.droppedSince + 1, seq := w.seq + 1 }
    if bad then t.dramRecord (s.failedAt a 32 true) false else t
  else
    let s := s.poke a (logBytes type (if type = 8 then 0 else s.dieNo) ctx w.seq.toNat stitch payload)
    s.setLog p { w with head := BitVec.ofNat 16 ((w.head.toNat + 1) % 2 ^ w.order), seq := w.seq + 1 }

/-- What a physical access of the Shuttle or T1 on behalf of a context meets, by its first byte: a refusal of the
windows, or an uncorrectable DRAM error (R252, R310). -/
inductive PhysFail where
  | selvedge (a : Nat)
  | dram (a : Nat)
deriving DecidableEq, Repr

/-- The checks of such an access to `n` bytes. -/
def State.physFail (s : State) (c a n : Nat) (wr : Bool) : Option PhysFail :=
  if !s.windowOk (s.ctx c).partition a n wr then some (.selvedge a)
  else if (if wr then s.failingPart a n else s.failing a n) then some (.dram (s.failedAt a n wr))
  else none

/-- A record reaches a context's fault queue: written, or dropped for lack of space or because its place fails the checks
of a physical access, which the second answer tells (R252, R303, R310). -/
def State.ctxRecord (s : State) (c : Nat) (r : FaultRec) : State × Option PhysFail :=
  let x := s.ctx c
  let a := x.fqBase + 32 * (x.fqWrite.toNat % 2 ^ x.fqOrder)
  let drop := (s.updCtx c (fun x => { x with
    overflow := satAdd32 x.overflow 1, fqDroppedSince := x.fqDroppedSince + 1, fqSeq := x.fqSeq + 1 })).fltEvent 2
  if 2 ^ x.fqOrder ≤ (x.fqWrite - x.fqRead).toNat then (drop, none) else
  match s.physFail c a 32 true with
  | some e => (drop, some e)
  | none =>
    (((s.poke a (r.bytes x.fqSeq)).updCtx c
        (fun x => { x with fqWrite := x.fqWrite + 1, fqSeq := x.fqSeq + 1 })).fltEvent 0 |>.raiseFault x.partition,
      none)

/-! ### The event unit -/

/-- The condition of an event update on its object: value, error word and flags word. -/
structure EventObj where
  value : Nat
  error : Nat
  flags : Nat
deriving DecidableEq, Repr

/-- The event object at a physical address (R253). -/
def State.event (s : State) (a : Nat) : EventObj :=
  { value := s.mem.num a 8, error := s.mem.num (a + 8) 4, flags := s.mem.num (a + 12) 4 }

/-- The object written back as one 16-byte write; an accepted update of an object with NOTIFY set raises
EVENT_P of the partition it is attributed to (R253, R389). -/
def State.putEvent (s : State) (a p : Nat) (e : EventObj) (accepted : Bool) : State :=
  let s := s.poke a (toBytes 8 e.value ++ toBytes 4 e.error ++ toBytes 4 e.flags)
  let s := if accepted && s.pwr.state == .run then { s with pwr := { s.pwr with gated := 0 } } else s
  if accepted && e.flags % 2 == 1 && s.leader then s.raise (48 + p) else s

/-- A difference modulo 2^64 that is negative as a signed number (R254). -/
def negDiff (x v : Nat) : Bool := decide (2 ^ 63 ≤ (x + 2 ^ 64 - v % 2 ^ 64) % 2 ^ 64)

/-- signal of R254: the new object, and whether the signal was ignored. -/
def EventObj.signal (e : EventObj) (x err producer : Nat) : EventObj × Bool :=
  if negDiff x e.value then
    ({ e with flags := e.flags % 2 ^ 16 + min (e.flags / 2 ^ 16 + 1) 0xFFFF * 2 ^ 16 }, true)
  else
    ({ e with value := x % 2 ^ 64,
              error := if err != 0 && e.error == 0 then err + producer * 2 ^ 16 else e.error }, false)

/-- fail of R254. -/
def EventObj.fail (e : EventObj) (err producer : Nat) : EventObj :=
  if e.error = 0 then { e with error := err + producer * 2 ^ 16 } else e

/-- reset of R254. -/
def EventObj.reset (e : EventObj) (x : Nat) : EventObj :=
  { value := x % 2 ^ 64, error := 0, flags := e.flags % 2 ^ 16 }

/-- A wait for `w` is satisfied (R254). -/
def EventObj.reached (e : EventObj) (w : Nat) : Bool := e.error != 0 || !negDiff e.value w

/-! ### Slots and completion records -/

/-- The physical address of slot `i` of a queue's ring (R250). -/
def Queue.slotAddr (q : Queue) (i : U32) : Nat := q.sqBase + 64 * (i.toNat % 2 ^ q.sqOrder)

/-- The indices of the slots of a queue that have not finished, oldest first (R294). -/
def Queue.unfinished (q : Queue) : List U32 :=
  ((List.range (q.sqWrite - q.oldest).toNat).map (fun k => q.oldest + BitVec.ofNat 32 k)).filter
    (fun i => !q.finished.contains i)

/-- Slot `i` of the queue has finished: the oldest unfinished slot moves past every finished one. -/
def Queue.finish (q : Queue) (i : U32) : Queue :=
  let fin := i :: q.finished
  let k := ((List.range (q.sqWrite - q.oldest).toNat).takeWhile
    (fun k => fin.contains (q.oldest + BitVec.ofNat 32 k))).length
  let old := q.oldest + BitVec.ofNat 32 k
  { q with
    oldest := old,
    finished := fin.filter (fun j => decide ((j - old).toNat < (q.sqWrite - old).toNat)) }

/-- The Shuttle's indices are written to RPTR (R248, R250), unless the check of the access fails, which the second answer
tells (R252, R310). -/
def State.putRptr (s : State) (q : Nat) : State × Option PhysFail :=
  let x := s.queue q
  match s.physFail x.ctx x.rptr 8 true with
  | some e => (s, some e)
  | none => (s.poke x.rptr (toBytes 4 x.sqRead.toNat ++ toBytes 4 x.cqWrite.toNat), none)

/-- What a completion record holds (R279). -/
structure CompRec where
  status : U8
  opcode : U8
  command : U16 := 0
  handle : U32 := 0
  work : BitVec 48 := 0
  strict : Bool := false
  hostTimed : Bool := false
  launch : Bool := false
  noTarget : Bool := false
  memory : Bool := false
  kills : Nat := 0
  refresh : U32 := 0
  retry : U32 := 0
  loose : U32 := 0
  stamp : U32 := 0
deriving DecidableEq, Repr

/-- The bytes of a completion record (R279). -/
def CompRec.bytes (r : CompRec) : List U8 :=
  toBytes 1 r.status.toNat ++ toBytes 1 r.opcode.toNat ++ toBytes 2 r.command.toNat ++
    toBytes 4 r.handle.toNat ++ toBytes 6 r.work.toNat ++
    toBytes 1 (r.strict.toNat + 2 * r.hostTimed.toNat + 4 * r.launch.toNat + 8 * r.noTarget.toNat +
      16 * r.memory.toNat) ++ toBytes 1 (min r.kills 255) ++
    toBytes 4 r.refresh.toNat ++ toBytes 4 r.retry.toNat ++ toBytes 4 r.loose.toNat ++ toBytes 4 r.stamp.toNat

/-- A completion record is written at the queue's completion write index; COMPLETE_C of the context is
raised for a queue with NOTIFY (R280, R389). Nothing is written where the check of its place or of RPTR fails (R252,
R310). -/
def State.complete (s : State) (q : Nat) (r : CompRec) : State × Option PhysFail :=
  let x := s.queue q
  let a := x.cqBase + 32 * (x.cqWrite.toNat % 2 ^ x.cqOrder)
  match (s.physFail x.ctx a 32 true).or (s.physFail x.ctx x.rptr 8 true) with
  | some e => (s, some e)
  | none =>
    let s := s.poke a r.bytes
    let s := ((s.updQueue q (fun x => { x with cqWrite := x.cqWrite + 1 })).putRptr q).1
    (if x.notify && s.leader then s.raise (256 + x.ctx) else s, none)

/-- The entries of the completion ring free for new commands (R251, R280). -/
def Queue.room (q : Queue) : Nat := 2 ^ q.cqOrder - 1 - (q.cqWrite - q.cqRead).toNat - q.owed

/-! ### Killing -/

/-- A command's blocks, groups and tiles leave its engines. -/
def State.dropBlocks (s : State) (j : Nat) : State :=
  { s with
    groups := s.groups.filter (fun g => g.2.job != j),
    blocks := s.blocks.filter (fun b => b.2.job != j) }

/-- A range that a run of a command has written is noted. A pass has none: a stored tile stays stored, and one in
progress is rendered again whole (R29). -/
def State.note (s : State) (j pa n : Nat) : State :=
  if n = 0 || (s.jobs.find j).elim true (fun v => v.kind == 3) then s else
  let l := s.trail.get [] j
  if l.contains (pa, n) then s else { s with trail := s.trail.set j (l ++ [(pa, n)]) }

/-- What an uncommitted command has written is undefined: each range takes a free value (R28, R103, R299). -/
def State.spoil (s : State) (j : Nat) : State :=
  let s := (s.trail.get [] j).foldl (fun (s : State) r =>
    let (k, s) := s.free
    { s with mem := s.mem.putBytes r.1 (toBytes r.2 k) }) s
  { s with trail := s.trail.del j }

/-- What a kill leaves of a pass: tiles in progress, groups and shaded vertices are discarded, and in stage 0 the
bins with them (R327, R342). -/
def Pass.killed (p : Pass) : Pass :=
  { p with
    tiles := [], shaded := [], spoilt := [],
    draw := if p.stage = 0 then p.startDraw else p.draw,
    next := if p.stage = 0 then 0 else p.next,
    prim := if p.stage = 0 then 0 else p.prim,
    ord := if p.stage = 0 then p.startOrd - p.startPrim else p.ord,
    verts := if p.stage = 0 then [] else p.verts,
    heap := if p.stage = 0 then 0 else p.heap,
    bins := if p.stage = 0 then [] else p.bins }

/-- A render pass has committed: its last tile is stored (R29, R31). -/
def Job.committed (j : Job) : Bool := j.pass.any (fun p => p.stage == 3)

/-- The timer of a killed command stops where it waits after a pre-emption, an apply quiesce, a context switch or a
SUSPEND; it runs in FAULT_WAIT and after a residue or stale-anchor kill (R171, R285). -/
def stopsTimer (cause : Nat) : Bool := [1, 5, 6, 7].contains cause

/-- A command that will run again is killed (R31, R170): its engines are freed, its kill counted, a
strict command's cycles added to DET_CTX_KILLED, and the KILL entry logged; what it wrote is undefined. How many arithmetic cycles
the killed run took is a free value. A kill of a pass that has committed has no effect. -/
def State.killAs (s : State) (j cause : Nat) (held : Bool) (st : JobState) : State :=
  match s.jobs.find j with
  | none => s
  | some v =>
    if v.committed then s else
    let c := s.ctx v.ctx
    let (n, s) := s.free
    let cycles := n % 2 ^ 32
    let s := ((s.flushDeltas (fun d => d.ctx == v.ctx)).dropBlocks j).spoil j
    let s := s.updJob j (fun v => { v with
      st := st, kills := v.kills + 1, cores := 0, dma := none,
      cmp := none, status := 0, loose := 0, hostTimed := false, nextBlock := 0, pass := v.pass.map Pass.killed, sumFrames := [], presets := [],
      refresh := 0, retry := 0, late := 0, suspending := false, stream := none,
      timerHeld := held, front := 0 })
    let s := if c.strict then s.updCtx v.ctx (fun x => { x with killed := satAdd64 x.killed cycles }) else s
    s.log c.partition 0x05 v.ctx v.stitch (toBytes 4 cause ++ toBytes 4 cycles)

/-- A kill with the timer as its cause has it. -/
def State.kill (s : State) (j cause : Nat) (st : JobState) : State := s.killAs j cause (stopsTimer cause) st

/-- A kill after which the command re-runs ahead of others (R46 step 7, R288 step 5, R308). -/
def State.killFirst (s : State) (j cause rank : Nat) (st : JobState) : State :=
  (s.kill j cause st).updJob j (fun v => if v.committed then v else { v with front := rank })

/-- A command that will not run again leaves the die. -/
def State.remove (s : State) (j : Nat) : State :=
  let s := s.dropBlocks j
  { s with jobs := s.jobs.del j, trail := s.trail.del j }

/-- A command that has not committed leaves the die, and what it wrote is undefined (R28, R299); its anchored adds go with
it (R145). -/
def State.abandon (s : State) (j : Nat) : State :=
  let s := match s.jobs.find j with
    | none => s
    | some v => s.flushDeltas (fun d => d.ctx == v.ctx)
  (s.spoil j).remove j

/-- How a killed command waits to run again: with its packs, or first for them. -/
def Job.again (j : Job) : JobState :=
  if j.packOffs.isEmpty && j.packs.any (· != 0xFF) then .packWait else .rerun

/-- A command occupies engines. -/
def Job.onEngines (j : Job) : Bool := j.st == .running || j.st == .done

/-- The commands in flight with their identifiers that satisfy a test, oldest dispatch first. -/
def State.jobsWhere (s : State) (f : Job → Bool) : List (Nat × Job) :=
  s.jobs.filter (fun e => f e.2)

end Sys2Proof.Machine
end

