-- ==== Sys2Proof/Machine/Translate.lean ====
section
/-! DEFINITION. Address translation: the table walk, the translation buffers, the checks on every access, and the
traffic of the accesses that pass them (R23, R38, R156, R216 to R229). -/

namespace Sys2Proof.Machine

open Sys2Proof

/-- A page-table entry (R220). -/
abbrev Pte := U64

def Pte.valid (e : Pte) : Bool := bit e 0
def Pte.leaf (e : Pte) : Bool := bit e 1
def Pte.wr (e : Pte) : Bool := bit e 2
def Pte.ex (e : Pte) : Bool := bit e 3
def Pte.size64 (e : Pte) : Bool := bit e 4
def Pte.uncached (e : Pte) : Bool := bit e 5
def Pte.fatal (e : Pte) : Bool := bit e 6

/-- The physical address field, bits [51:12] in place. -/
def Pte.addr (e : Pte) : Nat := e.toNat % 2 ^ 52 / 4096 * 4096

/-- Bits [11:7] and [55:52] are zero. -/
def Pte.reservedZero (e : Pte) : Bool := (e >>> 7) &&& 0x1F == 0 && (e >>> 52) &&& 0xF == 0

/-- The table index of an address at a level (R219). -/
def vaIndex (va level : Nat) : Nat :=
  match level with
  | 4 => va / 2 ^ 39 % 1024
  | 3 => va / 2 ^ 30 % 512
  | 2 => va / 2 ^ 21 % 512
  | _ => va / 2 ^ 12 % 512

/-- The bytes that an entry at a level maps. -/
def levelSpan (level : Nat) : Nat :=
  match level with
  | 4 => 2 ^ 39
  | 3 => 2 ^ 30
  | 2 => 2 ^ 21
  | _ => 2 ^ 12

/-- How a walk ends. -/
inductive WalkEnd where
  | page (e : TlbEntry)
  /-- an entry with VALID 0: its level and its FATAL bit -/
  | absent (level : Nat) (fatal : Bool)
  /-- a valid entry that breaks R220 or R222 -/
  | malformed (level : Nat)
  /-- a table read that meets an uncorrectable DRAM error -/
  | dram (pa : Nat)
deriving DecidableEq, Repr

/-- A valid leaf of `pages` 4 KiB pages, where its address is aligned and its other bits are as R220
asks; `size64` says whether the entry may set SIZE64. -/
def leafEnd (c va level pages : Nat) (e : Pte) : WalkEnd :=
  if e.reservedZero && e.addr % (pages * 4096) == 0 then
    .page { ctx := c, page := va / (pages * 4096) * pages, pages := pages, pa := e.addr / 4096, wr := e.wr,
            ex := e.ex, uncached := e.uncached }
  else .malformed level

/-- The walk from the table of a level down to level 1 (R219 to R222), with the pointer entries read. -/
def State.walk (s : State) (c va : Nat) : (level : Nat) → (table : Nat) → WalkEnd × List WalkEntry
  | 0, _ => (.malformed 1, [])
  | 1, table =>
    let i := vaIndex va 1
    let first : Pte := BitVec.ofNat 64 (s.mem.num (table + 8 * (i / 16 * 16)) 8)
    let e : Pte := BitVec.ofNat 64 (s.mem.num (table + 8 * i) 8)
    if s.failing (table + 8 * (i / 16 * 16)) 128 then (.dram (table + 8 * (i / 16 * 16)), [])
    else if first.valid && first.size64 then
      (if first.leaf then leafEnd c va 1 16 first else .malformed 1, [])
    else if !e.valid then (.absent 1 e.fatal, [])
    else if !e.leaf || e.size64 then (.malformed 1, [])
    else (leafEnd c va 1 1 e, [])
  | level + 2, table =>
    let l := level + 2
    let a := table + 8 * vaIndex va l
    let e : Pte := BitVec.ofNat 64 (s.mem.num a 8)
    if s.failing a 8 then (.dram a, [])
    else if !e.valid then (.absent l e.fatal, [])
    else if e.leaf then
      (if l == 4 || e.size64 then .malformed l else leafEnd c va l (levelSpan l / 4096) e, [])
    else if !e.reservedZero || !(decide (e.addr + 4096 ≤ s.capacity)) then (.malformed l, [])
    else
      let r := State.walk s c va (level + 1) e.addr
      (r.1, { ctx := c, level := l, pre := va / levelSpan l, table := e.addr } :: r.2)

/-- The root table of a context on this die (R223). -/
def State.root (s : State) (c : Nat) : Nat :=
  if s.dieNo = 0 then (s.ctx c).root0.toNat else (s.ctx c).root1.toNat

/-- The table from which a walk starts: below the deepest pointer entry that the walk cache holds (R225). -/
def State.walkStart (s : State) (c va : Nat) : Nat × Nat :=
  match [2, 3, 4].findSome? (fun l =>
      (s.mmu.walkCache.find? (fun e => e.ctx == c && e.level == l && e.pre == va / levelSpan l)).map
        (fun e => (l - 1, e.table))) with
  | some r => r
  | none => (4, s.root c)

/-- The unit whose translation buffers and caches serve what follows: a logical core, or none of them. -/
def State.on (s : State) (k : Option Nat) : State := { s with user := k }

/-- An entry translates an address of a context. -/
def TlbEntry.serves (e : TlbEntry) (c va : Nat) : Bool :=
  e.ctx == c && decide (e.page ≤ va / 4096) && decide (va / 4096 < e.page + e.pages)

/-- The sets of a cluster's two 8-way arrays, of 128 sets each: 0 to 127 hold pages of 4 KiB and 64 KiB, 128 to 255
larger ones (R224). The rules give the arrays no index; the model takes the address bits above the larger page. -/
def smallSet (cl va : Nat) : Nat := 256 * cl + va / 2 ^ 16 % 128
def largeSet (cl va : Nat) : Nat := 256 * cl + 128 + va / 2 ^ 30 % 128

/-- The set into which an entry goes. -/
def TlbEntry.set (e : TlbEntry) (cl : Nat) : Nat :=
  if e.pages ≤ 16 then smallSet cl (4096 * e.page) else largeSet cl (4096 * e.page)

/-- The entries of core `k`'s buffer, and of its cluster's that an address can hit. -/
def Mmu.ofCore (m : Mmu) (k : Nat) : List TlbEntry := m.coreTlb.get [] k
def Mmu.ofCluster (m : Mmu) (cl va : Nat) : List TlbEntry :=
  m.clusterTlb.get [] (smallSet cl va) ++ m.clusterTlb.get [] (largeSet cl va)

/-- Every leaf translation that some buffer holds. -/
def Mmu.entries (m : Mmu) : List TlbEntry :=
  m.coreTlb.flatMap Prod.snd ++ m.clusterTlb.flatMap Prod.snd

/-- An entry is installed in a core's buffer, and in its cluster's: the oldest of 64, or of 8, makes room (R224). The
rules name no entry to replace. -/
def Mmu.toCore (m : Mmu) (k : Nat) (e : TlbEntry) : Mmu :=
  { m with coreTlb := m.coreTlb.set k ((e :: m.ofCore k).take 64) }
def Mmu.install (m : Mmu) (k : Nat) (e : TlbEntry) : Mmu :=
  let set := e.set (k / 8)
  { m.toCore k e with clusterTlb := m.clusterTlb.set set ((e :: m.clusterTlb.get [] set).take 8) }

/-- The translation buffers' entry for an address: of the core that makes the access, else of its cluster. A unit
that is on no core has no leaf buffer. -/
def State.tlbHit (s : State) (c va : Nat) : Option TlbEntry :=
  s.user.bind (fun k =>
    ((s.mmu.ofCore k).find? (·.serves c va)).or ((s.mmu.ofCluster (k / 8) va).find? (·.serves c va)))

/-- A hit in the cluster's buffer alone fills the core's. -/
def State.refill (s : State) (c va : Nat) : State :=
  match s.user with
  | none => s
  | some k =>
    if (s.mmu.ofCore k).any (·.serves c va) then s else
    match (s.mmu.ofCluster (k / 8) va).find? (·.serves c va) with
    | none => s
    | some e => { s with mmu := s.mmu.toCore k e }

/-- A walk runs and is counted; its page and pointer entries are installed unless an invalidation is in
progress (R224 to R226). -/
def State.doWalk (s : State) (c va : Nat) : WalkEnd × State :=
  let st := s.walkStart c va
  let r := s.walk c va st.1 st.2
  let m := { s.mmu with walks := satAdd32 s.mmu.walks 1 }
  let m := if s.mmu.inval.isSome then m else
    let m := { m with walkCache := (r.2 ++ m.walkCache).take 256 }
    match r.1, s.user with
    | .page e, some k => m.install k e
    | _, _ => m
  (r.1, { s with mmu := m })

/-- What the checks of R228 answer for one access. -/
inductive Xlat where
  | ok (pa : Nat)
  /-- a fatal fault: the check 1 to 4 that failed and the level of the entry -/
  | fatal (check level : Nat)
  | replay (level : Nat)
  | selvedge (pa : Nat)
  | dram (pa : Nat)
  /-- no fault: the access waits for an invalidation to end, and then walks again (R226) -/
  | wait
deriving DecidableEq, Repr

/-- A Spool bank offset of a physical address of this die's or the sibling's Spool window (R178, R217):
die, bank and offset, none outside the window. -/
def State.spoolPlace (s : State) (pa : Nat) : Option (Nat × Nat × Nat) :=
  let off := if target pa = 3 then pa % 2 ^ 50 else pa % 2 ^ 48
  let die := if target pa = 3 then s.dieNo else 1 - s.dieNo
  if off < 8 * 2 ^ 24 && off % 2 ^ 24 < s.die.part.bankMib * 2 ^ 20 then some (die, off / 2 ^ 24, off % 2 ^ 24)
  else none

/-- R178 and R179: a Spool address is reached by the partition the bank is bound to, and for reads by a
partition in the mask of a share entry that holds it; a PACK granule is not written. -/
def State.spoolOk (s : State) (p pa : Nat) (wr : Bool) : Bool :=
  match s.spoolPlace pa with
  | none => false
  | some (die, bank, off) =>
    let own := bit (s.ptn.parts.get {} (16 * die + p)).banks bank
    let g := s.spl.grans.get {} (256 * bank + off / 0x10000)
    if wr then own && !(die == s.dieNo && g.st == .pack)
    else own || (die == s.dieNo && s.spl.shares.any (fun e =>
      e.2.bank == bank && bit e.2.readers p && decide (e.2.first ≤ off / 0x10000) &&
        decide (off / 0x10000 < e.2.first + e.2.count)))

/-- Check 5 of R228 for the `n` bytes at a physical address: R218 and the partition's windows. -/
def State.selvedgeOk (s : State) (p pa n : Nat) (wr : Bool) : Bool :=
  match target pa with
  | 0 => s.windowOk p pa n wr
  | 1 =>
    s.seamInUse &&
      (if pa / 2 ^ 48 % 4 = 0 then s.windowOk p pa n wr
       else if pa / 2 ^ 48 % 4 = 3 then s.spoolOk p pa wr && s.spoolOk p (pa + n - 1) wr
       else false)
  | 2 => s.windowOk p pa n wr
  | _ => s.spoolOk p pa wr && s.spoolOk p (pa + n - 1) wr

/-- The physical address of a virtual one in a page. -/
def TlbEntry.place (e : TlbEntry) (va : Nat) : Nat := (e.pa + (va / 4096 - e.page)) * 4096 + va % 4096

/-- Checks 2 to 5 of R228, on what the walk or the buffers answer. -/
def State.judge (s : State) (c va n : Nat) (acc : Access) : WalkEnd → Xlat
  | .dram pa => .dram pa
  | .malformed l => .fatal 2 l
  | .absent l f => if f then .fatal 3 l else .replay l
  | .page e =>
    let lvl := if e.pages ≤ 16 then 1 else if e.pages = 512 then 2 else 3
    let wr := acc == .write || acc == .atomic
    if wr && !e.wr then .replay lvl
    else if acc == .fetch && !e.ex then .fatal 4 lvl
    else if !s.selvedgeOk (s.ctx c).partition (e.place va) n wr then .selvedge (e.place va)
    else .ok (e.place va)

/-- The checks of R228, in order, on an access of `n` bytes that lie in one 4 KiB page. While an invalidation runs an
access that needs a walk waits, and walks again (R226). -/
def State.xlat (s : State) (c va n : Nat) (acc : Access) : Xlat × State :=
  if 2 ^ 49 ≤ va then (.fatal 1 0, s) else
  match s.tlbHit c va with
  | some e => (s.judge c va n acc (.page e), s.refill c va)
  | none =>
    let r := s.doWalk c va
    (if s.mmu.inval.isSome then .wait else s.judge c va n acc r.1, r.2)

/-- The page of an address, as the buffers or the tables give it now. -/
def State.pageOf (s : State) (c va : Nat) : WalkEnd :=
  match s.tlbHit c va with
  | some e => .page e
  | none => (s.walk c va (s.walkStart c va).1 (s.walkStart c va).2).1

/-- One piece of an access: the pages of `n` bytes from `va`, each with its part of the bytes. -/
def pieces (va n : Nat) : List (Nat × Nat) :=
  if n = 0 then [] else
  (List.range ((va + n - 1) / 4096 - va / 4096 + 1)).map (fun i =>
    let a := if i = 0 then va else (va / 4096 + i) * 4096
    (a, min ((va / 4096 + i + 1) * 4096) (va + n) - a))

/-- The failures that a probe has met: the governing one with its address and access, and the lowest and
highest failing page (R229). -/
structure ProbeFail where
  x : Xlat
  va : Nat
  acc : Access
  lo : Nat
  hi : Nat
deriving DecidableEq, Repr

/-- How one failure ranks against others: a losing one above a replayable one; a wait leaves all of them open. -/
def Xlat.rank : Xlat → Nat
  | .fatal _ _ => 1
  | .selvedge _ => 1
  | .dram _ => 1
  | .wait => 2
  | _ => 0

/-- One more failing page joins a probe: a losing failure outranks a replayable one, and among equals
the one on the lowest page governs. -/
def ProbeFail.join (f : Option ProbeFail) (x : Xlat) (va : Nat) (acc : Access) : ProbeFail :=
  match f with
  | none => { x := x, va := va, acc := acc, lo := va / 4096, hi := va / 4096 }
  | some f =>
    let lo := min f.lo (va / 4096)
    let hi := max f.hi (va / 4096)
    if f.x.rank < x.rank || (x.rank == f.x.rank && decide (va / 4096 < f.va / 4096)) then
      { x := x, va := va, acc := acc, lo := lo, hi := hi }
    else { f with lo := lo, hi := hi }

/-- Every page of the ranges is translated and checked, even after one has failed (R229). -/
def State.probe (s : State) (c : Nat) (ranges : List (Nat × Nat × Access)) : Option ProbeFail × State :=
  (ranges.flatMap (fun r => (pieces r.1 r.2.1).map (fun q => (q.1, q.2, r.2.2)))).foldl
    (fun st q =>
      let r := st.2.xlat c q.1 q.2.1 q.2.2
      match r.1 with
      | .ok _ => (st.1, r.2)
      | x => (some (ProbeFail.join st.1 x q.1 q.2.2), r.2))
    (none, s)

/-- The physical address of a virtual one where its page passes the checks; none where it does not. -/
def State.reachOf (s : State) (c va n : Nat) (acc : Access) : Option Nat :=
  match s.judge c va n acc (s.pageOf c va) with
  | .ok pa => some pa
  | _ => none

/-- The physical address of a virtual one that a probe has passed. -/
def State.physOf (s : State) (c va : Nat) (acc : Access) : Nat := (s.reachOf c va 1 acc).getD 0

/-- The bytes of a virtual range that a probe has passed, as the unit sees them. -/
def State.vread (s : State) (c va n : Nat) : List U8 :=
  (pieces va n).flatMap (fun q =>
    match s.reachOf c q.1 1 .read with
    | some pa => s.see pa q.2
    | none => List.replicate q.2 0)

/-- Bytes are written to a virtual range that a probe has passed, piece by piece. -/
def State.vstore (put : State → Nat → List U8 → State) (s : State) (c va : Nat) (bs : List U8) : State :=
  ((pieces va bs.length).foldl (fun (st : State × List U8) q =>
    (match st.1.reachOf c q.1 1 .write with
     | some pa => put st.1 pa (st.2.take q.2)
     | none => st.1, st.2.drop q.2)) (s, bs)).1

/-- The state after bytes are written to a virtual range that a probe has passed. -/
def State.vwrite (s : State) (c va : Nat) (bs : List U8) : State := State.vstore State.store s c va bs

/-- The pages of a virtual range that a command may write are noted as written by its run (R28). -/
def State.noteVirtual (s : State) (j c va n : Nat) : State :=
  (pieces va n).foldl (fun s q =>
    match s.reachOf c q.1 q.2 .write with
    | some pa => s.note j pa q.2
    | none => s) s

/-! ### The traffic of accesses that pass -/

/-- The page of an address has UNCACHED set (R220). -/
def State.uncachedAt (s : State) (c va : Nat) : Bool :=
  match s.pageOf c va with
  | .page e => e.uncached
  | _ => false

/-- The pieces of the ranges of a context's accesses: physical address, length, access and UNCACHED. -/
def State.reached (s : State) (c : Nat) (ranges : List (Nat × Nat × Access)) : List (Nat × Nat × Access × Bool) :=
  ranges.flatMap (fun r => (pieces r.1 r.2.1).filterMap (fun q =>
    (s.reachOf c q.1 q.2 r.2.2).map (fun pa => (pa, q.2, r.2.2, s.uncachedAt c q.1))))

/-- The context's partition holds credit for its accesses (R23, R38). -/
def State.funded (s : State) (c : Nat) (ranges : List (Nat × Nat × Access)) : Bool :=
  (s.reached c ranges).all (fun q => s.credited (s.ctx c).partition q.2.2.1 q.2.2.2 q.1 q.2.1)

/-- The accesses of command `j`: they go through the caches or to their homes, credit pays for what leaves them, and a
command that reaches host memory is host-timed (R38, R156, R197). -/
def State.traffic (s : State) (j c : Nat) (ranges : List (Nat × Nat × Access)) : State :=
  let qs := s.reached c ranges
  let s := qs.foldl (fun s q => s.access c (s.ctx c).partition q.2.2.1 q.2.2.2 q.1 q.2.1) s
  if qs.any (fun q => target q.1 == 2) then s.updJob j (fun v => { v with hostTimed := true }) else s

/-! ### Dropping translations -/

/-- The buffers without the leaf entries that fail one test and the pointer entries that fail the other. -/
def Mmu.keep (m : Mmu) (leaf : TlbEntry → Bool) (pointer : WalkEntry → Bool) : Mmu :=
  let sift := fun (t : TMap (List TlbEntry)) =>
    (t.mapVals (fun _ l => l.filter leaf)).filter (fun e => !e.2.isEmpty)
  { m with
    coreTlb := sift m.coreTlb
    clusterTlb := sift m.clusterTlb
    walkCache := m.walkCache.filter pointer }

/-- The translations of a context's range are dropped (R226); 0 pages stand for the whole context. -/
def Mmu.drop (m : Mmu) (c page pages : Nat) : Mmu :=
  m.keep
    (fun e => !(e.ctx == c && (pages == 0 || (decide (e.page < page + pages) && decide (page < e.page + e.pages)))))
    (fun e => !(e.ctx == c && (pages == 0 ||
      (decide (e.pre * (levelSpan e.level / 4096) < page + pages) &&
        decide (page < (e.pre + 1) * (levelSpan e.level / 4096))))))

/-- Every translation of a partition's contexts is dropped (R227). -/
def State.dropPart (s : State) (p : Nat) : State :=
  let keep := fun c => (s.ctx c).partition != p
  { s with mmu := s.mmu.keep (fun e => keep e.ctx) (fun e => keep e.ctx) }

/-- A strict command starts on a core: its L1 and its translation buffer are invalidated (R159, R206). -/
def State.strictCore (s : State) (k : Nat) : State :=
  let s := s.l1Clear k
  { s with mmu := { s.mmu with coreTlb := s.mmu.coreTlb.del k } }

end Sys2Proof.Machine
end

