-- ==== Sys2Proof/Machine/PatternCheck.lean ====
section
/-! DEFINITION. Pattern streams: their records, the result they describe, and the checks that a result
must pass before anything changes (R33 to R38, R45). -/

namespace Sys2Proof.Machine

open Sys2Proof

/-- A field of a pattern result: partition key, record type and, for REGULATOR, SELVEDGE and
BLOCK_GROUPS, the port, window or cluster. -/
abbrev FieldId := Nat × Nat × Nat

/-- A record of a stream: its byte offset, type and payload (R33). -/
structure PRec where
  off : Nat
  type : Nat
  body : List U8
deriving DecidableEq, Repr

/-- The number of bytes a record with a payload of `n` bytes occupies (R33). -/
def recSize (n : Nat) : Nat := 4 + (n + 3) / 4 * 4

/-- The records of a stream up to END, or the offset of one that runs past the stream's end. R36 gives a stream that
ends without END, or whose last record runs past it, no PTN_FAIL_OFFSET; DESIGN CHOICE: the offset where parsing
stopped (assumption 102). -/
def parseRecs : (fuel off : Nat) → List U8 → List PRec × Option Nat
  | 0, off, _ => ([], some off)
  | fuel + 1, off, bs =>
    if bs.length < 4 then ([], some off) else
    let n := field bs 2 2
    if bs.length < recSize n then ([], some off) else
    let r : PRec := { off := off, type := field bs 0 2, body := (bs.drop 4).take n }
    if r.type = 0x00FF then ([r], if bs.length = recSize n then none else some (off + recSize n))
    else
      let t := parseRecs fuel (off + recSize n) (bs.drop (recSize n))
      (r :: t.1, t.2)

/-- The payload length of each record type of R34. -/
def recLength : Nat → Option Nat
  | 0x0001 => some 24
  | 0x0010 => some 16
  | 0x0011 => some 16
  | 0x0012 => some 4
  | 0x0013 => some 4
  | 0x0014 => some 4
  | 0x0015 => some 4
  | 0x0016 => some 8
  | 0x0017 => some 8
  | 0x0018 => some 20
  | 0x0019 => some 8
  | 0x001A => some 12
  | 0x00FF => some 4
  | _ => none

/-- Bit 15 of the type is set: the record is skipped (R33). -/
def PRec.skipped (r : PRec) : Bool := decide (0x8000 ≤ r.type)

/-- The record belongs to a partition. -/
def PRec.scoped (r : PRec) : Bool := !r.skipped && r.type != 0x0001 && r.type != 0x00FF

def PRec.die (r : PRec) : Nat := field r.body 0 1
def PRec.part (r : PRec) : Nat := field r.body 1 1

/-- The field that a partition-scoped record carries. -/
def PRec.field (r : PRec) : FieldId :=
  (16 * r.die + r.part, r.type,
    if r.type = 0x0017 || r.type = 0x0018 || r.type = 0x0019 then Machine.field r.body 2 1 else 0)

/-- R34 holds for one record: known type, its length, and every index and count in range. -/
def PRec.formed (r : PRec) : Bool :=
  r.skipped || (recLength r.type == some r.body.length &&
    (!r.scoped || decide (r.part < 16)) &&
    (match r.type with
     | 0x0010 => !(r.part == 0 && Machine.field r.body 2 2 % 2 == 0)
     | 0x0015 => decide (Machine.field r.body 2 1 ≤ 16) && decide (Machine.field r.body 3 1 ≤ 16)
     | 0x0017 => decide (Machine.field r.body 2 1 ≤ 3)
     | 0x0018 => decide (Machine.field r.body 2 1 ≤ 7)
     | 0x0019 => decide (Machine.field r.body 2 1 ≤ 7)
     | _ => true))

/-- Every reserved byte and bit of a record is zero. -/
def PRec.reservedZero (r : PRec) : Bool :=
  match r.type with
  | 0x0001 => Machine.field r.body 16 8 == 0 && Machine.field r.body 2 2 / 4 == 0
  | 0x0010 => Machine.field r.body 10 6 == 0 && Machine.field r.body 2 2 / 8 == 0
  | 0x0011 => Machine.field r.body 2 2 == 0 && Machine.field r.body 13 3 == 0
  | 0x0012 => Machine.field r.body 3 1 == 0
  | 0x0014 => Machine.field r.body 3 1 == 0
  | 0x0016 => Machine.field r.body 2 2 == 0
  | 0x0017 => Machine.field r.body 3 1 == 0
  | 0x0018 => decide (Machine.field r.body 3 1 < 16)
  | 0x0019 => Machine.field r.body 3 1 == 0
  | 0x001A => Machine.field r.body 2 2 == 0
  | _ => true

/-- The result with one record's fields (R34, R35). -/
def applyRec (m : TMap Part16) (r : PRec) : TMap Part16 :=
  if !r.scoped then m else
  let k := 16 * r.die + r.part
  let p := m.get {} k
  let f := Machine.field r.body
  let bit1 := fun n i => n / 2 ^ i % 2 == 1
  m.set k (match r.type with
    | 0x0010 => { p with
        enable := bit1 (f 2 2) 0, vf := bit1 (f 2 2) 1, rekey := bit1 (f 2 2) 2,
        qFirst := BitVec.ofNat 16 (f 4 2), qCount := BitVec.ofNat 16 (f 6 2), quota := BitVec.ofNat 16 (f 8 2) }
    | 0x0011 => { p with cores := BitVec.ofNat 64 (f 4 8), reserve := BitVec.ofNat 8 (f 12 1) }
    | 0x0012 => { p with banks := BitVec.ofNat 8 (f 2 1) }
    | 0x0013 => { p with ways := BitVec.ofNat 16 (f 2 2) }
    | 0x0014 => { p with pipes := BitVec.ofNat 8 (f 2 1) }
    | 0x0015 => { p with cmp0 := BitVec.ofNat 5 (f 2 1), cmp1 := BitVec.ofNat 5 (f 3 1) }
    | 0x0016 => { p with dma := BitVec.ofNat 32 (f 4 4) }
    | 0x0017 =>
      let g : Regulator := { rate := BitVec.ofNat 16 (f 4 2), burst := BitVec.ofNat 16 (f 6 2) }
      { p with regs := p.regs.set (f 2 1) g }
    | 0x0018 =>
      let w : SvWindow :=
        { valid := bit1 (f 3 1) 0, rd := bit1 (f 3 1) 1, wr := bit1 (f 3 1) 2, shared := bit1 (f 3 1) 3,
          base := f 4 8, size := f 12 8 }
      { p with windows := p.windows.set (f 2 1) w }
    | 0x0019 => { p with groups := p.groups.set (f 2 1) (BitVec.ofNat 32 (f 4 4)) }
    | 0x001A => { p with key := BitVec.ofNat 64 (f 4 8) }
    | _ => p)

/-- The start of a complete pattern: nothing bound, partition 0 enabled (R35). -/
def emptyPattern (dies : List Nat) : TMap Part16 :=
  dies.foldl (fun m d => m.set (16 * d) { enable := true }) []

/-- A check's verdict: none where it holds, otherwise the fields that take part in the failing
condition. -/
abbrev Verdict := Option (List FieldId)

/-- The keys of the partitions of a die. -/
def keysOf (d : Nat) : List Nat := (List.range 16).map (fun p => 16 * d + p)

/-- The pairs of partitions of one die that bind a common unit of one kind. -/
def clashes {w : Nat} (m : TMap Part16) (d type : Nat) (f : Part16 → BitVec w) : List FieldId :=
  (keysOf d).flatMap (fun a =>
    if (keysOf d).any (fun b => a != b && (f (m.get {} a) &&& f (m.get {} b)) != 0) then [(a, type, 0)] else [])

/-- Fails with the fields where there are any. -/
def failWith (l : List FieldId) : Verdict := if l.isEmpty then none else some l

/-- Exclusive binding. -/
def checkExclusive (dies : List Nat) (m : TMap Part16) : Verdict :=
  failWith (dies.flatMap (fun d =>
    clashes m d 0x11 (fun p => p.cores) ++ clashes m d 0x12 (fun p => p.banks) ++
      clashes m d 0x13 (fun p => p.ways) ++ clashes m d 0x14 (fun p => p.pipes) ++
      clashes m d 0x16 (fun p => p.dma)))

/-- The mask of core slots below the enabled count. -/
def Part.slotMask (p : Part) : U64 :=
  (List.range 64).foldl (fun m k => if k % 8 < p.slots then setBit m k true else m) 0

/-- The pipes that the capability table lists. -/
def State.livePipes (s : State) : BitVec 4 :=
  (List.range 4).foldl (fun m i => if i < s.die.part.pipes then setBit m i true else m) 0 &&& ~~~s.die.pipesOut

/-- The pipes that the capability table of die `d` lists; of the partner's, all that its part has count (assumption 1). -/
def State.pipesOf (s : State) (d : Nat) : BitVec 4 := if d == s.dieNo then s.livePipes else s.livePipes ||| s.die.pipesOut

/-- The compression engines that the capability table lists. -/
def State.liveEngines (s : State) : Nat := if s.die.part.engines = 0 then 0 else 2 - popcount s.die.enginesOut

/-- Compression engine `e` of a die is in the capability table; of the partner's, all that its part has count
(assumption 1). -/
def State.engineListed (s : State) (here : Bool) (e : Nat) : Bool :=
  decide (e < s.die.part.engines) && !(here && bit s.die.enginesOut e)

/-- Live resources: a quarantined slot or disabled way only stays with its holder (R36). -/
def checkLive (s : State) (dies : List Nat) (m : TMap Part16) : Verdict :=
  failWith (dies.flatMap (fun d => (keysOf d).flatMap (fun k =>
    let p := m.get {} k
    let old := s.ptn.parts.get {} k
    let here := d == s.dieNo
    (if (p.cores &&& ~~~s.die.part.slotMask) != 0 || (here && (p.cores &&& s.flt.quar &&& ~~~old.cores) != 0)
      then [(k, 0x11, 0)] else []) ++
    (if here && (p.banks &&& ~~~(s.spl.online &&& ~~~s.spl.retired)) != 0 then [(k, 0x12, 0)] else []) ++
    (if here && (p.ways &&& ~~~s.l3c.live &&& ~~~old.ways) != 0 then [(k, 0x13, 0)] else []) ++
    (if (p.pipes &&& ~~~((s.pipesOf d).zeroExtend 8)) != 0 then [(k, 0x14, 0)] else []) ++
    (if (p.cmp0 != 0 && !s.engineListed here 0) || (p.cmp1 != 0 && !s.engineListed here 1) then [(k, 0x15, 0)] else []))))

/-- Disabled partitions hold no context that is not CLOSED. -/
def checkDisabled (s : State) (m : TMap Part16) : Verdict :=
  failWith ((List.range 16).flatMap (fun p =>
    if !(m.get {} (s.partKey p)).enable &&
        s.ctxs.any (fun e => e.2.partition == p && e.2.state != .closed) then [(s.partKey p, 0x10, 0)] else []))

/-- The enabled partitions of a die. -/
def enabledOf (m : TMap Part16) (d : Nat) : List Nat := (keysOf d).filter (fun k => (m.get {} k).enable)

/-- A partition's rate at a port in 0.1 GB/s. -/
def Part16.rate (p : Part16) (port : Nat) : Nat := (p.regs.get {} port).rate.toNat

/-- A partition's burst at a port in KiB. -/
def Part16.burst (p : Part16) (port : Nat) : Nat := (p.regs.get {} port).burst.toNat

/-- Minimums: the core mask takes part, and the ways or the rate that fall short. -/
def checkMinimums (dies : List Nat) (m : TMap Part16) : Verdict :=
  failWith (dies.flatMap (fun d => (enabledOf m d).flatMap (fun k =>
    let p := m.get {} k
    let ways := p.ways == 0
    let rate := decide (p.rate 0 < 10)
    if p.cores != 0 && (ways || rate) then
      [(k, 0x11, 0)] ++ (if ways then [(k, 0x13, 0)] else []) ++ (if rate then [(k, 0x17, 0)] else []) else [])))

/-- Every display pipe is bound to exactly one partition. -/
def checkDisplay (s : State) (dies : List Nat) (m : TMap Part16) : Verdict :=
  failWith (dies.flatMap (fun d =>
    let bound := (keysOf d).foldl (fun (b : U8) k => b ||| (m.get {} k).pipes) 0
    if ((s.pipesOf d).zeroExtend 8 &&& ~~~bound) != 0 then (keysOf d).map (fun k => (k, 0x14, 0)) else []))

/-- Queue ranges and quotas of the enabled partitions; a follower's counts are zero (R50). -/
def checkQueues (dies : List Nat) (m : TMap Part16) : Verdict :=
  failWith (dies.flatMap (fun d =>
    let en := enabledOf m d
    let rng := fun k => ((m.get {} k).qFirst.toNat, (m.get {} k).qCount.toNat)
    (en.flatMap (fun a =>
      let (f, n) := rng a
      let bad := f % 16 != 0 || n % 16 != 0 || decide (1024 < f + n) || (d == 1 && n != 0) ||
        en.any (fun b => let (g, l) := rng b
          a != b && n != 0 && l != 0 && decide (f < g + l) && decide (g < f + n))
      if bad then [(a, 0x10, 0)] else [])) ++
    (if 256 < (en.map (fun k => (m.get {} k).quota.toNat)).foldl (· + ·) 0 then en.map (fun k => (k, 0x10, 0)) else [])))

/-- The burst limit of R38: a refill interval is 1,024 memory cycles, so a rate of r * 0.1 GB/s gains
r * 819,200 / (MT/s) bytes in one. -/
def burstOk (mts rate burst : Nat) : Bool :=
  if rate = 0 then decide (burst ≤ 1024)
  else decide (1 ≤ burst) && decide (burst ≤ 1024) && decide (rate * 819200 ≤ burst * 1024 * mts)

/-- The sum over the enabled partitions. -/
def sumOf (en : List Nat) (f : Nat → Nat) : Nat := (en.map f).foldl (· + ·) 0

/-- Shares and rates (R38). -/
def checkRates (s : State) (dies : List Nat) (m : TMap Part16) : Verdict :=
  failWith (dies.flatMap (fun d =>
    let en := enabledOf m d
    let rate := fun port k => (m.get {} k).rate port
    let all := fun (type sub : Nat) => en.map (fun k => ((k, type, sub) : FieldId))
    (if 16 < sumOf en (fun k => (m.get {} k).cmp0.toNat) || 16 < sumOf en (fun k => (m.get {} k).cmp1.toNat)
      then all 0x15 0 else []) ++
    (if s.dramRate - 40 < sumOf en (rate 0) then all 0x17 0 else []) ++
    (en.flatMap (fun k => if s.dramRate < rate 1 k then [(k, 0x17, 1)] else [])) ++
    (if 5000 < sumOf en (rate 2) then all 0x17 2 else []) ++
    (if 5000 < sumOf en (rate 3) then all 0x17 3 else []) ++
    (if !s.seamInUse then en.flatMap (fun k => if rate 3 k != 0 then [(k, 0x17, 3)] else []) else []) ++
    (en.flatMap (fun k => [0, 1, 2, 3].flatMap (fun port =>
      if burstOk s.die.dramMts (rate port k) ((m.get {} k).burst port) then [] else [(k, 0x17, port)])))))

/-- Realtime reserves (R39). -/
def checkReserve (dies : List Nat) (m : TMap Part16) : Verdict :=
  failWith (dies.flatMap (fun d => (enabledOf m d).flatMap (fun k =>
    if popcount (m.get {} k).cores < (m.get {} k).reserve.toNat then [(k, 0x11, 0)] else [])))

/-- A window's own conditions (R37). DESIGN CHOICE: a window whose VALID bit is 0 is held to none of them
(assumption 103). -/
def SvWindow.formed (w : SvWindow) : Bool :=
  !w.valid || (w.base % 2 ^ 21 == 0 && w.size % 2 ^ 21 == 0 && w.size != 0 &&
    decide (w.base + w.size ≤ 2 ^ 52) && target w.base == target (w.base + w.size - 1) && target w.base != 3)

/-- Two windows overlap. -/
def SvWindow.meets (a b : SvWindow) : Bool :=
  a.valid && b.valid && decide (a.base < b.base + b.size) && decide (b.base < a.base + a.size)

/-- Windows (R37): overlapping windows of different partitions are both SHARED, and at most one of them
is WRITE. -/
def checkWindows (dies : List Nat) (m : TMap Part16) : Verdict :=
  failWith (dies.flatMap (fun d =>
    let ws := (enabledOf m d).flatMap (fun k => (m.get {} k).windows.map (fun w => (k, w.1, w.2)))
    ws.flatMap (fun a =>
      let bad := !a.2.2.formed || ws.any (fun b => a.1 != b.1 && a.2.2.meets b.2.2 &&
        (!(a.2.2.shared && b.2.2.shared) || (a.2.2.wr && b.2.2.wr)))
      if bad then [(a.1, 0x18, a.2.1)] else [])))

/-- The static fields of a partition (R43), with each of its eight windows listed. -/
def Part16.statics (p : Part16) : Part16 :=
  { p with
    windows := (List.range 8).map (fun w => (w, p.windows.get {} w)), reserve := 0, cmp0 := 0, cmp1 := 0, regs := [], groups := [] }

/-- The partitions that a stream affects: a static field changes, or a resource moves, which is a change
of a static field of both partitions (R45 and the text before it). -/
def affectedKeys (dies : List Nat) (old new : TMap Part16) : List Nat :=
  (dies.flatMap keysOf).filter (fun k => (old.get {} k).statics != (new.get {} k).statics)

/-- The units of one kind that change owner on a die: bound before, and unbound or bound to another
partition after (R45). -/
def moved {w : Nat} (old new : TMap Part16) (d : Nat) (f : Part16 → BitVec w) : BitVec w :=
  (keysOf d).foldl (fun acc k => acc ||| (f (old.get {} k) &&& ~~~f (new.get {} k))) 0

/-- The lower of two sums, a sum of zero left out (R45). -/
def lowerRate (a b : Nat) : Nat := if a = 0 then b else if b = 0 then a else min a b

/-- Save volume (R45). DESIGN CHOICE: the apply rate and the volumes of a two-die stream are taken die by die
(assumption 104). -/
def checkVolume (s : State) (dies : List Nat) (old new : TMap Part16) : Verdict :=
  failWith (dies.flatMap (fun d =>
    let aff := (affectedKeys dies old new).filter (fun k => k / 16 == d)
    let rate := lowerRate
      (sumOf (aff.filter (fun k => (old.get {} k).enable)) (fun k => (old.get {} k).rate 0))
      (sumOf (aff.filter (fun k => (new.get {} k).enable)) (fun k => (new.get {} k).rate 0))
    let save := popcount (moved old new d (fun p => p.banks)) * s.die.part.bankMib * 2 ^ 20 +
      popcount (moved old new d (fun p => p.cores)) * 2 ^ 18
    let back := popcount (moved old new d (fun p => p.ways)) * s.die.part.l3Mib * 2 ^ 16
    (if rate * 50000 < save then aff.flatMap (fun k => [(k, 0x11, 0), (k, 0x12, 0), (k, 0x17, 0)]) else []) ++
    (if rate * 15000 < back then aff.flatMap (fun k => [(k, 0x13, 0), (k, 0x17, 0)]) else [])))

/-- The rows of R36 from Exclusive binding on, in order; the first that fails decides. -/
def checkResult (s : State) (m : TMap Part16) : Verdict :=
  let ds := s.dies
  [checkExclusive ds m, checkLive s ds m, checkDisabled s m, checkMinimums ds m, checkDisplay s ds m,
    checkQueues ds m, checkRates s ds m, checkReserve ds m, checkWindows ds m,
    checkVolume s ds s.ptn.parts m].findSome? id

/-- The first record whose field a later record repeats (R35, R36). -/
def repeated : List PRec → Option Nat
  | [] => none
  | r :: rs => if r.scoped && rs.any (fun q => q.scoped && q.field == r.field) then some r.off else repeated rs

/-- The rows of R36 on the form of a stream alone (R33, R34): the offset of the record that fails, 0 where it is the
header. -/
def formFault (bs : List U8) (recs : List PRec) (cut : Option Nat) : Option Nat :=
  let hdr := recs.headD { off := 0, type := 0, body := [] }
  let last := recs.getLastD hdr
  let f := Machine.field hdr.body
  if hdr.type ≠ 1 then some 0 else
  match (recs.find? (fun r => !r.formed || (r.type == 1 && r.off != 0))).map PRec.off with
  | some o => some o
  | none =>
  match cut with
  | some o => some o
  | none =>
  if f 12 4 ≠ recs.length - 2 then some 0 else
  match repeated recs with
  | some o => some o
  | none =>
  match (recs.find? (fun r => !r.reservedZero)).map PRec.off with
  | some o => some o
  | none =>
  if f 0 2 ≠ 3 then some 0
  else if f 8 4 ≠ bs.length then some 0
  else if (crc32c (bs.take (last.off + 4))).toNat ≠ Machine.field last.body 0 4 then some last.off
  else none

/-- The shadow key of a partition and register offset. -/
def shadowKey (k off : Nat) : Nat := 256 * k + off

/-- The offsets of the live registers of a window (R53). -/
def liveOffsets : List Nat :=
  [0x14, 0x20, 0x24, 0x28, 0x2C, 0x30, 0xC0, 0xC4, 0xC8, 0xCC, 0xD0, 0xD4, 0xD8, 0xDC]

/-- The live register whose value a record carries, and 0x34 for the bias key (R34, R43, R53). -/
def PRec.register (r : PRec) : Option Nat :=
  match r.type with
  | 0x11 => some 0x14
  | 0x15 => some 0x20
  | 0x17 => some (0x24 + 4 * Machine.field r.body 2 1)
  | 0x19 => some (0xC0 + 4 * Machine.field r.body 2 1)
  | 0x1A => some 0x34
  | _ => none

/-- The registers of R43's live fields, and the bias keys, that a stream gives a value: those of its records, and every live
field of a complete pattern (R35). -/
def carriedRegs (recs : List PRec) (complete : Bool) : List Nat :=
  (recs.filter PRec.scoped).filterMap (fun r => r.register.map (shadowKey (16 * r.die + r.part))) ++
    (if complete then (List.range 32).flatMap (fun k => liveOffsets.map (shadowKey k)) else [])

/-- The outcome of step 1: the checked result, or PTN_FAIL_OFFSET and whether a DRAM error is the cause. -/
inductive StreamCheck where
  | ok (result : TMap Part16) (seq : U32) (carried : List Nat)
  | bad (off : Nat)
  | unreadable (off pa : Nat)
deriving DecidableEq, Repr

/-- The Form and Sequence rows and then the rows on the result, in the order of R36. -/
def State.checkStream (s : State) : StreamCheck :=
  let src := s.ptn.srcHi.toNat * 2 ^ 32 + s.ptn.srcLo.toNat
  let len := s.ptn.srcLen.toNat
  if src % 256 ≠ 0 || (target src ≠ 0 && target src ≠ 2) || 65536 < len then .bad 0 else
  match (List.range ((len + 127) / 128)).find? (fun i => s.failing (src + 128 * i) (min 128 (len - 128 * i))) with
  | some i =>
    match s.flt.failing.find? (fun l => decide (l * 128 < src + 128 * i + 128) && decide (src + 128 * i < l * 128 + 128)) with
    | some l => .unreadable (l * 128 - src) (max (l * 128) src)
    | none => .unreadable (128 * i) (src + 128 * i)
  | none =>
    let bs := s.peek src len
    let (recs, cut) := parseRecs (len / 4 + 1) 0 bs
    let hdr := recs.headD { off := 0, type := 0, body := [] }
    let f := Machine.field hdr.body
    match formFault bs recs cut with
    | some o => .bad o
    | none =>
    if (f 2 2 / 2 % 2 == 1) ≠ s.die.twoDie then .bad 0
    else
    match (recs.find? (fun r => r.scoped && !(s.dies.contains r.die))).map PRec.off with
    | some o => .bad o
    | none =>
    if f 4 4 ≤ s.ptn.activeSeq.toNat then .bad 0 else
    let start := if f 2 2 % 2 = 1 then s.ptn.parts else emptyPattern s.dies
    let result := recs.foldl applyRec start
    match checkResult s result with
    | none => .ok result (BitVec.ofNat 32 (f 4 4)) (carriedRegs recs (f 2 2 % 2 == 0))
    | some fields =>
      match recs.find? (fun r => r.scoped && fields.contains r.field) with
      | some r => .bad r.off
      | none => .bad 0

end Sys2Proof.Machine
end

