-- ==== Sys2Proof/Machine/Capability.lean ====
section
/-! DEFINITION. The live counts, the rewrite of the capability table and DEGRADED (R239, R241, R312), the
darning map's entries (R431), and the quarantine and return of core slots (R308, R435, R436). -/

namespace Sys2Proof.Machine

open Sys2Proof

/-! ### Counts and floors -/

/-- The live cores that partition `p` holds: bound and not quarantined. -/
def State.liveCores (s : State) (p : Nat) : U64 := (s.part p).cores &&& ~~~s.flt.quar

/-- A CORES log entry (R170). -/
def State.logCores (s : State) (p : Nat) : State :=
  s.log p 0x06 0xFFFF 0 (toBytes 1 (popcount (s.liveCores p)) ++ toBytes 1 (s.part p).reserve.toNat)

/-- The logical core slots of the die that are live. -/
def State.liveSlots (s : State) : List Nat :=
  s.die.part.coreSlots.filter (fun k =>
    !bit s.flt.quar k && ((s.cores.get {} k).st == 0 || (s.cores.get {} k).st == 2))

/-- The floors of R241: cores, Spool banks, L3 ways and display pipes. -/
def Part.floors : Part → Nat × Nat × Nat × Nat
  | .x64 => (60, 7, 14, 4)
  | .x48 => (45, 7, 14, 3)
  | .x32 => (30, 7, 14, 2)

/-- The live counts below their floors, as the four bits of a DEGRADED record; a partner that is missing or lost
counts below every floor (R302, R311, R312, R427). -/
def State.belowFloor (s : State) : BitVec 4 :=
  let f := s.die.part.floors
  if s.die.partnerLost || s.die.partnerMissing then 0xF else
  let m := setBit (0 : BitVec 4) 0 (decide (s.liveSlots.length < f.1))
  let m := setBit m 1 (decide (popcount (s.spl.online &&& ~~~s.spl.retired) < f.2.1))
  let m := setBit m 2 (decide (popcount s.l3c.live < f.2.2.1))
  setBit m 3 (decide (popcount s.livePipes < f.2.2.2))

/-- DEGRADED is raised whenever a count falls below its floor and clears when none is below; either way records go to
every enabled partition (R312). -/
def State.checkFloors (s : State) : State :=
  let b := s.belowFloor
  let up := b &&& ~~~s.die.below != 0
  let s' := { s with die := { s.die with below := b, degraded := b != 0 } }
  if !up && (b != 0 || s.die.below == 0) then s' else
  let s := s'
  let s := s.everyPart
    { status := 0x06, source := 0x0D, context := 0xFFFF, info := BitVec.ofNat 32 (up.toNat + 256 * b.toNat),
      die := s.dieNo == 1 }
  (s.fltEvent 4).raise 71

/-- T5 rewrites the capability table (R239). -/
def State.rewriteCaps (s : State) : State :=
  State.checkFloors { s with die := { s.die with capGen := s.die.capGen + 1 } }

/-! ### The darning map -/

/-- The most entries that a map copy holds (R431, R432). -/
def mapEntries : Nat := 8188

/-- An entry joins the live map, and a write of the map is owed; with the map full in flash the change applies until the
next start only (R432). -/
def State.darnAdd (s : State) (e : DarnEntry) : State :=
  { s with darn :=
    if mapEntries ≤ s.darn.entries.length then { s.darn with entries := s.darn.entries ++ [e], full := true }
    else { s.darn with entries := s.darn.entries ++ [e], pending := true } }

/-- A map write is owed (R432). -/
def State.darnOwed (s : State) : State := { s with darn := { s.darn with pending := true } }

/-- Physical slot `ps` of cluster `c` is recorded as failed. -/
def Darn.slotFailed (d : Darn) (c ps : Nat) : Bool := d.entries.any (fun e => e.type == 1 && e.c == c && e.s == ps)

/-- The physical slots that the logical slots of cluster `c` hold. -/
def State.heldSlots (s : State) (c : Nat) : List Nat :=
  (s.die.part.coreSlots.filter (fun k => k / 8 == c)).map (fun k => (s.cores.get {} k).phys)

/-- The good physical slots of cluster `c` that no logical slot holds, ascending (R430). -/
def State.spareSlots (s : State) (c : Nat) : List Nat :=
  (List.range 9).filter (fun ps => !s.darn.slotFailed c ps && !(s.heldSlots c).contains ps &&
    !s.darn.rejoin.any (fun e => e.1 / 8 == c && e.2.1 == ps))

/-! ### Core slots -/

/-- The state with logical core slot `k` changed. -/
def State.updCore (s : State) (k : Nat) (f : CoreSlot → CoreSlot) : State :=
  { s with cores := s.cores.set k (f (s.cores.get {} k)) }

/-- The partition of this die that binds core `k`. -/
def State.holderOf (s : State) (k : Nat) : Option Nat :=
  (List.range 16).find? (fun p => (s.part p).enable && bit (s.part p).cores k)

/-- A CORE record goes to the queue of the partition that binds core `k`, and of a core that no partition
binds to that of partition 0 (R302, R308, R436). -/
def State.coreRecord (s : State) (k : Nat) (returned : Bool) : State :=
  s.partRecord ((s.holderOf k).getD 0)
    { status := 0, source := 0x11, context := 0xFFFF, addr := BitVec.ofNat 64 k,
      info := BitVec.ofNat 32 returned.toNat, die := s.dieNo == 1 }

/-- The CORES log entry of the partition that binds core `k`. -/
def State.coreLog (s : State) (k : Nat) : State :=
  match s.holderOf k with
  | none => s
  | some p => s.logCores p

/-- A core slot is quarantined: its logical slot stays bound, offline (step 3 of R308). -/
def State.quarantine (s : State) (k : Nat) : State :=
  let s := { s with flt := { s.flt with quar := setBit s.flt.quar k true } }
  let s := s.updCore k (fun x => { x with st := 1, idle := 0 })
  let s := { s with darn := { s.darn with due := s.darn.due.del k } }
  (((s.fltEvent 3).coreRecord k false).coreLog k).rewriteCaps.darnOwed

/-- The rows of an array that the map spares. -/
def rowsSpared (es : List DarnEntry) (kind c inner array : Nat) : Nat :=
  (es.filter (fun e => e.type == 5 && e.u == kind && e.c == c && e.s == inner && e.index == array)).length

/-- A live logical core slot of cluster `c` on a physical slot, as the map has that slot (R430, R431). -/
def CoreSlot.on (es : List DarnEntry) (p : Part) (c ps : Nat) : CoreSlot :=
  { phys := ps
    lanes := (es.filter (fun e => e.type == 3 && e.c == c && e.s == ps)).foldl (fun (m : BitVec 4) e => setBit m e.u true) 0
    ray := p.big && !es.any (fun e => e.type == 6 && e.u == 4 && e.c == c && e.s == ps)
    lmSpares := (List.range 32).foldl (fun (m : TMap Nat) b =>
      let n := rowsSpared es 1 c ps b
      if n = 0 then m else m.set b n) []
    tbSpares := rowsSpared es 2 c ps 0 }

/-- A returned or remapped slot rejoins on its physical slot; another one than it had comes as the map has it (R436). -/
def State.rejoin (s : State) (k : Nat) : State :=
  match s.darn.rejoin.find k with
  | none => s
  | some (ps, _) =>
    let s := { s with
      flt := { s.flt with quar := setBit s.flt.quar k false }
      darn := { s.darn with rejoin := s.darn.rejoin.del k } }
    let s := s.updCore k (fun x =>
      if x.phys = ps then { x with st := 0, idle := 0 } else CoreSlot.on s.darn.entries s.die.part (k / 8) ps)
    (((s.fltEvent 3).coreRecord k true).coreLog k).rewriteCaps.darnOwed

/-- Every slot that waits for a rest or remap point of partition `p`, or that no partition binds, rejoins. -/
def State.rejoinPart (s : State) (p : Nat) : State :=
  (s.darn.rejoin.filter (fun e => s.holderOf e.1 == some p || s.holderOf e.1 == none)).foldl
    (fun s e => s.rejoin e.1) s

/-- The banks that R191 retired leave the capability table at an apply. -/
def State.retireBanks (s : State) : State :=
  if s.spl.toRetire = 0 then s else
  State.rewriteCaps { s with spl := { s.spl with
    retired := s.spl.retired ||| s.spl.toRetire, online := s.spl.online &&& ~~~s.spl.toRetire, toRetire := 0 } }

end Sys2Proof.Machine
end

