-- ==== Sys2Proof/Machine/Codec.lean ====
section
/-! DEFINITION. The block code of the compression engines (R373 to R376, R382), its streams (R378), and
the save units of context saves (R385). -/

namespace Sys2Proof.Machine

open Sys2Proof

/-- A history, newest byte first, of at most 4,096 bytes (R375). -/
abbrev History := List U8

/-- The history with more bytes, given oldest first. -/
def History.push (h : History) (bs : List U8) : History := (bs.reverse ++ h).take 4096

/-- The 64 bytes that lie `d` bytes back, newest first. -/
def History.back (h : History) (d : Nat) : List U8 := (h.drop (d - 64)).take 64

/-- The elements of a segment: little-endian numbers of `n` bytes (R374). -/
def elems (n : Nat) : (fuel : Nat) → List U8 → List Nat
  | 0, _ => []
  | fuel + 1, bs => if bs.isEmpty then [] else ofBytes (bs.take n) :: elems n fuel (bs.drop n)

/-- The zigzag form of a residual modulo 2^w (R374). -/
def zigzag (w r : Nat) : Nat :=
  (r * 2) % 2 ^ w ^^^ (if r / 2 ^ (w - 1) % 2 = 1 then 2 ^ w - 1 else 0)

/-- The residual of a zigzag form. -/
def unzigzag (w z : Nat) : Nat := z / 2 ^^^ (if z % 2 = 1 then 2 ^ w - 1 else 0)

/-- The residuals of elements, with or without delta prediction. -/
def residuals (w : Nat) (delta : Bool) : (prev : Nat) → List Nat → List Nat
  | _, [] => []
  | prev, x :: xs => (x + 2 ^ w - (if delta then prev else 0)) % 2 ^ w :: residuals w delta x xs

/-- The bit length of a number. -/
def bitLength (n : Nat) : Nat := if n = 0 then 0 else Nat.log2 n + 1

/-- Eight bits of one plane as a byte: bit k of z_i at bit i mod 8. -/
def planeByte (k : Nat) : (i : Nat) → List Nat → Nat
  | _, [] => 0
  | i, z :: zs => (z / 2 ^ k % 2) * 2 ^ i + planeByte k (i + 1) zs

/-- The bytes of plane `k`. -/
def planeBytes (k : Nat) : (fuel : Nat) → List Nat → List U8
  | 0, _ => []
  | fuel + 1, zs =>
    if zs.isEmpty then [] else BitVec.ofNat 8 (planeByte k 0 (zs.take 8)) :: planeBytes k fuel (zs.drop 8)

/-- A PLANE body with `n`-byte elements. -/
def planeBody (n : Nat) (delta : Bool) (seg : List U8) : List U8 :=
  let w := 8 * n
  let zs := (residuals w delta 0 (elems n 64 seg)).map (zigzag w)
  let b := bitLength (zs.foldl max 0)
  BitVec.ofNat 8 b :: (List.range b).flatMap (fun k => planeBytes k 8 zs)

/-- The (w, PRED) choices in the order that breaks ties: header byte, element bytes, delta (R376). -/
def planeChoices : List (U8 × Nat × Bool) :=
  [(0x02, 1, false), (0x12, 1, true), (0x06, 2, false), (0x16, 2, true), (0x0A, 4, false), (0x1A, 4, true)]

/-- The shortest of candidate encodings, the earlier one on a tie. -/
def shortest : List (U8 × List U8) → U8 × List U8 → U8 × List U8
  | [], best => best
  | c :: cs, best => shortest cs (if c.2.length < best.2.length then c else best)

/-- The encoder's choice for one segment: header byte and body (R376). -/
def encodeSeg (h : History) (seg : List U8) : U8 × List U8 :=
  if seg.all (· == 0) then (0, []) else
  match (List.range (min 4096 h.length - 63)).find? (fun i => h.back (64 + i) == seg.reverse) with
  | some i => (0x01, toBytes 2 (64 + i))
  | none =>
    let c := planeChoices.map (fun p => (p.1, planeBody p.2.1 p.2.2 seg))
    shortest (c.drop 1) (c.headD (0x02, []))

/-- Segments encoded in order, with the history growing by each. -/
def encodeSegs : (fuel : Nat) → History → List U8 → List (U8 × List U8)
  | 0, _, _ => []
  | fuel + 1, h, bs => encodeSeg h (bs.take 64) :: encodeSegs fuel (h.push (bs.take 64)) (bs.drop 64)

/-- The slot of a block that fits, or none (R376). -/
def encodeBlock (slot : Nat) (h : History) (blk : List U8) : Option (List U8) :=
  let segs := encodeSegs 4 h blk
  let bytes := segs.map Prod.fst ++ segs.flatMap Prod.snd
  if bytes.length ≤ slot then some (bytes ++ List.replicate (slot - bytes.length) 0) else none

/-- The slot of a NOFIT block (R379). -/
def nofitSlot (slot : Nat) : List U8 := List.replicate 4 0xFF ++ List.replicate (slot - 4) 0

/-- A header byte that R373 allows. -/
def headerOk (b : U8) : Bool :=
  match b.toNat % 4 with
  | 0 => b == 0
  | 1 => b == 1
  | 2 => decide (b.toNat / 4 % 4 ≠ 3) && decide (b.toNat / 32 = 0)
  | _ => false

/-- The elements of a PLANE segment from its planes (R374). -/
def unplane (w n : Nat) (delta : Bool) (planes : List U8) : List Nat :=
  let z := fun i b => (List.range b).foldl (fun acc k =>
    acc + ((planes.getD (k * (n / 8) + i / 8) 0).toNat / 2 ^ (i % 8) % 2) * 2 ^ k) 0
  ((List.range n).foldl (fun (st : Nat × List Nat) i =>
    let r := unzigzag w (z i (planes.length / (n / 8)))
    let x := (r + if delta then st.1 else 0) % 2 ^ w
    (x, x :: st.2)) (0, [])).2.reverse

/-- What decoding a block slot gives. -/
inductive BlockDec where
  | bytes (bs : List U8)
  | nofit
  /-- a fault: its status and the offset of the faulting field within the slot (R382) -/
  | fault (status : U8) (off : Nat)
deriving DecidableEq, Repr

/-- Segments decoded in order from their headers, from position `pos` of the slot (R382). -/
def decodeSegs (slot : List U8) : (hdrs : List U8) → History → (pos : Nat) → List U8 → BlockDec
  | [], _, _, out => .bytes out
  | b :: hdrs, h, pos, out =>
    match b.toNat % 4 with
    | 0 =>
      let seg := List.replicate 64 (0 : U8)
      decodeSegs slot hdrs (h.push seg) pos (out ++ seg)
    | 1 =>
      let d := field slot pos 2
      if slot.length < pos + 2 then .fault 0x13 slot.length
      else if d < 64 || 4096 < d then .fault 0x11 pos
      else if h.length < d then .fault 0x12 pos
      else
        let seg := (h.back d).reverse
        decodeSegs slot hdrs (h.push seg) (pos + 2) (out ++ seg)
    | _ =>
      let n := 2 ^ (b.toNat / 4 % 4)
      let w := 8 * n
      let count := 512 / w
      let pb := field slot pos 1
      if slot.length < pos + 1 then .fault 0x13 slot.length
      else if w < pb then .fault 0x11 pos
      else if slot.length < pos + 1 + pb * (count / 8) then .fault 0x13 slot.length
      else
        let planes := (slot.drop (pos + 1)).take (pb * (count / 8))
        let seg := (unplane w count (decide (b.toNat / 16 % 2 = 1)) planes).flatMap (toBytes n)
        decodeSegs slot hdrs (h.push seg) (pos + 1 + pb * (count / 8)) (out ++ seg)

/-- One block slot decoded (R382). -/
def decodeBlock (h : History) (slot : List U8) : BlockDec :=
  let hdrs := slot.take 4
  if hdrs.all (· == 0xFF) then .nofit else
  match (List.range 4).find? (fun i => !headerOk (hdrs.getD i 0)) with
  | some i => .fault 0x11 i
  | none => decodeSegs slot hdrs h 4 []

/-- A stream between two blocks (R378): its history, counts, and running CRC register. -/
structure StreamState where
  hist : History := []
  blocks : Nat := 0
  nofit : Nat := 0
  crc : U32 := 0xFFFFFFFF
deriving DecidableEq, Repr

/-- The bytes of a stream state (R378). -/
def StreamState.bytes (s : StreamState) (ratio dir : Nat) : List U8 :=
  toBytes 4 s.hist.length ++ toBytes 4 s.blocks ++ toBytes 4 s.nofit ++ toBytes 4 s.crc.toNat ++
    toBytes 1 ratio ++ toBytes 1 dir ++ List.replicate 46 0 ++
    List.replicate (4096 - s.hist.length) 0 ++ s.hist.reverse

/-- The stream state that 4,160 bytes hold, where they are well formed for the ratio and direction. -/
def StreamState.parse (bs : List U8) (ratio dir : Nat) : Option StreamState :=
  if field bs 16 1 = ratio && field bs 17 1 = dir && ((bs.drop 18).take 46).all (· == 0) &&
      field bs 0 4 ≤ 4096 then
    some { hist := ((bs.drop 64).take 4096).reverse.take (field bs 0 4), blocks := field bs 4 4,
           nofit := field bs 8 4, crc := BitVec.ofNat 32 (field bs 12 4) }
  else none

/-- The stream after a block whose original bytes are known to have fitted. -/
def StreamState.fitted (s : StreamState) (blk : List U8) : StreamState :=
  { s with
    hist := s.hist.push blk, blocks := s.blocks + 1, crc := blk.foldl crc32cByte s.crc }

/-- The stream after a NOFIT block. -/
def StreamState.missed (s : StreamState) : StreamState :=
  { s with
    blocks := s.blocks + 1, nofit := s.nofit + 1 }

/-- One block of a COMPRESS stream: its slot and the stream after it (R376, R379). -/
def StreamState.encode (s : StreamState) (slot : Nat) (blk : List U8) : List U8 × StreamState :=
  match encodeBlock slot s.hist blk with
  | some b => (b, s.fitted blk)
  | none => (nofitSlot slot, s.missed)

/-- Blocks of 256 bytes. -/
def blocksOf (n : Nat) : (fuel : Nat) → List U8 → List (List U8)
  | 0, _ => []
  | fuel + 1, bs => if bs.isEmpty then [] else bs.take n :: blocksOf n fuel (bs.drop n)

/-- The trailer of a stream (R380). -/
def StreamState.trailer (s : StreamState) (ratio : Nat) : List U8 :=
  toBytes 4 s.blocks ++ toBytes 4 s.nofit ++ toBytes 4 (~~~s.crc).toNat ++ toBytes 1 ratio ++ [1, 0, 0]

/-- The bits of a fit map as bytes. -/
def mapBytes : (fuel : Nat) → List Bool → List U8
  | 0, _ => []
  | fuel + 1, bs =>
    if bs.isEmpty then [] else
    BitVec.ofNat 8 (planeByte 0 0 ((bs.take 8).map Bool.toNat)) :: mapBytes fuel (bs.drop 8)

/-- A save unit coded at 2:1 (R385): whether it is packed, and its bytes. -/
def packUnit (unit : List U8) : Bool × List U8 :=
  let r := (blocksOf 256 (unit.length / 256 + 1) unit).foldl
    (fun (st : StreamState × List Bool × List (List U8)) b =>
      match encodeBlock 128 st.1.hist b with
      | some c => (st.1.fitted b, st.2.1 ++ [true], st.2.2 ++ [c])
      | none => (st.1.missed, st.2.1 ++ [false], st.2.2 ++ [b]))
    ({}, [], [])
  if r.2.1.all (· == false) then (false, unit)
  else
    let m := mapBytes (r.2.1.length / 8 + 1) r.2.1
    (true, m ++ List.replicate ((64 - m.length % 64) % 64) 0 ++ r.2.2.flatten)

/-- The bytes that a packed save unit of `size` bytes takes, told by its fit map (R385). -/
def packedBytes (size : Nat) (bs : List U8) : Nat :=
  let n := size / 256
  let f := ((List.range n).filter (fun i => (bs.getD (i / 8) 0).toNat / 2 ^ (i % 8) % 2 == 1)).length
  ((n + 7) / 8 + 63) / 64 * 64 + 128 * f + 256 * (n - f)

/-- The original bytes of a packed save unit of `size` bytes, or none where a block is faulty (R385). -/
def unpackUnit (size : Nat) (bs : List U8) : Option (List U8) :=
  let n := size / 256
  let mapLen := ((n + 7) / 8 + 63) / 64 * 64
  ((List.range n).foldl
    (fun (st : Option (StreamState × List U8 × List U8)) i =>
      match st with
      | none => none
      | some (s, rest, out) =>
        if (bs.getD (i / 8) 0).toNat / 2 ^ (i % 8) % 2 = 1 then
          match decodeBlock s.hist (rest.take 128) with
          | .bytes b => some (s.fitted b, rest.drop 128, out ++ b)
          | _ => none
        else some (s.missed, rest.drop 256, out ++ rest.take 256))
    (some ({}, bs.drop mapLen, []))).map (fun r => r.2.2)

end Sys2Proof.Machine
end

