-- ==== Sys2Proof/Machine/Loss.lean ====
section
/-! DEFINITION. The loss of a context: its record, its teardown, and the failing of its events (R296 to
R305). -/

namespace Sys2Proof.Machine

open Sys2Proof

/-- The access code of a fault record (R302). -/
def accessCode : Access → Nat
  | .read => 0 | .write => 1 | .atomic => 2 | .fetch => 3

/-- ADDR of a TRAP record (R302): thread, group and linear block index. -/
def trapAddr (thread group block : Nat) : U64 :=
  BitVec.ofNat 64 (thread % 64 + group % 16 * 64 + block % 2 ^ 32 * 1024)

/-- The fault record of a losing error of context `c` (R296, R301, R302). -/
def lossRecord (s : State) (c : Nat) (stitch : U64) (e : LosingError) : FaultRec :=
  let base : FaultRec :=
    { status := 0x02, source := 0, context := BitVec.ofNat 16 c, stitch := stitch, lost := true,
      loss := 0x02, die := s.dieNo == 1 }
  match e with
  | .divergence m t g b off =>
    { base with
      status := if m then 0x31 else 0x30, source := 0x04, addr := trapAddr t g b, info := off.zeroExtend 32 }
  | .trap kind t g b off =>
    { base with
      source := 0x04, addr := trapAddr t g b, info := off.zeroExtend 32 ||| (kind.zeroExtend 32 <<< 24) }
  | .translation check acc level va span =>
    { base with
      source := 0x02, addr := va,
      info := BitVec.ofNat 32 (accessCode acc + level.toNat * 16 + span.toNat * 256 + check.toNat * 2 ^ 24) }
  | .selvedge acc requester pa =>
    { base with
      status := 0x33, loss := 0x33, source := 0x03, addr := pa, phys := true,
      info := BitVec.ofNat 32 (accessCode acc + requester.toNat * 16) }
  | .residue core engine bolt =>
    { base with
      status := 0x32, source := 0x05,
      addr := BitVec.ofNat 64 (core % 64 + engine % 2 * 64 + bolt.toNat * 128),
      info := BitVec.ofNat 32 (popcount ((s.part (s.ctx c).partition).cores &&& ~~~s.flt.quar)) }
  | .staleAnchor td n => { base with source := 0x06, addr := td, info := n }
  | .timeout us => { base with status := 0x03, loss := 0x03, source := 0x07, info := us }
  | .sram kind place off =>
    { base with source := 0x08, addr := off, info := BitVec.ofNat 32 (kind.toNat + place.toNat * 16) }
  | .cache level way unit line =>
    { base with
      source := 0x09, addr := line, phys := true,
      info := BitVec.ofNat 32 (level.toNat + way.toNat * 16 + unit.toNat * 256) }
  | .dram channel pa =>
    { base with source := 0x0A, addr := pa, phys := true, info := channel.zeroExtend 32 }

/-- The losing error of a physical access by the Shuttle, requester 2, that fails (R252, R302, R310). -/
def PhysFail.error (e : PhysFail) (acc : Access) : LosingError :=
  match e with
  | .selvedge a => .selvedge acc 2 (BitVec.ofNat 64 a)
  | .dram a => .dram (BitVec.ofNat 4 (dramChannel a)) (BitVec.ofNat 64 a)

/-- The event at a physical address is failed on behalf of context `c`; an event whose ERROR the loss or destroy of the
context sets is counted (R254, R262). The second answer is the error that the access meets. -/
def State.failEvent (s : State) (c a : Nat) (status : U8) : State × Option LosingError :=
  let a := a / 16 * 16
  let x := s.ctx c
  match s.physFail c a 16 false, s.physFail c a 16 true with
  | some e, _ => (s, some (e.error .read))
  | none, some e => (s, some (e.error .write))
  | none, none =>
    let e := s.event a
    if e.error ≠ 0 then (s, none)
    else
      let s := s.putEvent a x.partition (e.fail status.toNat c) true
      (if x.state = .lost || x.state = .destroying then
        s.updCtx c (fun x => { x with failedEvents := satAdd32 x.failedEvents 1 }) else s, none)

/-- The events of a queue's unfinished EVENT_RECORD slots are failed (R294 step 3, R298 step 3), with the errors that the
reads of slots and the events meet, in their order. -/
def State.failQueue (s : State) (q : Nat) (status : U8) : State × List LosingError :=
  let x := s.queue q
  x.unfinished.foldl (fun (st : State × List LosingError) i =>
    let s := st.1
    let a := x.slotAddr i
    match s.physFail x.ctx a 64 false with
    | some e => (s, st.2 ++ [e.error .read])
    | none =>
      if s.mem.byte a ≠ 0x10 then st else
      let r := s.failEvent x.ctx (s.mem.num (a + 16) 8 % 2 ^ 52) status
      (r.1, st.2 ++ r.2.toList)) (s, [])

/-- The same for several queues. -/
def State.failQueues (s : State) (qs : List Nat) (status : U8) : State × List LosingError :=
  qs.foldl (fun st q =>
    let r := st.1.failQueue q status
    (r.1, st.2 ++ r.2)) (s, [])

/-- The queues of a context that are not FREE. -/
def State.queuesOf (s : State) (c : Nat) : List Nat :=
  (s.queues.filter (fun e => e.2.ctx == c && e.2.state != .free)).map Prod.fst

/-- Every command of a context leaves its engines and is not re-run; nothing waits for RESUME. -/
def State.killAll (s : State) (c : Nat) : State :=
  (s.jobs.filter (fun e => e.2.ctx == c)).foldl (fun s e => s.abandon e.1) s

/-- `n` further errors of a context are counted in FLT_CTX_MERGED (R305). -/
def State.merge (s : State) (c n : Nat) : State :=
  if n = 0 then s else s.updCtx c (fun x => { x with fltMerged := satAdd32 x.fltMerged n })

/-- The record of a context's loss is written; an error that its write meets is a further error (R303, R305). -/
def State.lossWritten (s : State) (c : Nat) (r : FaultRec) : State :=
  let t := s.ctxRecord c r
  ((if t.2.isSome then t.1.merge c 1 else t.1)).fltEvent 1

/-- A context becomes LOST and is torn down, its record written last (R297, R298, R305). A further error
of a LOST context is counted in FLT_CTX_MERGED, and so is one that the teardown itself meets, which the record marks; a
PAGE_FAULT record not yet written merges into the loss's. The first loss during a destroy records its cause, and the
destroy goes on. A record whose place fails the checks is dropped and counted (R303). -/
def State.loseCore (s : State) (c : Nat) (r : FaultRec) : State :=
  let x := s.ctx c
  let cause := fun (x : Ctx) => { x with
    loss := r.loss, causeStatus := r.status, causeSource := r.source, causeLoss := r.loss }
  match x.state with
  | .closed => s
  | .lost => s.merge c 1
  | .destroying => if x.causeStatus ≠ 0 then s.merge c 1 else (s.updCtx c cause).lossWritten c r
  | _ =>
    let s := s.updCtx c (fun x => { cause x with state := .lost, held := none, outstanding := false })
    let qs := s.queuesOf c
    let s := qs.foldl (fun s q => s.updQueue q (fun y =>
      if y.state = .destroying then y else { y with state := .stopped, owed := 0, waiting := false })) s
    let s := s.killAll c
    let f := s.failQueues qs r.loss
    let n := f.2.length + if x.held.isSome then 1 else 0
    let s := (f.1.merge c n).flushDeltas (fun d => d.ctx == c)
    let s := if r.source = 0x02 then s.mmuEvent 1 else if r.source = 0x03 then s.mmuEvent 2 else s
    s.lossWritten c { r with merged := r.merged || n ≠ 0 }

/-- A context is lost for a physical access on its behalf that fails. -/
def State.losePhys (s : State) (c : Nat) (e : PhysFail) (acc : Access) : State :=
  s.loseCore c (lossRecord s c 0 (e.error acc))

/-- A record for a context that goes on; the context is lost where the write fails its checks (R303). -/
def State.ctxReport (s : State) (c : Nat) (r : FaultRec) : State :=
  let t := s.ctxRecord c r
  match t.2 with
  | none => t.1
  | some e => t.1.losePhys c e .write

end Sys2Proof.Machine
end

