-- ==== Sys2Proof/Machine/Open.lean ====
section
/-! DEFINITION. Opening a context: the request, its checks and the negotiation of levels (R7, R8, R42,
R242 to R245, R426). -/

namespace Sys2Proof.Machine

open Sys2Proof

/-- The fields of an open request (R242), read from its 128 bytes. -/
structure OpenReq where
  csMin : Nat
  csMax : Nat
  ptnMin : Nat
  ptnMax : Nat
  abiMin : Nat
  abiMax : Nat
  mode : Nat
  partition : Nat
  root0 : Nat
  root1 : Nat
  privBase : Nat
  privPerGroup : Nat
  priority : Nat
  fqBase : Nat
  fqOrder : Nat
  save0 : Nat
  save1 : Nat
  saveSize : Nat
  resp : Nat
  reserved : Bool
deriving DecidableEq, Repr

/-- The request in 128 bytes. -/
def OpenReq.parse (b : List U8) : OpenReq :=
  { csMin := field b 0 1, csMax := field b 1 1, ptnMin := field b 2 1, ptnMax := field b 3 1,
    abiMin := field b 4 1, abiMax := field b 5 1, mode := field b 6 1, partition := field b 7 1,
    root0 := field b 8 8, root1 := field b 16 8, privBase := field b 24 8, privPerGroup := field b 32 4,
    priority := field b 36 2, fqBase := field b 40 8, fqOrder := field b 48 1, save0 := field b 56 8,
    save1 := field b 64 8, saveSize := field b 72 4, resp := field b 80 8,
    reserved := field b 38 2 == 0 && field b 49 7 == 0 && field b 76 4 == 0 && field b 88 40 == 0 }

/-- A physical address of 52 bits in target 0 of the die, or where `host` allows it in target 2. -/
def placed (a align : Nat) (host : Bool) : Bool :=
  decide (a < 2 ^ 52) && a % align == 0 && (target a == 0 || (host && target a == 2))

/-- The DRAM of die `d` of the package (R217, R239). -/
def State.dieBytes (s : State) (d : Nat) : Nat := if d = s.dieNo then s.capacity else s.die.siblingBytes

/-- The root table and the save area of die `d` that the request names. -/
def OpenReq.root (r : OpenReq) (d : Nat) : Nat := if d = 0 then r.root0 else r.root1
def OpenReq.save (r : OpenReq) (d : Nat) : Nat := if d = 0 then r.save0 else r.save1

/-- Every field of R242 is in range, aligned and in its target, and reserved bytes are zero (REASON 4). -/
def OpenReq.fieldsOk (r : OpenReq) (s : State) : Bool :=
  let twoDie := s.die.twoDie
  r.reserved && s.dies.all (fun d => decide (r.root d + 8192 ≤ s.dieBytes d) &&
      decide (r.save d + r.saveSize * 0x10000 ≤ s.dieBytes d)) &&
    s.inDram r.fqBase (32 * 2 ^ r.fqOrder) && s.inDram r.resp 64 && (r.mode == 1 || r.mode == 2) && decide (r.partition < 16) &&
    placed r.root0 8192 false && (!twoDie || placed r.root1 8192 false) &&
    r.privBase % 0x10000 == 0 && decide (r.privBase < 2 ^ 49) &&
    r.privPerGroup % 256 == 0 && decide (r.privPerGroup ≤ 65536) &&
    placed r.fqBase 4096 true && decide (6 ≤ r.fqOrder) && decide (r.fqOrder ≤ 12) &&
    placed r.save0 0x10000 false && (!twoDie || placed r.save1 0x10000 false) && placed r.resp 64 true

/-- ROOT1 and SAVE1 match the die count (REASON 6). -/
def OpenReq.diesOk (r : OpenReq) (twoDie : Bool) : Bool :=
  if twoDie then r.root1 != 0 && r.save1 != 0 else r.root1 == 0 && r.save1 == 0

/-- The partition is enabled and reachable from the function, 0 for the physical function, and no maker mode is active
(R42, R463; REASON 2). -/
def State.partReachable (s : State) (fn p : Nat) : Bool :=
  s.die.makerMode == 0 && (s.part p).enable && (fn == 0 || (fn == p && (s.part p).vf))

/-- The save areas and the private region are large enough (R243; REASON 5). -/
def OpenReq.sizesOk (r : OpenReq) (s : State) : Bool :=
  decide (8 * s.die.part.bankMib * 2 ^ 20 + 2 ^ 24 ≤ r.saveSize * 0x10000) &&
    decide (r.privBase + r.privPerGroup * 4096 * s.dies.length ≤ 2 ^ 49)

/-- The request and every address it names lie in the partition's windows (R252; REASON 7). -/
def OpenReq.windowsOk (r : OpenReq) (s : State) (req : Nat) : Bool :=
  s.windowOk r.partition req 128 false && s.windowOk r.partition r.resp 64 true &&
    s.windowOk r.partition r.fqBase (32 * 2 ^ r.fqOrder) true &&
    s.dies.all (fun d =>
      let p := s.ptn.parts.get {} (16 * d + r.partition)
      p.covers false 9 (r.root d) 8192 &&
        p.covers false 9 (r.save d) (r.saveSize * 0x10000) && p.covers true 9 (r.save d) (r.saveSize * 0x10000))

/-- The contexts of a partition that hold a place of its quota (R246). -/
def State.held (s : State) (p : Nat) : Nat :=
  (s.ctxs.filter (fun e => e.2.partition == p && e.2.state != .closed)).length

/-- The highest level that lies both in the offered range and in the accepted one (R7). -/
def negotiate (min1 max1 lo hi : Nat) : Option Nat :=
  if max lo min1 ≤ min hi max1 then some (min hi max1) else none

/-- The negotiated levels: command stream, pattern stream and firmware ABI. From stage Fitting to Finished
only the lowest accepted levels are offered (R8, R426). -/
def OpenReq.levels (r : OpenReq) (stage : Stage) : Option (Nat × Nat × Nat) :=
  let top := if stage = .finished then 4 else 2
  match negotiate r.csMin r.csMax 2 top, negotiate r.ptnMin r.ptnMax 3 3, negotiate r.abiMin r.abiMax 5 5 with
  | some a, some b, some c => some (a, b, c)
  | _, _, _ => none

/-- The lowest free context index. -/
def State.freeCtx (s : State) : Option Nat :=
  (List.range 256).find? (fun c => (s.ctx c).state == .closed)

/-- REASON of a request that names partition windows, in the order of R245; 0 where every check up to the
quota passes. -/
def OpenReq.reason (r : OpenReq) (s : State) (fn req : Nat) : Nat :=
  if !r.fieldsOk s then 4
  else if !r.diesOk s.die.twoDie then 6
  else if !s.partReachable fn r.partition then 2
  else if !r.sizesOk s then 5
  else if !r.windowsOk s req then 7
  else if (s.part r.partition).quota.toNat ≤ s.held r.partition || s.freeCtx.isNone then 3
  else if (r.levels s.die.stage).isNone then 1
  else 0

/-- A response can be written: RESP is aligned, in its targets and in the windows (R245). -/
def OpenReq.respOk (r : OpenReq) (s : State) : Bool :=
  placed r.resp 64 true && s.inDram r.resp 64 && decide (r.partition < 16) && s.windowOk r.partition r.resp 64 true

/-- The bytes of an open response (R245). -/
def State.openResp (s : State) (status reason ctx : Nat) (lv : Nat × Nat × Nat) : List U8 :=
  toBytes 1 status ++ toBytes 1 reason ++ toBytes 1 ctx ++ [0] ++ toBytes 1 lv.1 ++ toBytes 1 lv.2.1 ++
    toBytes 1 lv.2.2 ++ [0] ++ toBytes 4 s.det.profile.toNat ++ toBytes 4 s.die.capGen.toNat ++
    List.replicate 48 0

/-- FE_CTX_RESULT and CTX_DONE at the end of a context command (R261). -/
def State.ctxDone (s : State) (status reason ctx : Nat) : State :=
  { s with fe := { s.fe with
      ctxBusy := false, openWaits := none, ctxStatus := BitVec.ofNat 8 status,
      ctxReason := BitVec.ofNat 8 reason, ctxContext := BitVec.ofNat 8 ctx } }
    |>.feEvent 0

/-- A failed open: its result, and its response where one can be written. A response into a failing line meets its error,
for no context yet (R310). -/
def State.openFail (s : State) (r : OpenReq) (status reason : Nat) : State :=
  let s := if !r.respOk s then s
    else if s.failingPart r.resp 64 then s.dramRecord (s.failedAt r.resp 64 true) false
    else s.poke r.resp (s.openResp status reason 0xFF (0, 0, 0))
  s.ctxDone status reason 0xFF

/-- The context that an accepted request opens. -/
def OpenReq.ctx (r : OpenReq) (lv : Nat × Nat × Nat) : Ctx :=
  { state := .running, strict := r.mode == 1, partition := r.partition, csLevel := BitVec.ofNat 8 lv.1,
    ptnLevel := BitVec.ofNat 8 lv.2.1, abiLevel := BitVec.ofNat 8 lv.2.2, root0 := BitVec.ofNat 64 r.root0,
    root1 := BitVec.ofNat 64 r.root1, privBase := BitVec.ofNat 64 r.privBase,
    privPerGroup := BitVec.ofNat 32 r.privPerGroup, priority := BitVec.ofNat 16 r.priority,
    fqBase := r.fqBase, fqOrder := r.fqOrder, save0 := r.save0, save1 := r.save1,
    saveSize := BitVec.ofNat 32 r.saveSize }

/-- An accepted open (R244 steps 3 to 5); the levels are in use from then on (R240). A response into a failing line loses
the context that has opened (R310). -/
def State.openAccept (s : State) (r : OpenReq) (c : Nat) (lv : Nat × Nat × Nat) : State :=
  let fe := { s.fe with
    csInUse := BitVec.ofNat 8 lv.1, ptnInUse := BitVec.ofNat 8 lv.2.1, abiInUse := BitVec.ofNat 8 lv.2.2 }
  let s := { s with fe := fe, ctxs := s.ctxs.set c (r.ctx lv) }
  let s := s.log r.partition 0x01 c 0
    (toBytes 1 r.mode ++ toBytes 1 lv.1 ++ [0, 0] ++ toBytes 4 s.det.profile.toNat)
  if s.failingPart r.resp 64 then (s.ctxDone 0 0 c).losePhys c (.dram (s.failedAt r.resp 64 true)) .write
  else (s.poke r.resp (s.openResp 0 0 c lv)).ctxDone 0 0 c

/-- The open sequence of R244 from the function `fn`. -/
def State.openNow (s : State) (fn : Nat) : State :=
  let req := s.fe.ctxReq
  let (status, reason) := if s.fe.halted then (0x3F, 0) else (0x21, 4)
  if !((target req == 0 && decide (req + 128 ≤ s.capacity)) || target req == 2) then s.ctxDone status reason 0xFF
  else if s.failing req 128 then (s.dramRecord req false).ctxDone status reason 0xFF
  else
    let r := OpenReq.parse (s.peek req 128)
    if s.fe.halted then s.openFail r 0x3F 0 else
    match r.reason s fn req with
    | 0 =>
      match s.freeCtx, r.levels s.die.stage with
      | some c, some lv => s.openAccept r c lv
      | _, _ => s
    | 1 => s.openFail r 0x23 1
    | n => s.openFail r 0x21 n

/-- The partition that the request at FE_CTX_REQ names. -/
def State.openPart (s : State) : Nat := (s.mem.byte (s.fe.ctxReq + 7)).toNat

end Sys2Proof.Machine
end

