-- ==== Sys2Proof/Machine/Save.lean ====
section
/-! DEFINITION. Context saves and restores of Spool granules and parked local memory, and the hardware
clear of memories and cache lines that change owner (R45, R186 to R188, R208, R283, R287, R385). -/

namespace Sys2Proof.Machine

open Sys2Proof

/-- The physical address of granule `g` of bank `b` of this die (R178). -/
def granAddr (b g : Nat) : Nat := targetBase 3 + b * 2 ^ 24 + g * 0x10000

/-- The granules of a bank (R176). -/
def State.granCount (s : State) : Nat := s.die.part.bankMib * 16

/-- The banks of this die that partition `p` binds, ascending. -/
def State.boundBanks (s : State) (p : Nat) : List Nat := bitsOf (s.part p).banks

/-- The position of a bank's granule in its partition's SPACE 3 range on this die, in granules (R177). -/
def State.spaceIndex (s : State) (p b g : Nat) : Option Nat :=
  ((s.boundBanks p).findIdx? (· == b)).map (fun i => i * s.granCount + g)

/-- The bank and granule at a SPACE 3 position of the partition's banks on this die. -/
def State.spacePlace (s : State) (p i : Nat) : Option (Nat × Nat) :=
  ((s.boundBanks p)[i / s.granCount]?).map (fun b => (b, i % s.granCount))

/-- A context's save area on this die. -/
def State.saveBase (s : State) (c : Nat) : Nat := if s.dieNo = 0 then (s.ctx c).save0 else (s.ctx c).save1

/-- The partition has a compression share on this die (R46, R385). -/
def State.hasShare (s : State) (p : Nat) : Bool :=
  (s.part p).cmp0 != 0 && !bit s.die.enginesOut 0 && s.die.part.engines != 0 ||
    (s.part p).cmp1 != 0 && !bit s.die.enginesOut 1 && s.die.part.engines != 0

/-- A save unit as it is written: coded at 2:1 where the partition has a share (R385). -/
def State.unitBytes (s : State) (p : Nat) (bs : List U8) : Bool × List U8 :=
  if s.hasShare p then packUnit bs else (false, bs)

/-- Bytes go to a save area, as traffic of the context's partition (R45); a place that fails the checks loses the context
(R252, R310). -/
def State.putUnit (s : State) (c a size : Nat) (bs : List U8) (k : State → State) : State :=
  match s.physFail c a size true with
  | some e => s.losePhys c e .write
  | none => k ((s.poke a bs).spend (s.ctx c).partition 0 bs.length)

/-- Granule `g` of bank `b` is saved if it is DIRTY and becomes clean (R287). -/
def State.saveGranule (s : State) (p b g : Nat) : State :=
  let k := 256 * b + g
  let x := s.spl.grans.get {} k
  if x.st ≠ .alloc || !x.dirty then s else
  match s.spaceIndex p b g with
  | none => s
  | some i =>
    let u := s.unitBytes p (s.peek (granAddr b g) 0x10000)
    s.putUnit x.ctx (s.saveBase x.ctx + i * 0x10000) 0x10000 u.2 (fun s =>
      let s := s.updCtx x.ctx (fun y => { y with saved := y.saved.set i u.1 })
      { s with spl := { s.spl with grans := s.spl.grans.set k { x with dirty := false } } })

/-- A saved unit is read, as traffic of the context's partition (R45), and its original bytes go to the continuation. A
read that fails its checks loses the context (R252, R310), and so does a packed unit that is faulty (R385), with the given
error. -/
def State.unitAt (s : State) (c a size : Nat) (packed : Bool) (e : LosingError) (k : State → List U8 → State) : State :=
  let n := if packed then packedBytes size (s.peek a size) else size
  match s.physFail c a n false with
  | some f => s.losePhys c f .read
  | none =>
    let s := s.spend (s.ctx c).partition 0 n
    match if packed then unpackUnit size (s.peek a size) else some (s.peek a size) with
    | none => s.loseCore c (lossRecord s c 0 e)
    | some bs => k s bs

/-- A context's saved SPACE 3 granule `i` is restored into granule `g` of bank `b`, which becomes its
ALLOC granule (R46 step 6, R288 step 4); a faulty unit loses the context with CTX_LOST. -/
def State.restoreGranule (s : State) (c i b g : Nat) : State :=
  match (s.ctx c).saved.find i with
  | none => s
  | some packed =>
    s.unitAt c (s.saveBase c + i * 0x10000) 0x10000 packed
      (.sram 0 (BitVec.ofNat 8 b) (BitVec.ofNat 64 (g * 0x10000))) (fun s bs =>
      let s := s.poke (granAddr b g) bs
      let x : Granule := { st := .alloc, ctx := c, dirty := false }
      { s with spl := { s.spl with grans := s.spl.grans.set (256 * b + g) x } })

/-- Where local memory at `base` of core `k` lies in a context's save area on this die (R243, R283). -/
def State.blockSave (s : State) (c k base : Nat) : Nat :=
  s.saveBase c + 8 * s.die.part.bankMib * 2 ^ 20 + k % 64 * 0x40000 + base

/-- A parked block's local memory goes to its context's save area (R283). -/
def State.saveBlock (s : State) (b : Nat) : State :=
  match s.blocks.find b with
  | none => s
  | some x =>
    if !x.parked || x.saved.isSome then s else
    let c := (s.jobs.find x.job).elim 0 Job.ctx
    let p := (s.ctx c).partition
    let u := s.unitBytes p (x.mem.bytes 0 x.bytes)
    s.putUnit c (s.blockSave c x.core x.base) x.bytes u.2 (fun s =>
      { s with blocks := s.blocks.set b { x with saved := some u.1 } })

/-- The parked blocks on cores of a mask are saved. -/
def State.saveParked (s : State) (cores : U64) : State :=
  (s.blocks.filter (fun e => e.2.parked && bit cores e.2.core)).foldl (fun s e => s.saveBlock e.1) s

/-- The hardware clear of Spool banks: zeros, every granule FREE, share entries invalid, frame bits and
the bank's counters cleared (R188, R194). A command that is not on engines waits for its packs anew. -/
def State.clearBanks (s : State) (banks : U8) : State :=
  let inBank := fun a => target a == 3 && bit banks (a % 2 ^ 50 / 2 ^ 24)
  let gone := fun (o : Nat) => o != 0xFFFFFFFF && bit banks (o / 2 ^ 24)
  { s with
    jobs := s.jobs.mapVals (fun _ j =>
      if j.packOffs.any gone then
        let j := { j with packOffs := [] }
        if j.st = .rerun || j.st = .ready then { j with st := j.again } else j
      else j)
    mem := s.mem.keep (fun a => !inBank a),
    frames := s.frames.filter (fun f => !inBank (f.1 * 0x10000)),
    spl := { s.spl with
      grans := s.spl.grans.filter (fun g => !bit banks (g.1 / 256)),
      packs := s.spl.packs.filter (fun k => !bit banks k.bank),
      shares := s.spl.shares.filter (fun e => !bit banks e.2.bank),
      banks := s.spl.banks.mapVals (fun b w =>
        if bit banks b then { w with ce := 0, ue := 0, stalls := 0 } else w) } }

/-- L3 ways are written back and cleared (R46 step 4, R208). -/
def State.clearWays (s : State) (ways : U16) : State := s.l3Clear (fun key _ => bit ways (key % 16))

/-- The L2 and L1 lines of target-0 addresses that get another owner are invalidated, after write-back (R208), and so are
the L3 lines, which stand in the ways of the old owner. -/
def State.reowned (s : State) (owner : Nat → Option Nat) : State :=
  let moves := fun (a : Nat) => target a == 0 && owner a != s.lineOwner a
  let s' := s.l2Clear (fun _ l => moves (l.tag * 128))
  let s' := s'.setL1 (s'.lines.l1.filter (fun e => !moves (e.2.tag * 128)))
  s'.l3Clear (fun key l => l.sectors.any (fun x => moves (s.die.part.l3Addr (key / 16 / 1024) l.tag x.1)))

/-- Every line of every cache is written back and dropped. -/
def State.emptyCaches (s : State) : State :=
  let s := s.l2Clear (fun _ _ => true)
  (s.setL1 []).l3Clear (fun _ _ => true)

end Sys2Proof.Machine
end

