-- ==== Sys2Proof/Machine/Flips.lean ====
section
/-! DEFINITION. Layer descriptors and flip sets: their forms, their checks, and their end without being shown (R344 to
R357). -/

namespace Sys2Proof.Machine

open Sys2Proof

/-- Every byte from `i` on is zero. -/
def zeroFrom (b : List U8) (i : Nat) : Bool := (b.drop i).all (· == 0)

/-- An address is aligned to `n` bytes. -/
def aligned (a n : Nat) : Bool := a % n == 0

/-- DSP_EVENTS bit `i` (R368). -/
def State.dspEvent (s : State) (i : Nat) : State := { s with dsp := { s.dsp with events := setBit s.dsp.events i true } }

def State.pipe (s : State) (p : Nat) : Pipe := s.dsp.pipes.get {} p
def State.setPipe (s : State) (p : Nat) (x : Pipe) : State := { s with dsp := { s.dsp with pipes := s.dsp.pipes.set p x } }
def State.updPipe (s : State) (p : Nat) (f : Pipe → Pipe) : State := s.setPipe p (f (s.pipe p))

/-- The limits of R343 on a timing. -/
def Timing.ok (t : Timing) : Bool :=
  let ha := t.hactive.toNat
  let va := t.vactive.toNat
  decide (64 ≤ ha) && decide (ha ≤ 7680) && decide (64 ≤ va) && decide (va ≤ 4320) && decide (ha + 32 ≤ t.htotal.toNat) &&
    decide (va + 8 ≤ t.vtotal.toNat) && decide (t.clock.toNat ≤ 4000000) && t.output != 3 &&
    !(t.output == 0 && t.stream)

/-- ENABLE goes to 1, which clears the counters (R369). -/
def Pipe.turnOn (x : Pipe) : Pipe :=
  if x.enable then x else { x with enable := true, late := 0, skipped := 0, underflow := 0, inkDropped := 0 }

/-- Mirroring begins, and sets ENABLE (R366, R369). -/
def Pipe.mirrored (x : Pipe) : Pipe :=
  let x := x.turnOn
  { x with mirroring := true, running := x.running || x.mode.ok }

/-- The partition that binds a pipe. -/
def State.pipeOwner (s : State) (p : Nat) : Option Nat :=
  (List.range 16).find? (fun q => (s.part q).enable && bit (s.part q).pipes p)

/-! ### Layer descriptors (R344 to R350) -/

def layerFormats : List Nat := [0x03, 0x04, 0x05, 0x06, 0x0A, 0x50, 0x51]

def isYuv (f : Nat) : Bool := f == 0x50 || f == 0x51

/-- Bytes per pixel of a layer format (R346). -/
def layerBpp (f : Nat) : Rat :=
  match f with
  | 0x0A => 8
  | 0x50 => mkRat 3 2
  | 0x51 => 3
  | _ => 4

/-- KIND of a layer: layer 0 is solid and ignores it. -/
def layerKind (i : Nat) (b : List U8) : Nat := if i = 0 then 0 else field b 21 1

/-- The fields of a descriptor are as R345 and R346 give. -/
def layerOk (i : Nat) (b : List U8) : Bool :=
  let f := field b 20 1
  let even := fun n => field b n 2 % 2 == 0
  field b 41 3 == 0 && zeroFrom b 48 && (i == 0 || decide (field b 21 1 ≤ 2)) && decide (field b 22 2 < 64) &&
    field b 22 2 / 4 % 4 != 3 &&
    (layerKind i b != 1 ||
      (aligned (field b 0 8) 256 && decide (field b 0 8 < 2 ^ 52) && aligned (field b 16 4) 256 && layerFormats.contains f &&
        (if isYuv f then aligned (field b 8 8) 256 && decide (field b 8 8 < 2 ^ 52) &&
            [24, 26, 28, 30].all even
          else field b 8 8 == 0) &&
        decide (1 ≤ field b 28 2) && decide (1 ≤ field b 30 2) && decide (1 ≤ field b 36 2) && decide (1 ≤ field b 38 2)))

/-- The line buffers of a layer, none where a ratio or the width is outside R349. -/
def lineBuffers (i : Nat) (b : List U8) : Option Nat :=
  if layerKind i b ≠ 1 then some 0 else
  let sw := field b 28 2
  let sh := field b 30 2
  let dw := field b 36 2
  let dh := field b 38 2
  if 15360 < sw || 8 * dw < sw || 8 * sw < dw || 8 * dh < sh || 8 * sh < dh then none
  else
    let n := if sh = dh then 1 else if sh < dh then 2 else if sh ≤ 2 * dh then 3 else if sh ≤ 4 * dh then 5 else 9
    some ((sw + 7679) / 7680 * n)

/-- Refreshes per second of a mode. -/
def Timing.refresh (t : Timing) : Rat := mkRat (t.clock.toNat * 1000) (t.htotal.toNat * t.vtotal.toNat)

/-- The pixels and the bytes that a configuration fetches per second (R350). -/
def fetchRate (t : Timing) (ls : TMap (List U8)) : Rat :=
  ls.foldl (fun (n : Rat) e =>
    if layerKind e.1 e.2 = 1 then n + (field e.2 28 2 * field e.2 30 2 : Nat) * t.refresh else n) 0

def demand (t : Timing) (ls : TMap (List U8)) : Rat :=
  ls.foldl (fun (n : Rat) e =>
    if layerKind e.1 e.2 = 1 then n + (field e.2 28 2 * field e.2 30 2 : Nat) * layerBpp (field e.2 20 1) * t.refresh
    else n) 0

/-- At most one stroke layer, the highest enabled one (R344). -/
def strokeOk (ls : TMap (List U8)) : Bool :=
  let kind := fun i => layerKind i (ls.get [] i)
  let on := (List.range 8).filter (fun i => i != 0 && (kind i == 1 || kind i == 2))
  let strokes := on.filter (fun i => kind i == 2)
  decide (strokes.length ≤ 1) && strokes.all (fun i => on.all (fun k => decide (k ≤ i)))

/-- A configuration meets R344, R349 and R350 with the other pipes as they are. -/
def State.configOk (s : State) (p : Nat) (ls : TMap (List U8)) : Bool :=
  let t := (s.pipe p).mode
  let bufs := ls.mapM (fun e => lineBuffers e.1 e.2)
  let others : Rat := (List.range 4).foldl (fun (n : Rat) q =>
    if q = p then n else n + demand (s.pipe q).mode (s.pipe q).layers) 0
  strokeOk ls && (match bufs with
    | none => false
    | some l => decide (l.sum ≤ 24)) &&
    decide (fetchRate t ls ≤ 8000000000) && decide (others + demand t ls ≤ 60000000000)

/-! ### Flip sets (R351 to R357) -/

def flipLayers (h : List U8) : List Nat := bitsOf (BitVec.ofNat 8 (field h 0 1))
def flipGates (h : List U8) : List (Nat × Nat) :=
  (List.range (field h 1 1)).map (fun g => (field h (16 + 16 * g) 8, field h (24 + 16 * g) 8))
def flipTarget (h : List U8) : Option U32 := if field h 2 2 % 2 = 1 then some (BitVec.ofNat 32 (field h 4 4)) else none
def flipRelease (h : List U8) : Option (Nat × Nat) :=
  if field h 2 2 / 2 % 2 = 1 then some (field h 80 8, field h 88 8) else none

/-- The header's fields and reserved bytes (R351); STATUS, RESULT_FLAGS and SHOWN_FRAME are T2's. -/
def flipHeaderOk (h : List U8) : Bool :=
  let ev := fun a => aligned a 16 && (target a == 0 || target a == 2) && decide (a < 2 ^ 52)
  decide (field h 1 1 ≤ 4) && decide (field h 2 2 < 4) && field h 8 8 == 0 && field h 98 2 == 0 && zeroFrom h 104 &&
    (flipGates h).all (fun g => ev g.1) && (flipRelease h).all (fun r => ev r.1)

/-- The windows of a partition cover a range; no partition covers nothing. -/
def State.ownerOk (s : State) (o : Option Nat) (a n : Nat) (wr : Bool) : Bool := o.elim false (fun q => s.windowOk q a n wr)

/-- The planes that a descriptor names lie in the owner's windows, over SRC_H rows of PITCH. -/
def State.planesOk (s : State) (o : Option Nat) (i : Nat) (b : List U8) : Bool :=
  layerKind i b != 1 ||
    (s.ownerOk o (field b 0 8) (field b 30 2 * field b 16 4) false &&
      (!isYuv (field b 20 1) || s.ownerOk o (field b 8 8) (field b 30 2 * field b 16 4) false))

/-- The layers that a pipe would show with a set applied. -/
def FlipSet.over (x : FlipSet) (ls : TMap (List U8)) : TMap (List U8) :=
  (flipLayers x.header).foldl (fun m i => m.set i (x.descs.get [] i)) ls

/-- The set at index `i` of a pipe's ring, as T2 reads it, or the status with which it is discarded (R353). -/
def State.readSet (s : State) (p : Nat) (i : U32) : FlipSet × Option U8 :=
  let x := s.pipe p
  let o := s.pipeOwner p
  let e := x.flipBase + 8 * (i.toNat % 2 ^ x.flipOrder)
  let a := s.mem.num e 8
  let none_ : FlipSet := { addr := a, header := List.replicate 128 0, descs := [], owner := none }
  if !s.ownerOk o e 8 false then (none_, some 0x33)
  else if !aligned a 128 then (none_, some 0x21)
  else if !s.ownerOk o a 128 false then (none_, some 0x33)
  else
    let h := s.peek a 128
    let ls := flipLayers h
    let descs := ls.map (fun k => (k, s.peek (a + 128 + 64 * k) 64))
    let f : FlipSet := { addr := a, header := h, descs := descs, owner := o }
    if !ls.all (fun k => s.ownerOk o (a + 128 + 64 * k) 64 false) then (f, some 0x33)
    else if !flipHeaderOk h || !descs.all (fun d => layerOk d.1 d.2) || !s.configOk p (f.over x.layers) then (f, some 0x21)
    else if !descs.all (fun d => s.planesOk o d.1 d.2) || !(flipGates h).all (fun g => s.ownerOk o g.1 16 false) ||
        !(flipRelease h).all (fun r => s.ownerOk o r.1 16 true) || !s.ownerOk o a 128 true then (f, some 0x33)
    else (f, none)

/-- A release event is signalled on behalf of the pipe's owner, with producer 0xFFFF (R254, R356). -/
def State.signalRelease (s : State) (p : Nat) (r : Option (Nat × Nat)) : State :=
  match r, s.pipeOwner p with
  | some (a, v), some q =>
    if !(aligned a 16 && s.windowOk q a 16 true) || s.failing a 16 then s else
    let e := (s.event a).signal v 0 0xFFFF
    let s := { s with fe := { s.fe with
      ignoredCount := if e.2 then satAdd32 s.fe.ignoredCount 1 else s.fe.ignoredCount } }
    s.putEvent a q e.1 (!e.2)
  | _, _ => s

/-- T2 writes a set's STATUS, RESULT_FLAGS and SHOWN_FRAME where the owner's windows let it. -/
def State.writeFlip (s : State) (p : Nat) (f : FlipSet) (status flags : Nat) (shown : Option U32) : State :=
  if !s.ownerOk (s.pipeOwner p) f.addr 128 true then s else
  let s := s.poke (f.addr + 96) (toBytes 1 status ++ toBytes 1 flags)
  match shown with
  | none => s
  | some n => s.poke (f.addr + 100) (toBytes 4 n.toNat)

/-- The head set leaves the ring without being shown. -/
def State.dropSet (s : State) (p : Nat) (f : FlipSet) (status flags : Nat) : State :=
  let s := s.writeFlip p f status flags none
  let s := s.updPipe p (fun x => { x with flipRead := x.flipRead + 1, head := none })
  s.signalRelease p (flipRelease f.header)

/-- The sets of a ring that have not been applied end with ABORTED and are released. -/
def abortSets (p : Nat) : (n : Nat) → State → State
  | 0, s => s
  | n + 1, s =>
    let x := s.pipe p
    if x.flipRead = x.flipWrite then s else
    let f := match x.head with
      | some f => f
      | none => (s.readSet p x.flipRead).1
    abortSets p n (s.dropSet p f 1 (if f.late then 1 else 0))

end Sys2Proof.Machine
end

