-- ==== Sys2Proof/Machine/Sleep.lean ====
section
/-! DEFINITION. The performance level that T4 grants, and the entry to and exit from the sleep states (R186 to R188, R402
to R419). -/

namespace Sys2Proof.Machine

open Sys2Proof

/-! ### What is alive (R25, R413) -/

/-- The host reaches the registers: the die runs, has reached stage Tack, and is in neither Hold nor Off. -/
def State.feUp (s : State) : Bool :=
  !s.die.inReset && s.die.stage != .preTack && s.pwr.state != .hold && s.pwr.state != .off

/-- A Thimble core runs. -/
def State.thimbleUp (s : State) (t : Nat) : Bool :=
  !s.die.inReset && bit s.die.thimbles t &&
    (match s.pwr.state with
     | .run => true
     | .doze => true
     | .nap => t == 0 || t == 2
     | _ => false)

/-! ### Performance levels (R402 to R412) -/

/-- What a performance level applies to every arithmetic island (R402): the frequency, the VR_VID code of VDD_CORE (R482),
the forward body bias, and the memory assists. -/
structure LevelSettings where
  mhz : Nat
  vid : U8
  biasMv : Nat := 0
  wordline : Bool := false
  bitline : Bool := false
deriving DecidableEq, Repr

/-- The VR_VID code of a voltage in mV (R482). -/
def vidOf (mv : Nat) : U8 := BitVec.ofNat 8 ((mv - 250) / 5)

def levelSettings : Nat → LevelSettings
  | 0 => { mhz := 1500, vid := vidOf 900, biasMv := 200 }
  | 1 => { mhz := 1350, vid := vidOf 840, biasMv := 100 }
  | 2 => { mhz := 1200, vid := vidOf 780 }
  | 3 => { mhz := 1050, vid := vidOf 720 }
  | 4 => { mhz := 900, vid := vidOf 670, wordline := true }
  | 5 => { mhz := 750, vid := vidOf 620, wordline := true }
  | 6 => { mhz := 600, vid := vidOf 580, wordline := true, bitline := true }
  | _ => { mhz := 400, vid := vidOf 550, wordline := true, bitline := true }

/-- The settings in force: those of the level, at the frequency of a clamp where one holds (R402, R407, R411). -/
def Pwr.settings (x : Pwr) : LevelSettings :=
  let l := levelSettings x.current.toNat
  { l with mhz := x.clamp.elim l.mhz (fun c => min l.mhz (levelSettings c.toNat).mhz) }

/-- The VR_VID output: 0 in Hold and Off, 0.78 V until the start runs, and then the level's (R482 to R484). -/
def State.vrVid (s : State) : U8 :=
  if s.pwr.state = .hold || s.pwr.state = .off then 0
  else if s.die.inReset then vidOf 780
  else s.pwr.settings.vid

/-- PWR_EVENTS bit `i` (R421). -/
def State.pwrEvent (s : State) (i : Nat) : State := { s with pwr := { s.pwr with events := setBit s.pwr.events i true } }

/-- The level of the platform cause: P0 and P1 need liquid cooling and its confirmation (R404, R405). Of the two causes that
a loss of COOLANT_OK gives, R407 names the coolant cause: while that applies it stands for the input. -/
def Pwr.platformLevel (x : Pwr) : Nat :=
  if x.cooling && (x.coolantOk || x.coolant) then x.topLevel.toNat else max x.topLevel.toNat 2

/-- The level that each cause asks for, by cause number (R405). -/
def Pwr.levels (x : Pwr) : List (Nat × Nat) :=
  [(0, x.req.toNat), (1, x.platformLevel)] ++ (if x.coolant then [(2, 2)] else []) ++
    (x.thermal.toList.map (fun l => (3, l.toNat))) ++ (x.limit.toList.map (fun l => (4, l.toNat))) ++
    (if x.trip then [(5, 7)] else [])

/-- The slowest level of a list and its cause, the lowest number among equals (R405). -/
def slowest (l : List (Nat × Nat)) : Nat × Nat := l.foldl (fun m e => if m.2 < e.2 then e else m) (0, 0)

/-- The granted level and its cause. -/
def Pwr.grant (x : Pwr) : Nat × Nat := slowest x.levels

/-- T4 grants a level: a change to it begins unless one is running (R405, R406, R419). -/
def Pwr.regrant (x : Pwr) : Pwr :=
  if x.changing then x else
  let g := x.grant
  let l : BitVec 3 := BitVec.ofNat 3 g.2
  { x with target := l, cause := BitVec.ofNat 3 g.1, changing := l != x.current }

/-- T4 grants, where it runs. -/
def State.regrant (s : State) : State := if s.thimbleUp 4 then { s with pwr := s.pwr.regrant } else s

/-- A change ends: the target is in force, and a cause that has changed meanwhile is taken up (R406, R419). A clamp whose
level the change has not reached goes on (R419). -/
def Pwr.changed (x : Pwr) : Pwr :=
  let held := x.clamp.filter (fun c => (x.trip || x.coolant) && decide (x.target.toNat < c.toNat))
  Pwr.regrant { x with current := x.target, changing := false, clamp := held, events := setBit x.events 0 true }

/-! ### Leaving a sleep state (R416) -/

/-- A cache that is invalidated and enabled. -/
def CacheState.fresh : CacheState := { enabled := true, enableReg := true, invalidated := true }

/-- Every L1, L2 and L3 is invalidated and enabled (R207, R416, R425). -/
def State.freshCaches (s : State) : State :=
  { s with
    lines := {}
    l3c := { s.l3c with cache := CacheState.fresh }
    clusters := (List.range 8).foldl (fun (m : TMap Cluster) n =>
      let x : Cluster := m.get {} n
      m.set n { x with l1 := CacheState.fresh, l2 := CacheState.fresh }) s.clusters }

/-- The host modules that have trained leave or take up operation: in Hold the mainband is down (R413, R483). -/
def State.hostModules (s : State) (up : Bool) : State :=
  { s with slk := { s.slk with modules := s.slk.modules.mapVals (fun m x =>
      if m < 2 && x.rate != 0 then { x with state := if up then 2 else 0 } else x) } }

/-- The launches of contexts that lose granules with banks ask for their Spool ranges anew, which restores what was saved
(R186, R287, R416). -/
def State.respool (s : State) (banks : U8) : State :=
  let lost := (s.spl.grans.filter (fun g => bit banks (g.1 / 256) && g.2.st == .alloc)).map (fun g => g.2.ctx)
  { s with jobs := s.jobs.mapVals (fun _ j =>
      if lost.contains j.ctx then { j with launch := j.launch.map (fun l => { l with spoolReady := false }) } else j) }

/-- The exit to Run (R416): memories that were not retained are cleared, after Hold the caches are enabled and the host
link trains and no frame keeps VALID or TOUCHED (R123), the cause is recorded, and T4 grants the level anew. -/
def State.wakeExit (s : State) (cause : Nat) : State :=
  let was := s.pwr.state
  let lost := ~~~s.spl.retain
  let s := if was = .doze then s else (s.respool lost).clearBanks lost
  let s := if was = .hold then State.hostModules { s.freshCaches with frames := [] } true else s
  State.regrant (State.pwrEvent
    { s with pwr := { s.pwr with state := .run, wakeCause := setBit 0 cause true } } 8)

/-- A wake source: during an entry the die returns to Run directly, since an entry that can still be met has not run its
step 4 (R419). -/
def State.wake (s : State) (cause : Nat) : State :=
  match s.pwr.entry with
  | some _ =>
    State.pwrEvent { s with pwr := { s.pwr with entry := none, step := 0, wakeCause := setBit 0 cause true } } 8
  | none =>
    match s.pwr.state with
    | .run => s
    | .off => s
    | _ => s.wakeExit cause

/-- A write of the host to BAR0 or BAR2, the PWR and DSP blocks apart: it ends Nap, and where it is a doorbell or an FE
command also Doze and Idle (R414, R416). -/
def State.hostWake (s : State) (fe : Bool) : State :=
  if s.die.inReset then s else
  match s.pwr.state with
  | .nap => s.wakeExit 6
  | .doze => if fe then s.wakeExit 6 else s
  | .run => if fe then { s with pwr := { s.pwr with gated := 0 } } else s
  | _ => s

/-! ### Entering a sleep state (R415) -/

/-- The Spool banks whose contents a state loses (R186). -/
def State.banksLost (s : State) (t : PowerState) : U8 :=
  match t with
  | .run => 0
  | .doze => 0
  | .nap => ~~~s.spl.retain
  | .hold => ~~~s.spl.retain
  | .off => 0xFF

/-- Step 2: what the state loses goes to its contexts' save areas. -/
def State.sleepSave (s : State) (t : PowerState) : State :=
  let lost := s.banksLost t
  let dirty := s.spl.grans.filter (fun g => bit lost (g.1 / 256) && g.2.st == .alloc && g.2.dirty)
  let s := dirty.foldl (fun (s : State) g => s.saveGranule (s.ctx g.2.ctx).partition (g.1 / 256) (g.1 % 256)) s
  s.saveParked (BitVec.allOnes 64)

/-- Step 4 for Hold and Off: flip sets that wait are aborted (R357). -/
def State.abortFlips (s : State) : State :=
  [0, 1, 2, 3].foldl (fun (s : State) p => abortSets p 16 (s.updPipe p (fun x => { x with latched := none }))) s

/-- Step 3: the L2s are written back, and for Nap, Hold and Off the L3 too; the L1s are lost (R186). What is written back
leaves the caches, whose contents the rules do not keep. -/
def State.sleepCaches (s : State) (t : PowerState) : State :=
  let s := s.flushDeltas (fun _ => true)
  if t = .doze then (s.l2Clear (fun _ _ => true)).setL1 [] else s.emptyCaches

/-- Steps 2 to 4 of an entry whose commands have ended. -/
def State.sleepFinish (s : State) (t : PowerState) : State :=
  let deep := t == .hold || t == .off
  let s := (s.sleepSave t).sleepCaches t
  let s := if deep then s.abortFlips.hostModules false else s
  let x := { s.pwr with
    state := t, entry := none, step := 0, result := 0x00, gated := BitVec.allOnes 64, alert := s.pwr.alert && t != .off }
  State.pwrEvent { s with pwr := x } 6

end Sys2Proof.Machine
end

