-- ==== Sys2Proof/Machine/Pattern.lean ====
section
/-! DEFINITION. Applying a pattern, and the direct writes of the PTN block (R35, R41, R43 to R53). -/

namespace Sys2Proof.Machine

open Sys2Proof

/-- A PATTERN log entry (R170). -/
def State.logPattern (s : State) (p : Nat) : State :=
  s.log p 0x02 0xFFFF 0 (toBytes 4 s.ptn.activeSeq.toNat ++ toBytes 4 (s.det.logs.get {} p).live.toNat)

/-- A command of a partition's contexts. -/
def State.jobIn (s : State) (parts : Nat → Bool) (j : Job) : Bool := parts (s.ctx j.ctx).partition

/-- The restartable commands on engines of the partitions of a mask are killed; those that wait for
RESUME stay (R46 step 2, R233). -/
def State.quiesce (s : State) (parts : Nat → Bool) (cause : Nat) : State :=
  (s.jobs.filter (fun e => e.2.onEngines && !e.2.nonRestart && e.2.launch.isNone && s.jobIn parts e.2)).foldl
    (fun s e => s.killFirst e.1 cause 1 .rerun) s

/-- A non-restartable command of the partitions of a mask is on engines. -/
def State.holdsOut (s : State) (parts : Nat → Bool) : Bool :=
  s.jobs.any (fun e => e.2.onEngines && e.2.nonRestart && e.2.launch.isNone && s.jobIn parts e.2)

/-- The re-key of R41 at a quiesce of partition `p`: a partition with REKEY_ALLOWED for which HOTSPOT is
raised takes a fresh key, a value the rules leave to the firmware. -/
def State.rekey (s : State) (p : Nat) : State :=
  let x := s.part p
  let h : HotWin := s.l3c.hot.get {} p
  if !(x.rekey && (h.channel || h.set)) then s else
  let (v, s) := s.free
  let k : U64 := BitVec.ofNat 64 v
  let s := { s with
    ptn := { s.ptn with
      parts := s.ptn.parts.set (s.partKey p) { x with key := k },
      apply := s.ptn.apply.map (fun (a : Apply) =>
        if a.carried.contains (shadowKey (s.partKey p) 0x34) then a
        else
          let r : Part16 := a.result.get {} (s.partKey p)
          { a with result := a.result.set (s.partKey p) { r with key := k } }) },
    l3c := { s.l3c with
      hot := s.l3c.hot.set p { h with
        channel := false, set := false, runChannel := 0, runSet := 0, rekeys := satAdd32 h.rekeys 1 } } }
  let s := (s.clearWays x.ways).ptnEvent 2
  s.log p 0x03 0xFFFF 0 (toBytes 8 k.toNat ++ toBytes 4 s.ptn.activeSeq.toNat)

/-- The granules of the banks of a mask that hold a context's dirty data, as (bank, granule). -/
def State.dirtyIn (s : State) (banks : U8) : List (Nat × Nat) :=
  (s.spl.grans.filter (fun g => bit banks (g.1 / 256) && g.2.st == .alloc && g.2.dirty)).map
    (fun g => (g.1 / 256, g.1 % 256))

/-- The contexts of a partition that are open, in restore order (R242 PRIORITY). -/
def State.restoreOrder (s : State) (p : Nat) : List Nat :=
  let cs := (s.ctxs.filter (fun e => e.2.partition == p && e.2.state != .closed)).map Prod.fst
  cs.mergeSort (fun a b => decide ((s.ctx b).priority < (s.ctx a).priority) ||
    ((s.ctx a).priority == (s.ctx b).priority && decide (a ≤ b)))

/-- The first FREE granule of a partition's banks on this die. -/
def State.freeGranule (s : State) (p : Nat) : Option (Nat × Nat) :=
  ((s.boundBanks p).flatMap (fun b => (List.range s.granCount).map (fun g => (b, g)))).find?
    (fun e => (s.spl.grans.get {} (256 * e.1 + e.2)).st == .free)

/-- A partition's saved allocations that are not in its banks are restored in priority order while there
is room: each at its SPACE 3 position where that is FREE, otherwise in the first FREE granule. -/
def State.restorePart (s : State) (p : Nat) (lost : List (Nat × Nat)) : State :=
  (s.restoreOrder p).foldl (fun s c =>
    (lost.filter (fun e => e.1 == c)).foldl (fun s e =>
      let home := (s.spacePlace p e.2).filter (fun q => (s.spl.grans.get {} (256 * q.1 + q.2)).st == .free)
      match home.or (s.freeGranule p) with
      | none => s
      | some q => s.restoreGranule c e.2 q.1 q.2) s) s

/-- A live register's value loaded into a partition window (R43, R53). -/
def Part16.loadLive (p : Part16) (off : Nat) (v : U32) : Part16 :=
  if off = 0x14 then { p with reserve := v.truncate 8 }
  else if off = 0x20 then { p with cmp0 := v.truncate 5, cmp1 := (v >>> 8).truncate 5 }
  else if 0x24 ≤ off && off ≤ 0x30 then
    let g : Regulator := { rate := v.truncate 16, burst := (v >>> 16).truncate 16 }
    { p with regs := p.regs.set ((off - 0x24) / 4) g }
  else { p with groups := p.groups.set ((off - 0xC0) / 4) v }

/-- A live register's active value. -/
def Part16.liveReg (p : Part16) (off : Nat) : U32 :=
  if off = 0x14 then p.reserve.zeroExtend 32
  else if off = 0x20 then p.cmp0.zeroExtend 32 ||| (p.cmp1.zeroExtend 32 <<< 8)
  else if 0x24 ≤ off && off ≤ 0x30 then
    let g := p.regs.get {} ((off - 0x24) / 4)
    g.rate.zeroExtend 32 ||| (g.burst.zeroExtend 32 <<< 16)
  else p.groups.get 0 ((off - 0xC0) / 4)

/-- The partition windows after step 5: an affected partition takes the result and its pending shadows, and another keeps its
window, the stream's live values going to shadows. A live value of the stream replaces a shadow that waits (R43, R44, R46). -/
def loadResult (ptn : Ptn) (keys aff carried : List Nat) (result : TMap Part16) : Ptn :=
  keys.foldl (fun ptn k =>
    let new := result.get {} k
    if aff.contains k then
      let w := liveOffsets.foldl (fun w off =>
        match ptn.shadows.find (shadowKey k off) with
        | some v => if carried.contains (shadowKey k off) then w else w.loadLive off v
        | none => w) new
      { ptn with
        parts := ptn.parts.set k w,
        shadows := ptn.shadows.filter (fun x => x.1 / 256 != k) }
    else
      { ptn with
        shadows := liveOffsets.foldl (fun m off =>
          if !carried.contains (shadowKey k off) then m
          else if (ptn.parts.get {} k).liveReg off == new.liveReg off then m.del (shadowKey k off)
          else m.set (shadowKey k off) (new.liveReg off)) ptn.shadows }) ptn

/-- The shadows of partition `k` that step 5 loads. -/
def shadowsLoaded (ptn : Ptn) (carried : List Nat) (k : Nat) : Nat :=
  (ptn.shadows.filter (fun x => x.1 / 256 == k && !carried.contains x.1)).length

/-- The interrupt sources attributed to partition `p`: FAULT_P, EVENT_P, and COMPLETE_C of its contexts. -/
def State.sourcesOf (s : State) (p : Nat) : List Nat :=
  [32 + p, 48 + p] ++ ((s.ctxs.filter (fun e => e.2.partition == p)).map (fun e => 256 + e.1))

/-- `n` live changes of partition `p` have been taken up (R44, R173): LIVE_CHANGES counts from stage Finished on. -/
def State.liveTaken (s : State) (p n : Nat) : State :=
  let w : LogWin := s.det.logs.get {} p
  let s := if s.die.stage == .finished then s.setLog p { w with live := satAdd32 w.live n } else s
  s.ptnEvent 3

/-- The memories that change owner with the partition windows: dirty granules of banks and parked memory of cores are
saved, ways written back, and banks, ways and L1s cleared (R46 steps 3 and 4, R188, R208). -/
def State.moveUnits (s : State) (result : TMap Part16) : State :=
  let old := s.ptn.parts
  let d := s.dieNo
  let changed := fun {w : Nat} (f : Part16 → BitVec w) => moved old result d f ||| moved result old d f
  let s := (s.dirtyIn (moved old result d (fun p => p.banks))).foldl (fun s e =>
    s.saveGranule (s.ctx (s.spl.grans.get {} (256 * e.1 + e.2)).ctx).partition e.1 e.2) s
  let s := s.saveParked (moved old result d (fun p => p.cores))
  let s := s.clearWays (changed (fun p => p.ways))
  let s := (bitsOf (changed (fun p => p.cores))).foldl (fun s k => s.l1Clear k) s
  s.clearBanks (changed (fun p => p.banks))

/-- The lines whose owner changes with the partition windows leave the caches (R208). -/
def State.rehome (s : State) (result : TMap Part16) : State :=
  s.reowned (State.lineOwner { s with ptn := { s.ptn with parts := result } })

/-- The end of an apply: STATUS, the result, and APPLY_DONE (R46, R52); an open that waited for it runs
now (R48). -/
def State.endApply (s : State) (result : U8) (off cycles : U32) : State :=
  let s := { s with ptn := { s.ptn with
      busy := false, step := 0, result := result, failOffset := off, applyTime := cycles, apply := none } }
    |>.ptnEvent 0
  match s.fe.openWaits with
  | none => s
  | some fn => s.openNow fn

/-- Steps 3 to 7 of an apply whose affected partitions are quiet (R46). -/
def State.applyFinish (s : State) (a : Apply) : State :=
  let d := s.dieNo
  let mine := bitsOf a.affected
  let s := mine.foldl (fun s p => s.rekey p) s
  let a := s.ptn.apply.getD a
  let old := s.ptn.parts
  -- a window that a direct write has changed meanwhile keeps the write (R48)
  let result := (s.dies.flatMap keysOf).foldl (fun (m : TMap Part16) k =>
    if a.keys.contains k then m.set k (a.result.get {} k) else m) old
  -- steps 3 and 4
  let lost := (s.dirtyIn (moved old result d (fun p => p.banks))).filterMap (fun e =>
    let x := s.spl.grans.get {} (256 * e.1 + e.2)
    (s.spaceIndex (s.ctx x.ctx).partition e.1 e.2).map (fun i => (x.ctx, i)))
  let s := s.moveUnits result
  -- step 5
  let s := mine.foldl (fun s p =>
    let n := shadowsLoaded s.ptn a.carried (s.partKey p)
    if n = 0 then s else s.liveTaken p n) s
  let s := s.rehome result
  let s := { s with ptn := loadResult { s.ptn with activeSeq := a.seq } (s.dies.flatMap keysOf) a.keys a.carried a.result }
  let s := mine.foldl (fun s p => s.dropPart p) s
  let s := mine.foldl (fun s p =>
    let o := old.get {} (16 * d + p)
    let n := s.part p
    let s := if o.vf == n.vf && o.enable == n.enable then s
      else (s.sourcesOf p).foldl (fun s i => s.updSource i (fun x => { x with inService := false })) s
    let s := s.logPattern p
    if o.reserve == n.reserve then s else s.logCores p) s
  let s := mine.foldl (fun s p => s.rejoinPart p) s
  -- step 6
  let s := mine.foldl (fun s p => s.restorePart p lost) s
  let s := s.retireBanks
  s.endApply 0x00 s.ptn.failOffset a.cycles

/-- A link retrains (R311). -/
def State.retraining (s : State) : Bool := s.slk.modules.any (fun e => e.2.state == 1)

/-- An entry to a sleep state goes on: once no apply runs, restartable commands are killed; and once the others have
ended and no link retrains, the rest of the entry follows (R415, R419, R487). -/
def State.settleSleep (s : State) : State :=
  match s.pwr.entry with
  | none => s
  | some t =>
    if s.ptn.apply.isSome then s else
    let s := if s.pwr.step = 0 then
        State.quiesce { s with pwr := { s.pwr with step := 1 } } (fun _ => true) 6
      else s
    if s.holdsOut (fun _ => true) || s.retraining then s else s.sleepFinish t

/-- What an end of a command sets going: an apply whose last non-restartable command has ended goes on
(R46 step 2), and so does an entry to a sleep state. -/
def State.settle (s : State) : State :=
  let s := match s.ptn.apply with
    | none => s
    | some a =>
      if s.holdsOut (fun p => bit a.affected p) then s else s.applyFinish a
  s.settleSleep

/-- A context is lost and torn down, and what waited for its commands goes on; a DRAM error is counted by its
channel. -/
def State.lose (s : State) (c : Nat) (r : FaultRec) : State :=
  let s := if r.source ≠ 0x0A then s else if target r.addr.toNat = 0 then s.mcUe r.addr.toNat else s.mcEvent 1
  (s.loseCore c r).settle

/-- Step 1 of an apply: the check, and where it fails the end with PATTERN_INVALID (R36, R46). -/
def State.applyChecked (s : State) (cycles : U32)
    (k : State → TMap Part16 → U32 → List Nat → State) : State :=
  match s.checkStream with
  | .bad off => s.endApply 0x21 (BitVec.ofNat 32 off) cycles
  | .unreadable off pa => (s.dramRecord pa false).endApply 0x21 (BitVec.ofNat 32 off) cycles
  | .ok result seq carried => k s result seq carried

/-- GO is dropped: an apply or an entry to a sleep state runs, the die is a follower, or stage Finished has not come (R48, R50, R419, R426). -/
def State.goDropped (s : State) : Bool :=
  s.ptn.busy || s.pwr.entry.isSome || !s.leader || s.die.stage != .finished || !s.feUp

/-- The package partitions of partition windows: an index names one partition on both dies (R50). -/
def affectedParts (keys : List Nat) : U16 := keys.foldl (fun m k => setBit m (k % 16) true) 0

/-- GO (R46): the checks, the quiesce of the affected partitions, and, unless a non-restartable command
holds it at step 2, the rest of the sequence. -/
def State.applyGo (s : State) (cycles : U32) : State :=
  s.applyChecked cycles (fun s result seq carried =>
    let keys := affectedKeys s.dies s.ptn.parts result
    let mask := affectedParts keys
    let a : Apply := { affected := mask, result := result, seq := seq, cycles := cycles, carried := carried, keys := keys }
    let s := { s with ptn := { s.ptn with busy := true, step := 2, apply := some a } }
    (s.quiesce (fun p => bit mask p) 5).settle)

def execPtnApplyGo (cycles : U32) (s : State) : Out :=
  .next (let s := s.hostWake false
    if s.goDropped then (if !s.feUp then s else s.ptnEvent 1) else s.applyGo cycles)

/-- GO with VALIDATE_ONLY runs step 1 alone (R52). -/
def execPtnValidateOnly (cycles : U32) (s : State) : Out :=
  .next (let s := s.hostWake false
    if s.goDropped then (if !s.feUp then s else s.ptnEvent 1)
    else s.applyChecked cycles (fun s _ _ _ => s.endApply 0x00 s.ptn.failOffset cycles))

/-- A non-restartable command has not committed 400 µs into step 2: the apply ends with PATTERN_LIVE and
nothing changes (R47). -/
def execApplyAbandon (cycles : U32) (s : State) : Out :=
  .next (if s.ptn.apply.isSome then (s.endApply 0x20 s.ptn.failOffset cycles).settleSleep else s)

/-! ### Direct writes -/

/-- The partition and register offset of a BAR0 offset within the PTN windows. -/
def ptnWindow (off : Nat) : Option (Nat × Nat) :=
  if 0x10800 ≤ off && off < 0x10800 + 16 * 0x100 && off % 4 = 0 then
    some ((off - 0x10800) / 0x100, (off - 0x10800) % 0x100)
  else none

/-- A refused direct write (R52): RESULT and PTN_FAIL_OFFSET with bit 31 set. -/
def State.refuseWrite (s : State) (status : U8) (off : Nat) : State :=
  { s with ptn := { s.ptn with
      result := status, failOffset := 0x80000000 ||| BitVec.ofNat 32 (off % 2 ^ 24) } }

/-- An apply in progress affects partition `p`. -/
def State.affectedNow (s : State) (p : Nat) : Bool := s.ptn.apply.any (fun a => bit a.affected p)

/-- The partition runs: it is enabled and not halted (R44). -/
def State.partRuns (s : State) (p : Nat) : Bool := (s.part p).enable && !bit s.ptn.halted p

/-- A write to a live field goes to its shadow (R43, R44), a RESERVE above the cores that the partition
binds being refused (R39). -/
def execPtnLiveWrite (off : Nat) (v : U32) (s : State) : Out :=
  .next (let s := s.hostWake false
    match ptnWindow off with
    | none => s
    | some (p, r) =>
      if !s.feUp || !liveOffsets.contains r then s
      else if s.affectedNow p then s.refuseWrite 0x20 off
      else if r = 0x14 && popcount (s.part p).cores < (v.truncate 8 : U8).toNat then s.refuseWrite 0x21 off
      else { s with ptn := { s.ptn with shadows := s.ptn.shadows.set (shadowKey (s.partKey p) r) v } })

/-- An engine is in service on this part. -/
def State.engineOn (s : State) (e : Nat) : Bool := decide (e < s.die.part.engines) && !bit s.die.enginesOut e

/-- The share of partition `p` on engine `e` in sixteenths: its coding slots (R371). -/
def State.share (s : State) (p e : Nat) : Nat :=
  if s.engineOn e then (if e = 0 then (s.part p).cmp0.toNat else (s.part p).cmp1.toNat) else 0

/-- The streams of partition `p` that hold a slot of engine `e`. -/
def State.streams (s : State) (p e : Nat) : List (Nat × Job) :=
  s.jobs.filter (fun f => f.2.onEngines && f.2.cmp == some e && (s.ctx f.2.ctx).partition == p)

def State.streamsOn (s : State) (p e : Nat) : Nat := (s.streams p e).length

/-- The streams of partition `p` beyond its share of engine `e`: those that have started last; a command that may not
run again keeps its slot (R31, R383). -/
def State.beyondShare (s : State) (p e : Nat) : List (Nat × Job) :=
  (((s.streams p e).mergeSort (fun x y => decide (x.2.order ≤ y.2.order))).drop (s.share p e)).filter (fun f => !f.2.nonRestart)

/-- A share that has shrunk: the streams beyond it are killed as for pre-emption and queued again (R383). -/
def State.trimStreams (s : State) (p : Nat) : State :=
  (s.beyondShare p 0 ++ s.beyondShare p 1).foldl (fun (s : State) f => s.kill f.1 1 .rerun) s

/-- A shadow's safe point comes: it becomes the active value, LIVE_TAKEN is set, the change is counted
and logged (R44, R170, R173). A running command finishes where it is, the regulators take a rate up at their refill, and
a launch keeps the block groups under which it was dispatched (R43). Streams beyond a smaller compression share end
(R383). -/
def execLiveShadowTakeup (p off : Nat) (s : State) : Out :=
  .next (match s.ptn.shadows.find (shadowKey (s.partKey p) off) with
    | none => s
    | some v =>
      let old := s.part p
      let new := old.loadLive off v
      let s := { s with ptn := { s.ptn with
        parts := s.ptn.parts.set (s.partKey p) new,
        shadows := s.ptn.shadows.del (shadowKey (s.partKey p) off) } }
      let s := (s.liveTaken p 1).logPattern p
      let s := if off = 0x20 then s.trimStreams p else s
      if old.reserve == new.reserve then s else s.logCores p)

/-- A window register's value written into one half of a 64-bit field. -/
def setHalf (x : Nat) (hi : Bool) (v : Nat) : Nat :=
  if hi then x % 2 ^ 32 + v * 2 ^ 32 else x / 2 ^ 32 * 2 ^ 32 + v

/-- A static register's value loaded into a partition window (R53); none where the offset holds no
static field. -/
def Part16.loadStatic (p : Part16) (off : Nat) (v : U32) : Option Part16 :=
  let n := v.toNat
  if off = 0x00 then some { p with enable := bit v 0, vf := bit v 1, rekey := bit v 2 }
  else if off = 0x04 then some { p with qFirst := v.truncate 16, qCount := (v >>> 16).truncate 16 }
  else if off = 0x08 then some { p with quota := v.truncate 16 }
  else if off = 0x0C then some { p with cores := BitVec.ofNat 64 (setHalf p.cores.toNat false n) }
  else if off = 0x10 then some { p with cores := BitVec.ofNat 64 (setHalf p.cores.toNat true n) }
  else if off = 0x18 then
    some { p with banks := v.truncate 8, pipes := (v >>> 8).truncate 4 |>.zeroExtend 8, ways := (v >>> 16).truncate 16 }
  else if off = 0x1C then some { p with dma := v }
  else if off = 0x34 then some { p with key := BitVec.ofNat 64 (setHalf p.key.toNat false n) }
  else if off = 0x38 then some { p with key := BitVec.ofNat 64 (setHalf p.key.toNat true n) }
  else if 0x40 ≤ off && off < 0xC0 then
    let i := (off - 0x40) / 16
    let w := p.windows.get {} i
    let w := match off % 16 with
      | 0 => { w with base := setHalf w.base false (n / 2 ^ 21 * 2 ^ 21) }
      | 4 => { w with base := setHalf w.base true (n % 2 ^ 20) }
      | 8 => { w with size := setHalf w.size false (n / 2 ^ 21 * 2 ^ 21) }
      | _ => { w with size := setHalf w.size true (n % 2 ^ 20), valid := bit v 28, rd := bit v 29,
                      wr := bit v 30, shared := bit v 31 }
    some { p with windows := p.windows.set i w }
  else none

/-- A static write (R44): refused while the partition runs or an apply affects it, checked as a pattern
result, and in effect at once, with every unit it moves written back and cleared. -/
def execPtnStaticWrite (off : Nat) (v : U32) (s : State) : Out :=
  .next (let s := s.hostWake false
    match ptnWindow off with
    | none => s
    | some (p, r) =>
      if !s.feUp then s else
      match (s.part p).loadStatic r v with
      | none => s
      | some new =>
        if s.partRuns p || s.affectedNow p then s.refuseWrite 0x20 off
        else
          let result := s.ptn.parts.set (s.partKey p) new
          match checkResult s result with
          | some _ => s.refuseWrite 0x21 off
          | none =>
            let s := (s.moveUnits result).rehome result
            let s := { s with ptn := { s.ptn with parts := result } }
            if 0x40 ≤ r && r < 0xC0 then s.dropPart p else s)

/-- A write of HALT_REQ (R52): partitions newly requested are quiesced, and requests or halts newly
cleared are withdrawn. Bit 0 cannot be set. -/
def execPtnHaltReq (v : U16) (s : State) : Out :=
  .next (let s := s.hostWake false
    if !s.feUp then s else
    let v := v &&& 0xFFFE
    let new := v &&& ~~~s.ptn.haltReq
    let s := { s with ptn := { s.ptn with haltReq := v, halted := s.ptn.halted &&& v } }
    s.quiesce (fun p => bit new p) 5)

/-- The partition's non-restartable commands have ended: HALTED is set (R52). -/
def execPartitionHalted (p : Nat) (s : State) : Out :=
  .next (if bit s.ptn.haltReq p && !s.holdsOut (· == p) then
      { s with ptn := { s.ptn with halted := setBit s.ptn.halted p true } }
    else s)

/-- Bytes of credit that a rate gains in one refill interval of 1,024 memory cycles (R38). -/
def refillBytes (mts rate : Nat) : Nat := if mts = 0 then 0 else rate * 819200 / mts

/-- The credit of a port after a refill interval: it gains at the rate, up to the burst. -/
def refilled (mts : Nat) (x : Part16) (port : Nat) (credit : Int) : Int :=
  min (credit + refillBytes mts (x.rate port)) (x.burst port * 1024 : Nat)

/-- Every regulator port of every enabled partition gains credit at its rate, up to its burst; the host and the Seam link
have the rate in each direction (R38). -/
def execRegulatorRefill (s : State) : Out :=
  .next (if s.die.inReset then s else
    { s with ptn := { s.ptn with
      credit := s.enabledParts.foldl (fun (m : TMap Int) p =>
        [0, 1, 2, 3, 6, 7].foldl (fun m port =>
          m.set (8 * p + port) (refilled s.die.dramMts (s.part p) (port % 4) (m.get 0 (8 * p + port)))) m)
        s.ptn.credit } })

end Sys2Proof.Machine
end

