-- ==== Sys2Proof/Machine/HostObjects.lean ====
section
/-! DEFINITION. Contexts, queues, doorbells and events as the host commands them (R238, R244 to R256,
R294, R295). -/

namespace Sys2Proof.Machine

open Sys2Proof

/-- A command is dropped or refused: CMD_REJECTED (R261). -/
def State.reject (s : State) : State := s.feEvent 3

/-- FE_CTX_CMD with OP OPEN (R244): dropped before stage Fitting, on a follower and while BUSY; held while
an apply affects the partition that it names (R48). -/
def execFeCtxOpen (fn : Nat) (s : State) : Out :=
  .next (let s := s.hostWake true
    if !s.feUp then s
    else if s.fe.ctxBusy || !s.leader then s.reject
    else if s.die.stage = .tack && !s.fe.halted then s.reject
    else if s.affectedNow s.openPart then
      { s with fe := { s.fe with ctxBusy := true, openWaits := some fn } }
    else s.openNow fn)

/-- The errors that a destroy meets at slots, events and records lose its context, the first one first (R252, R305). -/
def State.destroyErrors (s : State) (c : Nat) (es : List LosingError) : State :=
  es.foldl (fun s e => s.loseCore c (lossRecord s c 0 e)) s

/-- Steps 1 to 3 of R294 for one queue: it enters DESTROYING, its commands are killed and not re-run, and
the events of its unfinished EVENT_RECORD slots are failed. -/
def State.startDestroy (s : State) (q : Nat) (status : U8) : State :=
  let x := s.queue q
  let s := (s.jobs.filter (fun e => e.2.queue == q && e.2.ctx == x.ctx)).foldl (fun s e => s.abandon e.1) s
  let f := s.failQueue q status
  let s := f.1.updQueue q (fun y => { y with
    state := .destroying, destroyStatus := status, owed := 0, waiting := false,
    endedWithout := BitVec.ofNat 32 x.unfinished.length })
  s.destroyErrors x.ctx f.2

/-- Steps 4 and 5 of R294: the destroy record, RPTR, and FREE (R295). A record whose place fails its checks is an error of
the context (R252, R310). -/
def State.endDestroy (s : State) (q : Nat) (stamp : U32) : State :=
  let x := s.queue q
  let t := s.complete q
    { status := x.destroyStatus, opcode := 0, handle := x.endedWithout, stamp := stamp,
      strict := (s.ctx x.ctx).strict }
  let s := t.1.updQueue q (fun y => { y with state := .free, ownDestroy := false })
  s.destroyErrors x.ctx (t.2.toList.map (fun e => e.error .write))

/-- FE_CTX_CMD with OP DESTROY (R247 steps 1 to 3): the status must be ABORTED or PRODUCER_LOST, and the
context neither CLOSED nor DESTROYING. -/
def execFeCtxDestroy (v : U32) (s : State) : Out :=
  .next (let s := s.hostWake true
    let c := v.toNat % 256
    let status : U8 := (v >>> 16).truncate 8
    let x := s.ctx c
    if !s.feUp then s
    else if s.fe.ctxBusy || !s.leader then s.reject
    else if (status ≠ 0x01 && status ≠ 0x05) || x.state = .closed || x.state = .destroying then s.reject
    else
      let s := { s with fe := { s.fe with ctxBusy := true } }
      let s := s.updCtx c (fun x => { x with
        state := .destroying, destroyStatus := status, held := none, outstanding := false })
      let s := s.killAll c
      let s := ((s.queuesOf c).filter (fun q => (s.queue q).state ≠ .destroying)).foldl
        (fun s q => s.startDestroy q status) s
      s.settle)

/-- The granules of a context are cleared and freed (R188, R247 step 5). -/
def State.freeGranules (s : State) (c : Nat) : State :=
  let mine := (s.spl.grans.filter (fun g => g.2.st == .alloc && g.2.ctx == c)).map Prod.fst
  let inMine := fun a => target a == 3 && mine.contains (a % 2 ^ 50 / 2 ^ 24 * 256 + a % 2 ^ 24 / 0x10000)
  { s with
    mem := s.mem.keep (fun a => !inMine a),
    frames := s.frames.filter (fun f => !inMine (f.1 * 0x10000)),
    spl := { s.spl with grans := s.spl.grans.filter (fun g => !mine.contains g.1) } }

/-- FE_QUEUE_RESULT and QUEUE_DONE. -/
def State.queueDone (s : State) (status reason : U8) : State :=
  { s with fe := { s.fe with queueBusy := false, queueStatus := status, queueReason := reason } }
    |>.feEvent 1

/-- Once the context's writes are accepted (R247 steps 4 to 6): its queues' destroy records, its deltas,
translations and granules, and CLOSED. -/
def execContextDestroyDrained (c : Nat) (s : State) : Out :=
  .next (if (s.ctx c).state ≠ .destroying then s else
    let (n, s) := s.free
    let s := ((s.queuesOf c).filter (fun q => (s.queue q).state = .destroying)).foldl
      (fun s q =>
        let own := (s.queue q).ownDestroy
        let s := s.endDestroy q (BitVec.ofNat 32 n)
        if own then s.queueDone 0 0 else s) s
    let s := s.flushDeltas (fun d => d.ctx == c)
    let s := { s with mmu := s.mmu.drop c 0 0 }
    let s := s.freeGranules c
    let s := s.updCtx c (fun x => { x with state := .closed, graphs := [], saved := [] })
    (s.ctxDone 0 0 c).settle)

/-- A ring of `2^order` entries of `size` bytes is aligned to its size and to 4 KiB (R248). -/
def ringOk (a order size : Nat) : Bool := decide (a < 2 ^ 52) && a % max 4096 (size * 2 ^ order) == 0

/-- REASON of a queue descriptor's 64 bytes (R249), with its fields, context, index, counts and ring
addresses checked in that order; 0 where all pass. -/
def State.queueReason (s : State) (b : List U8) : Nat :=
  let q := field b 0 2
  let c := field b 2 1
  let x := s.ctx c
  let p := s.part x.partition
  let fieldsOk := decide (field b 3 1 ≤ 4) && decide (4 ≤ field b 4 1) && decide (field b 4 1 ≤ 8) &&
    decide (4 ≤ field b 5 1) && decide (field b 5 1 ≤ 12) && decide (field b 6 2 < 2) &&
    ringOk (field b 8 8) (field b 4 1) 64 && ringOk (field b 16 8) (field b 5 1) 32 &&
    decide (field b 24 8 < 2 ^ 52) && field b 24 8 % 8 == 0 && field b 32 32 == 0
  let mine := s.queuesOf c
  if !fieldsOk then 4
  else if x.state ≠ .running then 2
  else if q < p.qFirst.toNat || p.qFirst.toNat + p.qCount.toNat ≤ q || 1024 ≤ q || (s.queue q).state ≠ .free then 1
  else if 16 ≤ mine.length || (field b 3 1 = 4 && mine.any (fun q => (s.queue q).cls == 4)) then 3
  else if !(s.windowOk x.partition (field b 8 8) (64 * 2 ^ field b 4 1) false &&
      s.windowOk x.partition (field b 16 8) (32 * 2 ^ field b 5 1) true &&
      s.windowOk x.partition (field b 24 8) 8 true) then 5
  else 0

/-- The queue that an accepted descriptor creates (R249, R263). -/
def queueOf (b : List U8) : Queue :=
  { state := .active, cls := field b 3 1, ctx := field b 2 1, sqOrder := field b 4 1, cqOrder := field b 5 1,
    notify := field b 6 2 % 2 == 1, sqBase := field b 8 8, cqBase := field b 16 8, rptr := field b 24 8 }

/-- FE_QUEUE_CMD with OP CREATE (R249). -/
def execFeQueueCreate (s : State) : Out :=
  .next (let s := s.hostWake true
    let a := s.fe.queueDesc
    if !s.feUp then s
    else if s.fe.queueBusy || !s.leader || s.fe.halted then s.reject
    else if !((target a == 0 && decide (a + 64 ≤ s.capacity)) || target a == 2) then s.queueDone 0x21 5
    else if s.failing a 64 then (s.dramRecord a false).queueDone 0x21 5
    else
      let b := s.peek a 64
      let x := s.ctx (field b 2 1)
      if x.state ≠ .closed && !s.windowOk x.partition a 64 false then s.queueDone 0x21 5
      else
        match s.queueReason b with
        | 0 => ({ s with queues := s.queues.set (field b 0 2) (queueOf b) }).queueDone 0 0
        | n => s.queueDone 0x21 (BitVec.ofNat 8 n))

/-- FE_QUEUE_CMD with OP DESTROY (R294 steps 1 to 3). -/
def execFeQueueDestroy (q : Nat) (s : State) : Out :=
  .next (let s := s.hostWake true
    let x := s.queue q
    if !s.feUp then s
    else if s.fe.queueBusy || !s.leader || x.state = .free || x.state = .destroying then s.reject
    else
      let s := { s with fe := { s.fe with queueBusy := true } }
      ((s.startDestroy q 0x01).updQueue q (fun y => { y with ownDestroy := true })).settle)

/-- Engines are idle and writes accepted: the destroy record is written and the queue is FREE (R294 steps 4
and 5, R295). -/
def execQueueDestroyRecord (q : Nat) (stamp : U32) (s : State) : Out :=
  .next (if (s.queue q).state ≠ .destroying then s
    else
      let own := (s.queue q).ownDestroy
      let s := s.endDestroy q stamp
      if own then s.queueDone 0 0 else s)

/-- FE_QUEUE_CMD with OP CONTINUE (R251, R261). -/
def execFeQueueContinue (q : Nat) (s : State) : Out :=
  .next (let s := s.hostWake true
    if !s.feUp then s
    else if s.fe.queueBusy || !s.leader || (s.queue q).state ≠ .halted then s.reject
    else (s.updQueue q (fun x => { x with state := .active })).queueDone 0 0)

/-- The state that a queue's window shows: with no room it is STALLED (R251). -/
def Queue.shown (q : Queue) : QueueState := if q.state == .active && q.room == 0 then .stalled else q.state

/-- A doorbell write is dropped and counted (R250). -/
def State.dropDoorbell (s : State) (q : Nat) : State :=
  (s.updQueue q (fun x => { x with dropped := satAdd32 x.dropped 1 })).feEvent 4

/-- The states in which a queue takes doorbells (R250). -/
def Queue.rings (q : Queue) : Bool := q.state == .active || q.state == .stalled || q.state == .halted

/-- A write of the slot write index (R250). -/
def State.ring (s : State) (q : Nat) (v : U32) : State :=
  let x := s.queue q
  if !x.rings then s.dropDoorbell q
  else if v = x.sqWrite then s
  else if (v - x.sqWrite).toNat < 2 ^ 31 && (v - x.sqRead).toNat ≤ 2 ^ x.sqOrder then
    s.updQueue q (fun x => { x with sqWrite := v })
  else s.dropDoorbell q

/-- A write of the completion read index (R250, R251). -/
def State.consume (s : State) (q : Nat) (v : U32) : State :=
  let x := s.queue q
  if !x.rings then s.dropDoorbell q
  else if (v - x.cqRead).toNat ≤ (x.cqWrite - x.cqRead).toNat then
    s.updQueue q (fun x =>
      let y := { x with cqRead := v }
      if y.state = .stalled && y.room ≠ 0 then { y with state := .active } else y)
  else s.dropDoorbell q

/-- The functions' event commands (R256): the check of the object's address and readability, and then the
update. -/
def State.eventCmd (s : State) (fn : Nat) (k : State → Nat → State) : State :=
  let a := s.fe.eventAddr
  let done := fun (s : State) (st : U8) => ({ s with fe := { s.fe with eventStatus := st } }).feEvent 2
  if !s.leader || s.fe.halted then s.reject
  else if !(s.windowOk fn a 16 false && s.windowOk fn a 16 true) then done s 0x33
  else if s.failing a 16 then done (s.dramRecord a false) 0x01
  else done (k s a) 0x00

/-- The error word's parts in FE_EVENT_CMD: ERROR and PRODUCER (R261). -/
def evError (v : U32) : Nat := v.toNat / 256 % 256
def evProducer (v : U32) : Nat := v.toNat / 2 ^ 16

/-- FE_EVENT_CMD SIGNAL (R254, R256). -/
def execFeEventSignal (fn : Nat) (v : U32) (s : State) : Out :=
  .next (let s := s.hostWake true
    if !s.feUp then s else s.eventCmd fn (fun s a =>
    let r := (s.event a).signal s.fe.eventValue.toNat (evError v) (evProducer v)
    let s := { s with fe := { s.fe with
      eventIgnored := r.2, ignoredCount := if r.2 then satAdd32 s.fe.ignoredCount 1 else s.fe.ignoredCount } }
    s.putEvent a fn r.1 (!r.2)))

/-- FE_EVENT_CMD FAIL (R254, R256). -/
def execFeEventFail (fn : Nat) (v : U32) (s : State) : Out :=
  .next (let s := s.hostWake true
    if !s.feUp then s else s.eventCmd fn (fun s a =>
    let e := s.event a
    s.putEvent a fn (e.fail (evError v) (evProducer v)) (e.error == 0)))

/-- FE_EVENT_CMD RESET (R254, R256). -/
def execFeEventReset (fn : Nat) (_v : U32) (s : State) : Out :=
  .next (let s := s.hostWake true
    if !s.feUp then s else s.eventCmd fn (fun s a =>
    s.putEvent a fn ((s.event a).reset s.fe.eventValue.toNat) true))

/-- A write of ID_APERTURE.BASE; a window that would reach beyond the installed capacity is refused (R238). -/
def execIdApertureWrite (v : U32) (s : State) : Out :=
  .next (let s := s.hostWake false
    if s.feUp && decide ((v.toNat % 256 + 1) * 2 ^ 28 ≤ s.die.dramMib * 2 ^ 20) then
      { s with die := { s.die with aperture := v.truncate 8 } }
    else s)

end Sys2Proof.Machine
end

