-- ==== Sys2Proof/Machine/Slots.lean ====
section
/-! DEFINITION. Queue slots: their forms, their fetch and order, the records that end them, and the
handling of faults on a command's own accesses (R229 to R233, R248, R251, R252, R265 to R268). -/

namespace Sys2Proof.Machine

open Sys2Proof

/-! ### The form of a slot -/

def slotOp (b : List U8) : Nat := field b 0 1
def slotNonRestart (b : List U8) : Bool := field b 1 1 % 2 == 1
def slotOverlap (b : List U8) : Bool := field b 1 1 / 2 % 2 == 1
def slotTimeout (b : List U8) : Nat := field b 4 4
def slotHandle (b : List U8) : U32 := BitVec.ofNat 32 (field b 8 4)
def slotPayload (b : List U8) : List U8 := (b.drop 16).take 48

/-- The payload of a COMPRESS or DECOMPRESS slot or node, given from its first byte (R377). -/
def streamFormed (compress : Bool) (p : List U8) : Bool :=
  let mode := field p 20 1
  aligned (field p 0 8) (if compress then 256 else 64) && aligned (field p 8 8) (if compress then 64 else 256) &&
    decide (1 ≤ field p 16 4) && decide (field p 16 4 ≤ 2 ^ 24) && decide (mode < 32) && field p 21 3 == 0 &&
    (if mode / 2 % 2 = 1 then aligned (field p 24 8) 64 else field p 24 8 == 0) &&
    aligned (field p 32 8) 64 && aligned (field p 40 8) 32

/-- The payload of a COPY, FILL, COMPRESS, DECOMPRESS or BASTE by its node type (R266, R272). -/
def engineFormed (kind : Nat) (p : List U8) : Bool :=
  match kind with
  | 4 => zeroFrom p 24
  | 5 => field p 8 8 % 4 == 0 && zeroFrom p 20
  | 6 => streamFormed true p
  | 7 => streamFormed false p
  | 8 => aligned (field p 0 8) 64 && zeroFrom p 8
  | _ => true

/-- The node type of a slot that names an engine command (R266, R272). -/
def opKind (op : Nat) : Option Nat :=
  match op with
  | 2 => some 4 | 3 => some 5 | 4 => some 6 | 5 => some 7 | 6 => some 8
  | _ => none

/-- The opcodes of a command-stream level (R267). -/
def levelOps (level : Nat) : List Nat :=
  if level = 2 then [0x01, 0x02, 0x03, 0x10, 0x11, 0x22, 0x30, 0x3F]
  else [0x01, 0x02, 0x03, 0x04, 0x05, 0x06, 0x10, 0x11, 0x20, 0x21, 0x22, 0x30, 0x31, 0x3F]

/-- The queue class takes the opcode (R248). -/
def classTakes (cls op : Nat) : Bool :=
  if cls = 4 then [0x20, 0x21, 0x22, 0x3F].contains op else !([0x20, 0x21, 0x22].contains op)

/-- A slot's opcode is available and its layout is as R265 and R266 give. -/
def slotFormed (level cls : Nat) (b : List U8) : Bool :=
  let op := slotOp b
  let p := slotPayload b
  (levelOps level).contains op && classTakes cls op && decide (field b 1 1 < 4) && field b 2 2 == 0 &&
    field b 12 4 == 0 &&
    (match op with
     | 0x01 => field p 6 2 == 0 && zeroFrom p 24
     | 0x10 => zeroFrom p 17
     | 0x11 => zeroFrom p 16
     | 0x20 => field p 2 2 == 0 && zeroFrom p 8
     | 0x21 => field p 2 2 == 0 && zeroFrom p 8
     | 0x22 => field p 2 2 == 0 && zeroFrom p 8
     | 0x30 => zeroFrom p 12
     | 0x31 => (field p 4 1 == 1 || field p 4 1 == 2) && decide (field p 5 1 < 2) && zeroFrom p 24
     | 0x3F => zeroFrom p 0
     | _ => engineFormed ((opKind op).getD 0) p)

/-! ### Physical accesses on behalf of a context -/

/-- A context is lost for a physical access on its behalf that fails its checks (R252, R310). -/
def State.losePhysical (s : State) (c : Nat) (e : PhysFail) (acc : Access) : State :=
  s.lose c (lossRecord s c 0 (e.error acc))

/-- The state after such an access where it succeeds, and the loss where it does not. -/
def State.orLose (r : State × Option PhysFail) (c : Nat) : State :=
  match r.2 with
  | none => r.1
  | some e => r.1.losePhysical c e .write

/-- A context is lost for an undefined encoding (R81, R267). -/
def State.loseUndefined (s : State) (c : Nat) : State := s.lose c (lossRecord s c 0 (.trap 1 0 0 0 0))

/-- A context's command reads the `n` bytes at a physical address (R252, R310). -/
def State.readFor (s : State) (c a n : Nat) (k : State → List U8 → State) : State :=
  match s.physFail c a n false with
  | some e => s.losePhysical c e .read
  | none => k s (s.peek a n)

/-- A completion record is written, its place and RPTR passing the checks (R252, R280). -/
def State.record (s : State) (q : Nat) (r : CompRec) : State := State.orLose (s.complete q r) (s.queue q).ctx

/-- A slot ends with a record: the record, the sticky status, and its place among the finished slots
(R268, R280, R294). -/
def State.endSlot (s : State) (q : Nat) (i : U32) (r : CompRec) : State :=
  let s := s.record q r
  s.updQueue q (fun x =>
    let x := x.finish i
    if x.sticky = 0 && r.status ≠ 0 then { x with sticky := r.status } else x)

/-! ### Fetch and order -/

/-- The leader's Shuttle dispatches: the die is at stage Fitting or Finished, in Run, and no restart,
lost link or entry to a sleep state holds it. -/
def State.dispatching (s : State) : Bool :=
  !s.die.inReset && s.leader && (s.die.stage == .fitting || s.die.stage == .finished) && !s.fe.halted && !s.fe.awaitHost &&
    s.pwr.state == .run && s.pwr.entry.isNone

/-- Dispatch to partition `p` is held by an apply or a halt request (R46, R52). -/
def State.quiet (s : State) (p : Nat) : Bool := s.affectedNow p || bit s.ptn.haltReq p

/-- A killed command of the queue waits to run again, with its packs or for them (R270). -/
def State.rerunIn (s : State) (q : Nat) : Bool :=
  s.jobs.any (fun e => e.2.queue == q && (e.2.st == .rerun || (e.2.st == .packWait && e.2.kills != 0)))

/-- A suspended operation of the queue waits for RESUME or CANCEL: the queue takes no further slot (R282). -/
def State.suspendedIn (s : State) (q : Nat) : Bool :=
  s.jobs.any (fun e => e.2.queue == q && (e.2.st == .suspended || e.2.launch.any (·.suspended)))

/-- The slot at SQ_READ is taken: the index advances and RPTR follows (R248, R250). -/
def State.take (s : State) (q : Nat) : State :=
  let s := s.updQueue q (fun x => { x with sqRead := x.sqRead + 1 })
  State.orLose (s.putRptr q) (s.queue q).ctx

/-- The record of a slot that counted no work: a LAUNCH's is a whole-launch record, and a COPY, FILL, COMPRESS or
DECOMPRESS counts in memory cycles (R279, R280). -/
def slotRecord (s : State) (q : Nat) (b : List U8) (status : U8) (stamp : U32) : CompRec :=
  { status := status, opcode := BitVec.ofNat 8 (slotOp b), handle := slotHandle b,
    strict := (s.ctx (s.queue q).ctx).strict, launch := slotOp b == 0x01,
    memory := [0x02, 0x03, 0x04, 0x05].contains (slotOp b), stamp := stamp }

/-- The slot at SQ_READ takes effect whole: it is taken and ends with a record. -/
def State.endHead (s : State) (q : Nat) (b : List U8) (status : U8) (stamp : U32) : State :=
  let i := (s.queue q).sqRead
  let c := (s.queue q).ctx
  let s := s.take q
  if (s.ctx c).state = .lost then s else s.endSlot q i (slotRecord s q b status stamp)

/-- What the slot at a queue's read index is. -/
inductive Head where
  /-- nothing that can be taken now -/
  | none
  /-- the fetch itself changed the state: a loss, no completion room, or the end of a cancelled slot -/
  | ended (s : State)
  | slot (b : List U8)
deriving DecidableEq, Repr

/-- The slot at SQ_READ is fetched and checked (R251, R252, R265 to R268). -/
def State.head (s : State) (q : Nat) : Head :=
  let x := s.queue q
  let c := x.ctx
  let y := s.ctx c
  if !s.dispatching || x.state ≠ .active || x.sqRead = x.sqWrite || x.waiting then .none
  else if y.state ≠ .running && y.state ≠ .faultWait then .none
  else
    let a := x.slotAddr x.sqRead
    match s.physFail c a 64 false with
    | some e => .ended (s.losePhysical c e .read)
    | none =>
      let b := s.peek a 64
      if !slotFormed y.csLevel.toNat x.cls b then .ended (s.loseUndefined c)
      else if x.room = 0 then .ended (s.updQueue q (fun x => { x with state := .stalled }))
      else if x.cls = 4 then .slot b
      else if s.quiet y.partition || s.rerunIn q || s.suspendedIn q || x.holds.contains x.sqRead then .none
      else if x.oldest = x.sqRead || (slotOverlap b && decide (slotOp b ≤ 6)) then
        if x.cancels.contains x.sqRead then
          let (n, s) := s.free
          let s := s.updQueue q (fun x => { x with cancels := x.cancels.filter (· != x.sqRead) })
          .ended (s.endHead q b 0x01 (BitVec.ofNat 32 n))
        else .slot b
      else .none

/-- The meaning of a slot's row: the head slot where it has one of the opcodes and satisfies the row's
test, else the effect of the fetch alone. -/
def State.withHead (s : State) (q : Nat) (f : List U8 → Bool) (k : List U8 → State) : State :=
  match s.head q with
  | .none => s
  | .ended t => t
  | .slot b => if f b then k b else s

/-! ### Faults of a command's accesses -/

/-- The stitch counter of a command in fault records, with the TILE in progress (R166, R301). -/
def Job.stitch64 (j : Job) : U64 := BitVec.ofNat 64 (j.stitch + j.tile % 2 ^ 16)

/-- The record of a replayable fault (R302). -/
def pageRecord (s : State) (v : Job) (f : ProbeFail) (level : Nat) : FaultRec :=
  { status := 0x04, source := 0x01, context := BitVec.ofNat 16 v.ctx, stitch := v.stitch64,
    addr := BitVec.ofNat 64 f.va,
    info := BitVec.ofNat 32 (accessCode f.acc + level * 16 + min (f.hi - f.lo + 1) 0xFFFF * 256),
    die := s.dieNo == 1 }

/-- A replayable fault (R230, R231): the command is killed and waits; the first of its context writes or
holds a record and puts the context into FAULT_WAIT, a later one merges, and marks a record that is not yet written
(R305). -/
def State.replay (s : State) (j : Nat) (v : Job) (r : FaultRec) : State :=
  let c := v.ctx
  let s := s.kill j 2 .faultWait
  let s := s.updCtx c (fun x => { x with faults := satAdd32 x.faults 1 })
  let x := s.ctx c
  if x.state = .faultWait then
    s.updCtx c (fun x => { x with
      merged := satAdd32 x.merged 1
      held := x.held.map (fun h => { h with merged := true })
      fltMerged := if x.held.isSome then satAdd32 x.fltMerged 1 else x.fltMerged })
  else
    let s := s.updCtx c (fun x => { x with state := .faultWait, outstanding := true, faulting := some r })
    if 2 ^ x.fqOrder ≤ (x.fqWrite - x.fqRead).toNat then s.updCtx c (fun x => { x with held := some r })
    else
      let t := s.ctxRecord c r
      if t.2.isSome then State.orLose t c else t.1.mmuEvent 0

/-- A probe of a command's access has failed (R228 to R230): the context's fault registers, and the
outcome of the governing failure. An access that waits for an invalidation changes nothing, and is made again (R226). -/
def State.failJob (s : State) (j : Nat) (f : ProbeFail) (requester : Nat) : State :=
  match s.jobs.find j with
  | none => s
  | some v =>
    let c := v.ctx
    let span := min (f.hi - f.lo + 1) 0xFFFF
    if f.x = .wait then s else
    let s := s.updCtx c (fun x => { x with faultPage := BitVec.ofNat 37 f.lo, faultSpan := BitVec.ofNat 16 span })
    match f.x with
    | .ok _ => s
    | .wait => s
    | .fatal n l =>
      s.lose c (lossRecord s c v.stitch64
        (.translation (BitVec.ofNat 4 n) f.acc (BitVec.ofNat 4 l) (BitVec.ofNat 64 f.va) (BitVec.ofNat 16 span)))
    | .selvedge pa =>
      s.lose c (lossRecord s c v.stitch64 (.selvedge f.acc (BitVec.ofNat 4 requester) (BitVec.ofNat 64 pa)))
    | .dram pa =>
      s.lose c (lossRecord s c v.stitch64 (.dram (BitVec.ofNat 4 (dramChannel pa)) (BitVec.ofNat 64 pa)))
    | .replay l =>
      let r := pageRecord s v f l
      if v.nonRestart then s.lose c { r with status := 0x02, lost := true, loss := 0x02 }
      else (s.replay j v r).settle

/-- A program's own error ends its command and loses the context (R81). -/
def State.loseJob (s : State) (j : Nat) (e : LosingError) : State :=
  match s.jobs.find j with
  | none => s
  | some v => s.lose v.ctx (lossRecord s v.ctx v.stitch64 e)

/-- A failing DRAM line among the bytes of a virtual range that a probe has passed. -/
def State.dramAt (s : State) (c va n : Nat) (acc : Access) (wr : Bool) : Option Nat :=
  (pieces va n).findSome? (fun q =>
    let pa := s.physOf c q.1 acc
    if (if wr then s.failingPart pa q.2 else s.failing pa q.2) then some (s.failedAt pa q.2 wr) else none)

/-- Accesses that a probe has passed: they wait while the partition holds no credit, where they are to `pay` (R23, R38), and
a failing line among them ends the command (R310). -/
def State.passed (s : State) (pay : Bool) (j : Nat) (v : Job) (ranges : List (Nat × Nat × Access)) (k : State → State) :
    State :=
  if pay && !s.funded v.ctx ranges then s else
  match ranges.findSome? (fun r => s.dramAt v.ctx r.1 r.2.1 r.2.2 (r.2.2 == .write)) with
  | some pa => s.loseJob j (.dram (BitVec.ofNat 4 (dramChannel pa)) (BitVec.ofNat 64 pa))
  | none => k s

/-- A command's ranges are probed, and then read and written by the continuation; a failure ends the
command's run (R229, R310). A requester that is no core has neither leaf buffers nor an L1 or L2, and what the Shuttle
moves for itself is control traffic, which no regulator counts (R23, R302). -/
def State.probedAs (s : State) (pay : Bool) (j requester : Nat) (ranges : List (Nat × Nat × Access))
    (k : State → State) : State :=
  let s := if requester = 0 then s else s.on none
  match s.jobs.find j with
  | none => s
  | some v =>
    match s.probe v.ctx ranges with
    | (some f, s) => s.failJob j f requester
    | (none, s) =>
      s.passed pay j v ranges (fun s => k (if requester = 2 then s else s.traffic j v.ctx ranges))

/-- The same for an access that follows others of one step of its command. -/
def State.probed (s : State) (j requester : Nat) (ranges : List (Nat × Nat × Access)) (k : State → State) : State :=
  s.probedAs false j requester ranges k

end Sys2Proof.Machine
end

