-- ==== Sys2Proof/Machine/Place.lean ====
section
/-! DEFINITION. Placement of commands on cores, DMA channels and compression slots, the start of kernel
blocks, and the zero-fill before a start (R28, R39, R40, R66, R67, R157, R183, R269, R274, R371). -/

namespace Sys2Proof.Machine

open Sys2Proof

/-! ### Which cores -/

/-- The cores of a partition's realtime reserve: its live cores in descending logical index (R39). -/
def State.reserved (s : State) (p : Nat) : List Nat :=
  (bitsOf (s.liveCores p)).reverse.take (s.part p).reserve.toNat

/-- The live cores outside the reserve, ascending. -/
def State.unreserved (s : State) (p : Nat) : List Nat :=
  (bitsOf (s.liveCores p)).filter (fun k => !(s.reserved p).contains k)

/-- The mask of a list of cores. -/
def maskOf (ks : List Nat) : U64 := ks.foldl (fun m k => setBit m k true) 0

/-- A compute command runs on cores; the other kinds on a DMA channel or a compression engine. -/
def Job.compute (v : Job) : Bool := v.kind == 1 || v.kind == 2 || v.kind == 3

def State.strict (s : State) (v : Job) : Bool := (s.ctx v.ctx).strict

def State.classOf (s : State) (v : Job) : Nat := (s.queue v.queue).cls

/-- The commands of partition `p` on engines, launches apart. -/
def State.busyIn (s : State) (p : Nat) : List (Nat × Job) :=
  s.jobs.filter (fun e => e.2.onEngines && e.2.launch.isNone && (s.ctx e.2.ctx).partition == p)

/-- A strict compute command of the partition runs: it holds the unreserved cores, the DMA channels and the ports of the
Spool banks (R157). -/
def State.strictHolds (s : State) (p : Nat) : Bool := (s.busyIn p).any (fun e => e.2.compute && s.strict e.2)

/-- A set of cores can take the command: a strict one needs them, and the unreserved cores that it holds besides, free of
every other command, with no DMA channel and no stream at work; a relaxed one needs that no strict command holds
any of them (R157). -/
def State.setFree (s : State) (p : Nat) (v : Job) (ks : List Nat) : Bool :=
  let m := maskOf (ks ++ if s.strict v then s.unreserved p else [])
  if s.strict v then (s.busyIn p).all (fun e => (e.2.cores &&& m) == 0 && e.2.dma.isNone && e.2.cmp.isNone)
  else (s.busyIn p).all (fun e => !(s.strict e.2 && (e.2.cores &&& m) != 0))

/-- The sets of cores that a command may use, in the order in which the Shuttle tries them: a realtime command those of
the reserve, and any unreserved core too (R39); a strict one begins with the unreserved cores, which it holds in any case
(R157). -/
def State.coreSets (s : State) (v : Job) : List (List Nat) :=
  let p := (s.ctx v.ctx).partition
  let main := s.unreserved p
  let all := bitsOf (s.liveCores p)
  (if s.classOf v ≠ 0 then [main] else if s.strict v then [main, all] else [s.reserved p, main, all]).filter
    (fun ks => !ks.isEmpty)

/-- The lowest DMA channel of the partition that no command holds (R269). -/
def State.dmaFor (s : State) (v : Job) : Option Nat :=
  let p := (s.ctx v.ctx).partition
  if s.strictHolds p then none else
  (bitsOf (s.part p).dma).find? (fun d => !s.jobs.any (fun e => e.2.onEngines && e.2.dma == some d))

/-- The engine that gives a stream its slot: engine 0 first, then engine 1 (R371). -/
def State.cmpFor (s : State) (v : Job) : Option Nat :=
  let p := (s.ctx v.ctx).partition
  if s.strictHolds p then none else
  [0, 1].find? (fun e => decide (s.streamsOn p e < s.share p e))

/-- The lowest coding slot of an engine that no stream holds (R371). -/
def State.slotFor (s : State) (e : Nat) : Nat :=
  ((List.range 16).find? (fun k => !s.jobs.any (fun f => f.2.onEngines && f.2.cmp == some e && f.2.codingSlot == k))).getD 0

/-! ### Blocks -/

/-- What a kernel declares for each block (R273). -/
structure Shape where
  groups : Nat
  cluster : Nat
  regs : Nat
  bytes : Nat
  engines : Nat
  faithful0 : Bool
  faithful1 : Bool
deriving DecidableEq, Repr

/-- The declarations of a KERNEL payload, given from its first byte. -/
def shapeOf (p : List U8) : Shape :=
  let m := field p 22 1
  { groups := field p 16 1, cluster := field p 17 1, regs := field p 18 2, bytes := field p 20 2 * 1024,
    engines := m % 4, faithful0 := m / 4 % 2 == 1, faithful1 := m / 8 % 2 == 1 }

/-- The blocks of a kernel's grid. -/
def gridBlocks (p : List U8) : Nat := field p 8 4 * field p 12 2 * field p 14 2

/-- The payload of a KERNEL is as R273 gives. -/
def kernelFormed (p : List U8) : Bool :=
  let h := shapeOf p
  decide (1 ≤ h.groups) && decide (h.groups ≤ 16) && decide (1 ≤ h.cluster) && decide (h.cluster ≤ 8) &&
    h.regs % 8 == 0 && decide (8 ≤ h.regs) && decide (h.regs ≤ 256) && decide (h.bytes ≤ 0x40000) &&
    decide (h.engines ≤ 2) && decide (field p 22 1 < 16) && field p 23 1 == 0 && zeroFrom p 43

/-- The blocks whose local memory lies in core `k`: those that are not parked. -/
def State.onCore (s : State) (k : Nat) : List (Nat × Block) :=
  s.blocks.filter (fun b => b.2.core == k && !b.2.parked)

/-- The groups resident on vector engine `e` of core `k` (R55, R56). -/
def State.onEngine (s : State) (k e : Nat) : List Group :=
  (s.groups.filter (fun g => !g.2.retired && g.2.index % 4 == e &&
    (s.onCore k).any (fun b => b.1 == g.2.block))).map Prod.snd

/-- The lowest base at which `n` bytes of local memory fit in core `k` (R183). -/
def State.localBase (s : State) (k n : Nat) : Option Nat :=
  let bs := s.onCore k
  let free := fun a => decide (a + n ≤ 0x40000) &&
    bs.all (fun b => decide (a + n ≤ b.2.base) || decide (b.2.base + b.2.bytes ≤ a))
  ((0 :: bs.map (fun b => b.2.base + b.2.bytes)).filter free).foldl
    (fun m a => some (m.elim a (min a))) none

/-- A matrix layer holds core `k`, and with it the core's matrix engines (R107). -/
def State.layerOn (s : State) (k : Nat) : Bool := s.jobs.any (fun e => e.2.kind == 2 && e.2.onEngines && bit e.2.cores k)

/-- Where a block of a shape starts in core `k`, if the core has room (R56, R66). -/
def State.room (s : State) (k : Nat) (h : Shape) : Option Nat :=
  let bs := s.onCore k
  let regs := [0, 1, 2, 3].all (fun e =>
    let gs := s.onEngine k e
    let new := ((List.range h.groups).filter (fun g => g % 4 == e)).length
    decide (gs.length + new ≤ 16) && decide ((gs.map Group.n).sum + new * h.regs ≤ 1024))
  let eng := (bs.filter (fun b => !b.2.retired)).foldl (fun n b => n + b.2.engines) h.engines
  let held := h.engines != 0 && s.layerOn k
  if regs && decide (bs.length < 16) && decide (eng ≤ 2) && !held then s.localBase k h.bytes else none

/-- The next unused index of a table. -/
def freshKey {α : Type} (m : TMap α) : Nat := m.foldl (fun n e => max n (e.1 + 1)) 0

/-- The lowest resident slot that no group of an engine holds (R55). -/
def freeSlot (gs : List Group) : Nat :=
  ((List.range 16).find? (fun i => gs.all (fun g => g.slot != i))).getD 0

/-- The uniform registers of a block's start: the argument in u0 and u1, and the pack offsets in u60 to
u63 (R273, R290). -/
def startUregs (v : Job) : TMap U32 :=
  let arg : TMap U32 := [(0, v.arg.truncate 32), (1, (v.arg >>> 32).truncate 32)]
  (List.range 4).foldl (fun m i => m.set (60 + i) (BitVec.ofNat 32 ((v.packOffs[i]?).getD 0xFFFFFFFF))) arg

/-- What the registers of a group hold at its start is a free function of this number: of the launch, the node, the
block and the group, and of nothing that the run's past or place decides, since the command's bits may not depend on
those (R154). -/
def startSeed (v : Job) (linear g : Nat) : Nat := (v.stitch * 2 ^ 48 + linear) * 16 + g

/-- Group `g` of a block starts. -/
def State.startGroup (s : State) (j : Nat) (v : Job) (b linear k g regs : Nat) : State :=
  let x : Group :=
    { job := j, block := b, index := g, slot := freeSlot (s.onEngine k (g % 4)), n := regs, seed := startSeed v linear g,
      uregs := startUregs v }
  { s with groups := s.groups.set (freshKey s.groups) x }

/-- The groups of a block start. -/
def State.startGroups (s : State) (j : Nat) (v : Job) (b linear k groups regs : Nat) : State :=
  (List.range groups).foldl (fun s g => s.startGroup j v b linear k g regs) s

/-- The island of a core that takes a block is not gated (R414). -/
def State.ungate (s : State) (k : Nat) : State := { s with pwr := { s.pwr with gated := setBit s.pwr.gated k false } }

/-- A block starts at a base of core `k`: parked memory of the core is saved first, and the block's own
memory is clear (R66, R67, R283). -/
def State.startBlock (s : State) (j : Nat) (v : Job) (h : Shape) (linear cluster rank size k base : Nat) :
    State :=
  let s := s.saveParked (maskOf [k])
  let b := freshKey s.blocks
  let x : Block :=
    { job := j, linear := linear, cluster := cluster, rank := rank, size := size, core := k, base := base,
      bytes := h.bytes, groups := List.range h.groups, engines := h.engines, faithful0 := h.faithful0,
      faithful1 := h.faithful1 }
  ({ s with blocks := s.blocks.set b x }.ungate k).startGroups j v b linear k h.groups h.regs

/-- The block groups that a command's launch was dispatched under, or those of its partition (R40, R43). -/
def State.groupsOf (s : State) (v : Job) : TMap U32 :=
  ((v.parent.bind s.jobs.find).bind Job.launch).elim (s.part (s.ctx v.ctx).partition).groups Launch.groups

/-- The group identifier of core `k` (R40). -/
def groupId (groups : TMap U32) (k : Nat) : Nat := (groups.get 0 (k / 8)).toNat / 16 ^ (k % 8) % 16

/-- The `n` blocks from `linear` start together on cores of a list, each on the lowest core with room. -/
def State.placeOn (s : State) (j : Nat) (v : Job) (h : Shape) (cores : List Nat) (cluster size : Nat) :
    (n rank linear : Nat) → Option State
  | 0, _, _ => some s
  | n + 1, rank, linear =>
    match cores.findSome? (fun k => (s.room k h).map (fun b => (k, b))) with
    | none => none
    | some (k, b) =>
      State.placeOn (s.startBlock j v h linear cluster rank size k b) j v h cores cluster size n (rank + 1)
        (linear + 1)

/-- The core lists on which one block cluster may lie: any core for a single block, else the cores of one
hardware cluster with one group identifier, the lowest identifier first (R40, R66, R157). -/
def clusterSets (groups : TMap U32) (cores : List Nat) (size : Nat) : List (List Nat) :=
  if size = 1 then [cores] else
  (List.range 16).flatMap (fun id => (List.range 8).map (fun c =>
    cores.filter (fun k => k / 8 == c && groupId groups k == id)))

/-- The next block cluster of a kernel starts, if some place holds it whole. -/
def State.placeCluster (s : State) (j : Nat) (v : Job) (h : Shape) (cores : List Nat) : Option State :=
  let n := min h.cluster (gridBlocks v.payload - v.nextBlock)
  let c := freshKey s.blocks
  (clusterSets (s.groupsOf v) cores h.cluster).findSome? (fun ks => s.placeOn j v h ks c n n 0 v.nextBlock)

/-- Blocks of a running kernel start while cores have room (BLOCK_START, R66). -/
def State.startBlocks (s : State) (j : Nat) : (fuel : Nat) → State
  | 0 => s
  | fuel + 1 =>
    match s.jobs.find j with
    | none => s
    | some v =>
      if v.kind ≠ 1 || v.st ≠ .running || (v.suspending && v.parkable) || gridBlocks v.payload ≤ v.nextBlock then s else
      let h := shapeOf v.payload
      match s.placeCluster j v h (bitsOf (v.cores &&& s.liveCores (s.ctx v.ctx).partition)) with
      | none => s
      | some t =>
        State.startBlocks
          (t.updJob j (fun v => { v with nextBlock := min (v.nextBlock + h.cluster) (gridBlocks v.payload) }))
          j fuel

/-- A kernel whose grid has run whole is done: its engines have reported (R28). -/
def State.kernelDone (s : State) (j : Nat) : State :=
  s.updJob j (fun v =>
    if v.kind = 1 && v.st = .running && gridBlocks v.payload ≤ v.nextBlock && !s.blocks.any (fun b => b.2.job == j)
    then { v with st := .done } else v)

/-- A block cluster of the kernel fits the given cores when they are otherwise empty (R66). -/
def State.placeable (s : State) (v : Job) (cores : List Nat) : Bool :=
  let t := { s with blocks := [], groups := [], jobs := [] }
  (clusterSets (s.groupsOf v) cores (shapeOf v.payload).cluster).any (fun ks =>
    (t.placeOn 0 v (shapeOf v.payload) ks 0 (shapeOf v.payload).cluster (shapeOf v.payload).cluster 0 0).isSome)

/-- The cores on which a compute command is placed now: the first set that is free for it, and on which the first block
cluster of a kernel finds room now (R66, R270); for a matrix layer or a render pass, those of the set whose matrix engines
or tile slots are not in use. -/
def State.coresFor (s : State) (v : Job) : Option (List Nat) :=
  let p := (s.ctx v.ctx).partition
  (s.coreSets v).findSome? (fun set =>
    if !s.setFree p v set then none else
    let ks := match v.kind with
      | 2 => set.filter (fun k => !s.layerOn k && !s.blocks.any (fun b => b.2.core == k && b.2.engines != 0))
      | 3 => set.filter (fun k => !(s.busyIn p).any (fun f => f.2.kind == 3 && bit f.2.cores k))
      | _ => if (s.placeCluster 0 v (shapeOf v.payload) set).isSome then set else []
    if ks.isEmpty then none else some ks)

/-- The cores that a placed command holds: a strict one holds every unreserved core besides (R157). -/
def State.coresHeld (s : State) (v : Job) (ks : List Nat) : U64 :=
  maskOf (ks ++ if s.strict v then s.unreserved (s.ctx v.ctx).partition else [])

/-! ### The zero-fill before a start -/

/-- An entry of a buffer table (R274). -/
structure Buffer where
  va : Nat
  bytes : Nat
  output : Bool
  accumulate : Bool
deriving DecidableEq, Repr

/-- The buffer table in `n` entries of bytes, none where an entry breaks R274. -/
def parseBuffers : (n : Nat) → List U8 → Option (List Buffer)
  | 0, _ => some []
  | n + 1, bs =>
    let f := field bs 12 4
    if f < 4 && aligned (field bs 0 8) 256 then
      (parseBuffers n (bs.drop 16)).map (fun l =>
        { va := field bs 0 8, bytes := field bs 8 4 * 256, output := f != 0, accumulate := f / 2 % 2 == 1 } :: l)
    else none

/-- The buffers of a compute node's table are read and its ACCUMULATE buffers zero-filled (R28, R274), which is traffic
of the command. -/
def State.zeroFill (s : State) (j table count : Nat) (k : State → State) : State :=
  match s.jobs.find j with
  | none => s
  | some v =>
    s.probed j 2 [(table, 16 * count, .read)] (fun s =>
      match parseBuffers count (s.vread v.ctx table (16 * count)) with
      | none => s.loseJob j (.trap 1 0 0 0 0)
      | some bs =>
        let acc := bs.filter Buffer.accumulate
        s.probed j 2 (acc.map (fun b => (b.va, b.bytes, .write))) (fun s =>
          let s := s.traffic j v.ctx (acc.map (fun b => (b.va, b.bytes, .write)))
          k (acc.foldl (fun s b =>
            (s.vwrite v.ctx b.va (List.replicate b.bytes 0)).noteVirtual j v.ctx b.va b.bytes) s)))

/-- A parked block goes on in core `k` at a base: its memory lies there still, or comes from the save area, where a
faulty unit loses the context (R283, R385). -/
def State.unparkAt (s : State) (b : Nat) (x : Block) (c k base : Nat) : State :=
  match x.saved with
  | none => { s with blocks := s.blocks.set b { x with parked := false } }.ungate x.core
  | some packed =>
    s.unitAt c (s.blockSave c x.core x.base) x.bytes packed
      (.sram 1 (BitVec.ofNat 8 k) (BitVec.ofNat 64 base)) (fun s bs =>
      let y := { x with parked := false, saved := none, core := k, base := base, mem := Mem.putBytes [] 0 bs }
      { s with blocks := s.blocks.set b y }.ungate k)

/-- The parked blocks of a command go on, each in its own core where its memory lies there still and otherwise on the
lowest of the command's cores with room (R283). -/
def State.unpark (s : State) (j : Nat) (v : Job) : State :=
  if v.suspending then s else
  (s.blocks.filter (fun e => e.2.job == j && e.2.parked)).foldl (fun (s : State) e =>
    let h := { shapeOf v.payload with bytes := e.2.bytes }
    let cores := bitsOf (v.cores &&& s.liveCores (s.ctx v.ctx).partition)
    if e.2.saved.isNone && cores.contains e.2.core then s.unparkAt e.1 e.2 v.ctx e.2.core e.2.base
    else
      let s := s.saveBlock e.1
      match s.blocks.find e.1, cores.findSome? (fun k => (s.room k h).map (fun a => (k, a))) with
      | some x, some (k, a) => (s.saveParked (maskOf [k])).unparkAt e.1 x v.ctx k a
      | _, _ => s) s

/-- A kernel whose grid has begun goes on after RESUME: its parked blocks, and then the blocks that have not started
(R282, R283). -/
def State.resumeKernel (s : State) (j : Nat) : State :=
  match s.jobs.find j with
  | none => s
  | some v => ((s.unpark j v).startBlocks j 1024).kernelDone j

/-- A kernel starts: accumulate buffers are zero-filled and blocks placed (R28). One whose block cluster no group
identifier of its partition can hold, with every bound core in service, loses its context (R66). -/
def State.startKernel (s : State) (j : Nat) : State :=
  match s.jobs.find j with
  | none => s
  | some v =>
    if !s.placeable v (bitsOf (s.part (s.ctx v.ctx).partition).cores) then s.loseJob j (.trap 1 0 0 0 0) else
    s.zeroFill j (field v.payload 32 8) (field v.payload 40 2) (fun s => (s.startBlocks j 1024).kernelDone j)

end Sys2Proof.Machine
end

