-- ==== Sys2Proof/Machine/Tensor.lean ====
section
/-! DEFINITION. Tensor descriptors, the elements and block scales they describe, and exponent summaries
(R83 to R89, R109, R110, R116, R121 to R124). -/

namespace Sys2Proof.Machine

open Sys2Proof

/-- A tensor descriptor (R110). -/
structure Td where
  base : Nat
  rows : Nat
  cols : Nat
  pitch : Nat
  fmt : Fmt
  space : Nat
  colMajor : Bool
  scaled : Bool
  /-- blocks of 32 along rows -/
  scaleRows : Bool
  summarised : Bool
  scaleAddr : Nat
  scalePitch : Nat
  summary : Nat
deriving DecidableEq, Repr

/-- A format may carry block scales (R82). -/
def Fmt.mayScale (f : Fmt) : Bool :=
  [Fmt.b1, .i2, .i4, .i8, .u8, .i16, .i32, .e2m1, .e3m2, .e2m3, .e4m3, .e5m2].contains f

/-- A descriptor's bytes, or the kind of the trap that it causes: 5 for a breach of R110, 1 for a reserved
format code or a format that may not be scaled (R82, R114). -/
def Td.parse (b : List U8) : Nat ⊕ Td :=
  let f := field b 25 1
  let space := f % 4
  let ok := decide (1 ≤ field b 8 4) && decide (field b 8 4 ≤ 2 ^ 26) && decide (1 ≤ field b 12 4) &&
    decide (field b 12 4 ≤ 2 ^ 26) && (space != 0 || decide (field b 0 8 < 2 ^ 49)) && decide (f < 64) &&
    decide (field b 24 1 < 32) && field b 26 6 == 0 && field b 44 4 == 0 && field b 56 8 == 0
  if !ok then .inl 5 else
  match Fmt.ofCode (field b 24 1) with
  | none => .inl 1
  | some fmt =>
    if f / 8 % 2 = 1 && !fmt.mayScale then .inl 1 else
    .inr { base := field b 0 8, rows := field b 8 4, cols := field b 12 4, pitch := field b 16 8, fmt := fmt,
           space := space, colMajor := f / 4 % 2 == 1, scaled := f / 8 % 2 == 1, scaleRows := f / 16 % 2 == 1,
           summarised := f / 32 % 2 == 1, scaleAddr := field b 32 8, scalePitch := field b 40 4,
           summary := field b 48 8 }

/-- The line of an element and its place in the line. DESIGN CHOICE: a BASE or PITCH that breaks the natural alignment
of elements of 8 bits or more is no error; such elements are read and written where they lie (assumption 105). -/
def Td.place (t : Td) (r c : Nat) : Nat × Nat := if t.colMajor then (c, r) else (r, c)

/-- Where the bits of an element lie: its first byte, its bit within it, and the bytes that hold it (R84). -/
def Td.where_ (t : Td) (r c : Nat) : Nat × Nat × Nat :=
  let (line, k) := t.place r c
  let b := k * t.fmt.bits
  (t.base + line * t.pitch + b / 8, b % 8, (b % 8 + t.fmt.bits + 7) / 8)

/-- The lines and the bytes of each that elements (r0, c0) to (r1, c1), both included, occupy. -/
def Td.lines (t : Td) (r0 c0 r1 c1 : Nat) : List (Nat × Nat) :=
  let (l0, k0) := t.place r0 c0
  let (l1, k1) := t.place r1 c1
  (List.range (l1 + 1 - l0)).map (fun i =>
    let a := t.base + (l0 + i) * t.pitch
    (a + k0 * t.fmt.bits / 8, (k1 * t.fmt.bits + t.fmt.bits + 7) / 8 - k0 * t.fmt.bits / 8))

/-- The address of the scale of element (r, c) (R110). -/
def Td.scaleAt (t : Td) (r c : Nat) : Nat :=
  if t.scaleRows then t.scaleAddr + c * t.scalePitch + r / 32 else t.scaleAddr + r * t.scalePitch + c / 32

/-- The scale bytes of elements (r0, c0) to (r1, c1), as ranges. -/
def Td.scaleLines (t : Td) (r0 c0 r1 c1 : Nat) : List (Nat × Nat) :=
  if !t.scaled then [] else
  if t.scaleRows then
    (List.range (c1 + 1 - c0)).map (fun i => (t.scaleAddr + (c0 + i) * t.scalePitch + r0 / 32, r1 / 32 + 1 - r0 / 32))
  else
    (List.range (r1 + 1 - r0)).map (fun i => (t.scaleAddr + (r0 + i) * t.scalePitch + c0 / 32, c1 / 32 + 1 - c0 / 32))

/-! ### The spaces of R79 -/

/-- The physical address of SPACE 3 offset `o` of partition `p`, none at or beyond its range (R177). -/
def State.spool3 (s : State) (p o : Nat) : Option Nat :=
  let z := s.die.part.bankMib * 2 ^ 20
  let banks := s.dies.flatMap (fun d => (bitsOf (s.ptn.parts.get {} (16 * d + p)).banks).map (fun b => (d, b)))
  (banks[o / z]?).map (fun e =>
    (if e.1 = s.dieNo then targetBase 3 else targetBase 1 + 3 * 2 ^ 48) + e.2 * 2 ^ 24 + o % z)

/-- An access to ranges of a partition's Spool offsets: reads of the sibling's banks spend Seam credit, and a request may
stall at a bank of this die; how many requests do is a free value (R38, R181, R194). -/
def State.spoolAccess (s : State) (p : Nat) (acc : Access) (rs : List (Nat × Nat)) : State :=
  let qs := rs.flatMap (fun r => (pieces r.1 r.2).filterMap (fun q => (s.spool3 p q.1).map (fun pa => (pa, q.2))))
  let s := qs.foldl (fun s q => if target q.1 = 1 && acc != .write then s.spend p (linkPort 1 false) q.2 else s) s
  (((qs.filter (fun q => target q.1 == 3)).map (fun q => q.1 % 2 ^ 50 / 2 ^ 24)).eraseDups).foldl (fun (s : State) b =>
    let (n, s) := s.free
    let w : BankWin := s.spl.banks.get {} b
    let w := { w with stalls := satAdd32 w.stalls (n % 2 ^ 32) }
    { s with spl := { s.spl with banks := s.spl.banks.set b w } }) s

/-- A block's memory: local memory of its own, or the target block's under a cluster-local address (R67,
R68). The answer is the block and the byte offset. DESIGN CHOICE: the bits of a cluster-local address above [20] are
ignored (assumption 106). -/
def State.localPlace (s : State) (b space a : Nat) : Option (Nat × Nat) :=
  match s.blocks.find b with
  | none => none
  | some x =>
    if space = 1 then some (b, a)
    else if x.size ≤ a / 2 ^ 18 % 8 then none
    else
      ((s.blocks.find? (fun e => e.2.job == x.job && e.2.cluster == x.cluster && e.2.rank == a / 2 ^ 18 % 8)).map
        (fun e => (e.1, a % 2 ^ 18)))

/-- The trap kind of an access of `n` bytes in a space other than global, none where it is in range (R68,
R81, R302). -/
def State.rangeTrap (s : State) (p b space a n : Nat) : Option Nat :=
  match space with
  | 0 => none
  | 3 => if (s.spool3 p a).isSome && (s.spool3 p (a + n - 1)).isSome then none else some 4
  | _ =>
    match s.localPlace b space a with
    | none => some 2
    | some (t, o) => if decide (o + n ≤ (s.blocks.find t).elim 0 Block.bytes) then none else some 2

/-- The bytes at an address of a space, for context `c` and block `b`; translated ranges have been probed. -/
def State.spaceRead (s : State) (c b space a n : Nat) : List U8 :=
  match space with
  | 0 => s.vread c a n
  | 3 => (pieces a n).flatMap (fun q => s.peek ((s.spool3 (s.ctx c).partition q.1).getD 0) q.2)
  | _ =>
    match s.localPlace b space a with
    | none => []
    | some (t, o) => (s.blocks.find t).elim [] (fun x => x.mem.bytes o n)

/-- The state with a block's local memory changed at an offset. -/
def State.localWrite (s : State) (b o : Nat) (bs : List U8) : State :=
  match s.blocks.find b with
  | none => s
  | some x => { s with blocks := s.blocks.set b { x with mem := x.mem.putBytes o bs } }

/-- Bytes written to virtual addresses by a summarising writer for its tensor (R123). -/
def State.vwriteTagged (s : State) (c va : Nat) (bs : List U8) : State :=
  State.vstore State.storeTagged s c va bs

/-- The state after bytes are written to an address of a space. -/
def State.spaceWrite (s : State) (c b space a : Nat) (bs : List U8) (tagged : Bool) : State :=
  match space with
  | 0 => if tagged then s.vwriteTagged c a bs else s.vwrite c a bs
  | 3 =>
    ((pieces a bs.length).foldl
      (fun st q =>
        let pa := (st.1.spool3 (s.ctx c).partition q.1).getD 0
        let t := if target pa = 1 then st.1.spend (s.ctx c).partition (linkPort 1 true) q.2 else st.1
        (if tagged then t.pokeTagged pa (st.2.take q.2) else t.poke pa (st.2.take q.2), st.2.drop q.2))
      (s, bs)).1
  | _ =>
    match s.localPlace b space a with
    | none => s
    | some (t, o) => s.localWrite t o bs

/-- A range of global or Spool space that a command's run has written is noted (R28). -/
def State.noteSpace (s : State) (j c space a n : Nat) : State :=
  match space with
  | 0 => s.noteVirtual j c a n
  | 3 => (pieces a n).foldl (fun s q =>
      match s.spool3 (s.ctx c).partition q.1 with
      | some pa => s.note j pa q.2
      | none => s) s
  | _ => s

/-! ### Elements -/

/-- The code of element (r, c). -/
def State.elemCode (s : State) (c b : Nat) (t : Td) (i j : Nat) : Nat :=
  let (a, sh, n) := t.where_ i j
  ofBytes (s.spaceRead c b t.space a n) / 2 ^ sh % 2 ^ t.fmt.bits

/-- The scale code of element (r, c); none where the tensor is not scaled. -/
def State.elemScale (s : State) (c b : Nat) (t : Td) (i j : Nat) : Option Nat :=
  if t.scaled then some (ofBytes (s.spaceRead c b t.space (t.scaleAt i j) 1)) else none

/-- An element's value: its code's value times its block's scale; scale 0xFF makes it a NaN (R87, R89). -/
def scaledVal (f : Fmt) (code : Nat) (scale : Option Nat) : FVal :=
  match scale with
  | none => f.decode code
  | some e => if e = 0xFF then .nan else FVal.mul (f.decode code) (.fin false 1 ((e : Int) - 127))

/-- The value of element (r, c) of a tensor (R87). -/
def State.elem (s : State) (c b : Nat) (t : Td) (i j : Nat) : FVal :=
  scaledVal t.fmt (s.elemCode c b t i j) (s.elemScale c b t i j)

/-- The larger of two exponents, where there are any. -/
def maxExpo : Option Int → Option Int → Option Int
  | none, y => y
  | x, none => x
  | some x, some y => some (max x y)

/-- The largest exponent of values (R116). -/
def largest (vs : List FVal) : Option Int := vs.foldl (fun m v => maxExpo m v.expo) none

/-- The 16-bit entry of an exponent; 0x8000 where there is none (R121). -/
def expoEntry : Option Int → Nat
  | none => 0x8000
  | some e => wrapTo 16 e

/-- The exponent of a 16-bit entry. -/
def entryExpo (n : Nat) : Option Int := if n % 2 ^ 16 = 0x8000 then none else some (signedOf 16 n)

/-! ### Side tables and frames -/

def Td.qc (t : Td) : Nat := (t.cols + 255) / 256
def Td.qr (t : Td) : Nat := (t.rows + 255) / 256

/-- The bytes of the side table (R121). -/
def Td.summaryBytes (t : Td) : Nat := 2 * (t.rows * t.qc + t.cols * t.qr)

/-- The address of row summary (r, q) and column summary (c, q) (R121). -/
def Td.rowEntry (t : Td) (r q : Nat) : Nat := t.summary + 2 * (r * t.qc + q)
def Td.colEntry (t : Td) (c q : Nat) : Nat := t.summary + 2 * (t.rows * t.qc + c * t.qr + q)

/-- The byte ranges of the whole tensor with its scales. -/
def Td.whole (t : Td) : List (Nat × Nat) :=
  t.lines 0 0 (t.rows - 1) (t.cols - 1) ++ t.scaleLines 0 0 (t.rows - 1) (t.cols - 1)

/-- The ranges as accesses to probe, where the space is translated. -/
def Td.accesses (t : Td) (rs : List (Nat × Nat)) (acc : Access) : List (Nat × Nat × Access) :=
  if t.space = 0 then rs.map (fun r => (r.1, r.2, acc)) else []

/-- The frames of a tensor's elements and of its side table, as physical frame numbers; host memory has
none (R123). -/
def State.tensorFrames (s : State) (c : Nat) (t : Td) : List Nat :=
  let virt := fun (rs : List (Nat × Nat)) => rs.flatMap (fun r =>
    (pieces r.1 r.2).flatMap (fun q => framesOf (s.physOf c q.1 .read) q.2))
  let own := match t.space with
    | 0 => virt (t.lines 0 0 (t.rows - 1) (t.cols - 1))
    | 3 => (t.lines 0 0 (t.rows - 1) (t.cols - 1)).flatMap (fun r => (pieces r.1 r.2).flatMap (fun q =>
        framesOf ((s.spool3 (s.ctx c).partition q.1).getD (targetBase 2)) q.2))
    | _ => []
  (own ++ virt [(t.summary, t.summaryBytes)]).eraseDups

/-- A tensor lies wholly in a space that R123 allows: no byte of it in host memory. -/
def State.tensorHome (s : State) (c : Nat) (t : Td) : Bool :=
  match t.space with
  | 0 => (t.lines 0 0 (t.rows - 1) (t.cols - 1)).all (fun r =>
      (pieces r.1 r.2).all (fun q => target (s.physOf c q.1 .read) != 2))
  | 3 => true
  | _ => false

/-- MANCHOR may use the tensor's summaries: every frame of it reads VALID (R124). -/
def State.summariesValid (s : State) (c : Nat) (t : Td) : Bool :=
  t.summarised && s.tensorHome c t && (s.tensorFrames c t).all (fun f => bit (s.frames.get 0 f) 0)

/-- The bits of a frame at a command's start, where `n` untagged writes had been made: both cleared, unless one has
reached the frame since (R123). -/
def State.frameSince (s : State) (n f : Nat) : BitVec 2 := if n < s.lastWrite.get 0 f then 2 else 0

/-- The start of a summarising command for a tensor, once for each side table of a run: the whole table is probed and
preset to 0x8000, and VALID and TOUCHED of the tensor's frames are cleared as at the run's start and noted for the commit
(R122, R123, R228). -/
def State.startSummary (s : State) (j c : Nat) (t : Td) (k : State → State) : State :=
  match s.jobs.find j with
  | none => s
  | some v =>
    if v.presets.contains t.summary then k s else
    let user := s.user
    s.probed j 2 [(t.summary, t.summaryBytes, .write)] (fun s =>
      let s := s.vwriteTagged c t.summary ((List.range (t.summaryBytes / 2)).flatMap (fun _ => [0x00, 0x80]))
      let s := s.noteVirtual j c t.summary t.summaryBytes
      let fs := s.tensorFrames c t
      let s := { s with frames := fs.foldl (fun m f => m.set f (s.frameSince v.started f)) s.frames }
      let s := s.updJob j (fun v => { v with
        sumFrames := (v.sumFrames ++ fs).eraseDups, presets := t.summary :: v.presets })
      k (s.on user))

/-- The commit of a summarising command: VALID of each frame whose TOUCHED is clear (R123). -/
def State.validate (s : State) (fs : List Nat) : State :=
  { s with frames := fs.foldl (fun m f => if bit (m.get 0 f) 1 then m else m.set f 1) s.frames }

/-- Exponents are combined into side-table entries by maximum (R122). -/
def State.joinSummary (s : State) (c a : Nat) (e : Option Int) : State :=
  let old := entryExpo (ofBytes (s.vread c a 2))
  s.vwriteTagged c a (toBytes 2 (expoEntry (maxExpo old e)))

/-- The whole side table of a tensor as bytes (R121). -/
def State.sideTable (s : State) (c : Nat) (t : Td) : List U8 :=
  let rows := (List.range t.rows).flatMap (fun r => (List.range t.qc).flatMap (fun q =>
    toBytes 2 (expoEntry (largest ((List.range (min 256 (t.cols - 256 * q))).map (fun k => s.elem c 0 t r (256 * q + k)))))))
  let cols := (List.range t.cols).flatMap (fun k => (List.range t.qr).flatMap (fun q =>
    toBytes 2 (expoEntry (largest ((List.range (min 256 (t.rows - 256 * q))).map (fun r => s.elem c 0 t (256 * q + r) k))))))
  rows ++ cols

/-- A command's descriptor is read and parsed; what is malformed traps, and a descriptor of local or
cluster-local memory does so for a command that runs no program (R110, R114). -/
def State.withTd (s : State) (j va : Nat) (program : Bool) (trap : State → Nat → State)
    (k : State → Td → State) : State :=
  match s.jobs.find j with
  | none => s
  | some v =>
    if va % 64 ≠ 0 then trap s 5 else
    s.probed j 0 [(va, 64, .read)] (fun s =>
      match Td.parse (s.vread v.ctx va 64) with
      | .inl n => trap s n
      | .inr t => if !program && (t.space = 1 || t.space = 2) then trap s 5 else k s t)

end Sys2Proof.Machine
end

