-- ==== Sys2Proof/Machine/Streams.lean ====
section
/-! DEFINITION. The commands of DMA channels and compression engines: COPY, FILL, COMPRESS, DECOMPRESS
and BASTE (R126, R266, R371 to R387, R492). -/

namespace Sys2Proof.Machine

open Sys2Proof

/-! ### Steps of 64 KiB -/

/-- The probe of one step in every buffer of a command, each given as its ranges: the failures of each buffer, and the
governing one with the failing pages of the buffer that holds the lowest (R492). -/
def State.stepProbe (s : State) (pay : Bool) (j requester : Nat) (buffers : List (List (Nat × Nat × Access)))
    (k : State → State) : State :=
  let s := s.on none
  match s.jobs.find j with
  | none => s
  | some v =>
    let r := buffers.foldl (fun (st : List ProbeFail × State) b =>
      match st.2.probe v.ctx b with
      | (some f, s) => (st.1 ++ [f], s)
      | (none, s) => (st.1, s)) ([], s)
    match r.1 with
    | [] => r.2.passed pay j v buffers.flatten k
    | f :: fs =>
      let gov := fs.foldl (fun g h =>
        if g.x.rank < h.x.rank || (h.x.rank == g.x.rank && decide (h.va < g.va)) then h else g) f
      let low := fs.foldl (fun g h => if h.lo < g.lo then h else g) f
      r.2.failJob j { gov with lo := low.lo, hi := low.hi } requester

/-- The engines of a command report done (R28). -/
def State.jobDone (s : State) (j : Nat) : State := s.updJob j (fun v => { v with st := .done })

/-- The bytes of a COPY, step by step. -/
def copySteps (j c : Nat) : (pay : Bool) → (fuel src dst n : Nat) → State → State
  | _, 0, _, _, _, s => s.jobDone j
  | pay, fuel + 1, src, dst, n, s =>
    if n = 0 then s.jobDone j else
    let m := min n 0x10000
    s.stepProbe pay j 1 [[(src, m, .read)], [(dst, m, .write)]] (fun s =>
      let s := s.traffic j c [(src, m, .read), (dst, m, .write)]
      copySteps j c false fuel (src + m) (dst + m) (n - m) (s.vwrite c dst (s.vread c src m)))

/-- `n` bytes of a repeated 32-bit value. -/
def fillBytes (v n : Nat) : List U8 := (List.range (n / 4)).flatMap (fun _ => toBytes 4 v)

/-- The bytes of a FILL, step by step. -/
def fillSteps (j c v : Nat) : (pay : Bool) → (fuel dst n : Nat) → State → State
  | _, 0, _, _, s => s.jobDone j
  | pay, fuel + 1, dst, n, s =>
    if n = 0 then s.jobDone j else
    let m := min n 0x10000
    s.stepProbe pay j 1 [[(dst, m, .write)]] (fun s =>
      let s := s.traffic j c [(dst, m, .write)]
      fillSteps j c v false fuel (dst + m) (n - m) (s.vwrite c dst (fillBytes v m)))

/-- A command of a node type that runs on its engine. -/
def State.withJob (s : State) (j kind : Nat) (k : State → Job → State) : State :=
  match s.jobs.find j with
  | none => s
  | some v => if v.kind = kind && v.st = .running then k s v else s

def execCopy (job : Nat) (s : State) : Out :=
  .next (s.withJob job 4 (fun s v =>
    let n := field v.payload 16 8
    copySteps job v.ctx true (n / 0x10000 + 1) (field v.payload 0 8) (field v.payload 8 8) n s))

def execFill (job : Nat) (s : State) : Out :=
  .next (s.withJob job 5 (fun s v =>
    let n := field v.payload 8 8
    fillSteps job v.ctx (field v.payload 16 4) true (n / 0x10000 + 1) (field v.payload 0 8) n s))

/-! ### Compression streams -/

/-- The payload of a stream command (R377). -/
structure StreamCmd where
  src : Nat
  dst : Nat
  blocks : Nat
  ratio : Nat
  cont : Bool
  final : Bool
  save : Bool
  statusNofit : Bool
  stateIn : Nat
  stateOut : Nat
  result : Nat
deriving DecidableEq, Repr

def streamCmd (p : List U8) : StreamCmd :=
  let m := field p 20 1
  { src := field p 0 8, dst := field p 8 8, blocks := field p 16 4, ratio := m % 2, cont := m / 2 % 2 == 1,
    final := m / 4 % 2 == 1, save := m / 8 % 2 == 1, statusNofit := m / 16 % 2 == 1,
    stateIn := field p 24 8, stateOut := field p 32 8, result := field p 40 8 }

/-- The slot size of the ratio. -/
def StreamCmd.slot (q : StreamCmd) : Nat := if q.ratio = 0 then 128 else 64

/-- The work cycles of a stream in a strict context, in memory cycles (R372). -/
def StreamCmd.work (q : StreamCmd) : Nat :=
  64 + 8 * q.blocks + (if q.cont then 130 else 0) + (if q.save then 130 else 0) + (if q.final then 1 else 0)

/-- The stream of a job as the codec sees it. -/
def Stream.codec (x : Stream) : StreamState := { hist := x.hist, blocks := x.blocks, nofit := x.nofit, crc := x.crc }

/-- The job's stream after the codec's. -/
def Stream.next (x : Stream) (y : StreamState) : Stream :=
  { x with
    block := x.block + 1, hist := y.hist, blocks := y.blocks, nofit := y.nofit, crc := y.crc }

/-- A stream state taken up at a command's start. -/
def Stream.ofCodec (y : StreamState) : Stream :=
  { hist := y.hist, blocks := y.blocks, nofit := y.nofit, crc := y.crc, nofit0 := y.nofit }

/-- The steps that block `i` of a command opens in its buffers (R492). A command that goes on at a block opens the steps
in which the block lies, and its state and result, anew. -/
def StreamCmd.opens (q : StreamCmd) (compress first : Bool) (i : Nat) : List (List (Nat × Nat × Access)) :=
  let inSize := if compress then 256 else q.slot
  let outSize := if compress then q.slot else 256
  let inEnd := inSize * q.blocks + (if !compress && q.final then 16 else 0)
  let outEnd := outSize * q.blocks + (if compress && q.final then 16 else 0)
  let step := fun base size last (acc : Access) =>
    let lo := i * size / 0x10000 * 0x10000
    if first || i * size % 0x10000 = 0 then [[(base + lo, min 0x10000 (last - lo), acc)]] else []
  let edge := fun base size last (acc : Access) =>
    -- the trailer that begins a step of its own
    if i + 1 = q.blocks && size * q.blocks % 0x10000 = 0 && size * q.blocks < last then
      [[(base + size * q.blocks, last - size * q.blocks, acc)]] else []
  step q.src inSize inEnd .read ++ step q.dst outSize outEnd .write ++
    edge q.src inSize inEnd .read ++ edge q.dst outSize outEnd .write ++
    (if i = 0 && q.cont then [[(q.stateIn, 4160, Access.read)]] else []) ++
    (if first then (if q.stateOut = 0 then [] else [[(q.stateOut, 4160, Access.write)]]) ++ [[(q.result, 32, Access.write)]]
    else [])

/-- The state with an engine's window changed. -/
def State.updEngine (s : State) (e : Nat) (f : CmpEngine → CmpEngine) : State :=
  { s with cmp := { s.cmp with engines := s.cmp.engines.set e (f (s.cmp.engines.get {} e)) } }

/-- CMP_EVENTS bit `i` (R386). -/
def State.cmpEvent (s : State) (i : Nat) : State := { s with cmp := { s.cmp with events := setBit s.cmp.events i true } }

/-- The job's stream is replaced. -/
def State.setStream (s : State) (j : Nat) (x : Stream) : State := s.updJob j (fun v => { v with stream := some x })

/-- The result of a stream command (R381). -/
def resultBytes (status : U8) (index : Nat) (offset done nofit : Nat) (crc : U32) : List U8 :=
  toBytes 1 status.toNat ++ [0, 0, 0] ++ toBytes 4 index ++ toBytes 8 offset ++ toBytes 4 done ++
    toBytes 4 nofit ++ toBytes 4 crc.toNat ++ [0, 0, 0, 0]

/-- A stream command ends: its result and the status of its record (R379, R381, R382). -/
def State.endStream (s : State) (j c : Nat) (q : StreamCmd) (x : Stream) (fault : Option (U8 × Nat × Nat)) :
    State :=
  let crc := if q.final then ~~~x.crc else x.crc
  let n := x.nofit - x.nofit0
  let r : U8 × List U8 := match fault, x.first with
    | some (st, i, off), _ => (st, resultBytes st i off x.block n crc)
    | none, some i => (if q.statusNofit then 0x10 else 0, resultBytes 0x10 i (2 ^ 64 - 1) x.block n crc)
    | none, none => (0, resultBytes 0 0xFFFFFFFF (2 ^ 64 - 1) x.block n crc)
  let s := (s.traffic j c [(q.result, 32, .write)]).vwrite c q.result r.2
  let s := (s.setStream j x).updJob j (fun v => { v with status := r.1 })
  s.jobDone j

/-- STATE_OUT is written where the command saves its state (R377, R378). -/
def State.saveStream (s : State) (j c : Nat) (q : StreamCmd) (x : Stream) (dir : Nat) : State :=
  if q.stateOut = 0 then s else
  (s.traffic j c [(q.stateOut, 4160, .write)]).vwrite c q.stateOut (x.codec.bytes q.ratio dir)

/-- The stream with which a command starts: a suspended one, STATE_IN, or empty history; none where
STATE_IN is malformed (R377, R378). -/
def State.streamStart (s : State) (v : Job) (q : StreamCmd) (dir : Nat) : Option Stream :=
  match v.stream with
  | some x => some x
  | none =>
    if q.cont then (StreamState.parse (s.vread v.ctx q.stateIn 4160) q.ratio dir).map Stream.ofCodec
    else some {}

/-- One block of COMPRESS (R376, R379). -/
def State.packBlock (s : State) (j c e : Nat) (q : StreamCmd) (x : Stream) : State × Stream :=
  let src := q.src + 256 * x.block
  let dst := q.dst + q.slot * x.block
  let r := x.codec.encode q.slot (s.vread c src 256)
  let miss := decide (r.2.nofit ≠ x.nofit)
  let s := (s.traffic j c [(src, 256, .read), (dst, q.slot, .write)]).vwrite c dst r.1
  let s := s.updEngine e (fun w => { w with
    blocks := satAdd32 w.blocks 1, nofit := if miss then satAdd32 w.nofit 1 else w.nofit })
  let s := if miss then s.cmpEvent 0 else s
  let y := x.next r.2
  (s, if miss && x.first.isNone then { y with first := some x.blocks } else y)

/-- The blocks of a COMPRESS from where it stands, at most `n` of them, and its end (R377, R380); `first` says that no
block of this part of the command has been coded. -/
def packBlocks (j c e : Nat) (q : StreamCmd) : (n : Nat) → (first : Bool) → Stream → State → State
  | 0, _, x, s => s.setStream j x
  | n + 1, first, x, s =>
    s.stepProbe first j 3 (q.opens true first x.block) (fun s =>
      let r := s.packBlock j c e q x
      let s := r.1
      let x := r.2
      if x.block < q.blocks then packBlocks j c e q n false x s
      else
        let s := if q.final then
            (s.traffic j c [(q.dst + q.slot * q.blocks, 16, .write)]).vwrite c (q.dst + q.slot * q.blocks)
              (x.codec.trailer q.ratio)
          else s
        let s := if q.save then s.saveStream j c q x 0 else s
        s.endStream j c q x none)

/-- An error of the history SRAM of a stream's slot: a corrected one is counted; an uncorrectable one kills the command,
which runs again (R383, R387). The rules give no KILL cause for it. -/
def State.historyError (s : State) (j : Nat) (v : Job) (e : MemEvent) (k : State → State) : State :=
  let i := v.cmp.getD 0
  match e with
  | .sramCorrected =>
    k (((s.updEngine i (fun w => { w with ce := satAdd32 w.ce 1 })).cmpEvent 2).fltEvent 6)
  | .sramUncorrectable =>
    let (n, s) := ((s.updEngine i (fun w => { w with ue := satAdd32 w.ue 1 })).cmpEvent 3).free
    (s.killAs j (n % 256) false .rerun).settle
  | _ => k s

/-- A stream command goes on: one that starts from STATE_IN reads it once the first step of every buffer has passed its
probe (R492). -/
def State.runStream (s : State) (j : Nat) (v : Job) (dir : Nat) (k : Stream → State → State) : State :=
  let q := streamCmd v.payload
  let go := fun (s : State) =>
    match s.streamStart v q dir with
    | none => s.loseJob j (.trap 1 0 0 0 0)
    | some x => k x s
  if v.stream.isNone && q.cont then
    s.stepProbe true j 3 (q.opens (dir == 0) true 0) (fun s => go (s.traffic j v.ctx [(q.stateIn, 4160, .read)]))
  else go s

/-- COMPRESS (R377): the blocks up to `n` more of them are coded. -/
def execCompress (job n : Nat) (e : MemEvent) (s : State) : Out :=
  .next (s.withJob job 6 (fun s v => s.historyError job v e (fun s =>
    s.runStream job v 0 (packBlocks job v.ctx (v.cmp.getD 0) (streamCmd v.payload) n true))))

/-- The trailer's check in table order (R382): a status with the offset of the faulting field. -/
def trailerFault (q : StreamCmd) (x : Stream) (b : List U8) : Option (U8 × Nat) :=
  if field b 12 1 ≠ q.ratio then some (0x11, 12)
  else if field b 13 1 ≠ 1 then some (0x11, 13)
  else if field b 14 1 ≠ 0 then some (0x11, 14)
  else if field b 15 1 ≠ 0 then some (0x11, 15)
  else if field b 0 4 ≠ x.blocks then some (0x13, 0)
  else if field b 4 4 ≠ x.nofit then some (0x13, 4)
  else if field b 8 4 ≠ (~~~x.crc).toNat then some (0x14, 8)
  else none

/-- A virtual range holds free values, where its pages can be written. -/
def State.freeRange (s : State) (c va n : Nat) : State :=
  (pieces va n).foldl (fun s q =>
    match s.reachOf c q.1 q.2 .write with
    | some pa =>
      let (k, s) := s.free
      { s with mem := s.mem.putBytes pa (toBytes q.2 k) }
    | none => s) s

/-- A decompression fault ends the command (R382): the faulting block's position and later ones are undefined. -/
def State.streamFault (s : State) (j c e : Nat) (q : StreamCmd) (x : Stream) (st : U8) (off : Nat) : State :=
  let s := s.freeRange c (q.dst + 256 * x.block) (256 * (q.blocks - x.block))
  let s := (s.updEngine e (fun w => { w with faults := satAdd32 w.faults 1 })).cmpEvent 1
  s.endStream j c q x (some (st, x.blocks, off))

/-- The blocks of a DECOMPRESS from where it stands, at most `n` of them, and its end (R382). -/
def unpackBlocks (j c e : Nat) (q : StreamCmd) : (n : Nat) → (first : Bool) → Stream → State → State
  | 0, _, x, s => s.setStream j x
  | n + 1, first, x, s =>
    s.stepProbe first j 3 (q.opens false first x.block) (fun s =>
      let src := q.src + q.slot * x.block
      let dst := q.dst + 256 * x.block
      let s := s.traffic j c [(src, q.slot, .read)]
      let dec := decodeBlock x.hist (s.vread c src q.slot)
      match dec with
      | .fault st off => s.streamFault j c e q x st (q.slot * x.block + off)
      | dec =>
        let r : State × Stream := match dec with
          | .bytes b =>
            ((s.traffic j c [(dst, 256, .write)]).vwrite c dst b,
              x.next (x.codec.fitted b))
          | _ =>
            let y := x.next x.codec.missed
            ((s.updEngine e (fun w => { w with nofit := satAdd32 w.nofit 1 })).cmpEvent 0,
              if x.first.isNone then { y with first := some x.blocks } else y)
        let s := r.1.updEngine e (fun w => { w with blocks := satAdd32 w.blocks 1 })
        let x := r.2
        if x.block < q.blocks then unpackBlocks j c e q n false x s
        else
          let t := if q.final then trailerFault q x (s.vread c (q.src + q.slot * q.blocks) 16) else none
          match t with
          | some (st, off) => s.streamFault j c e q x st (q.slot * q.blocks + off)
          | none => (if q.save then s.saveStream j c q x 1 else s).endStream j c q x none)

/-- DECOMPRESS (R382): the blocks up to `n` more of them are decoded. -/
def execDecompress (job n : Nat) (e : MemEvent) (s : State) : Out :=
  .next (s.withJob job 7 (fun s v => s.historyError job v e (fun s =>
    s.runStream job v 1 (unpackBlocks job v.ctx (v.cmp.getD 0) (streamCmd v.payload) n true))))

/-- CMP_CTRL.CLEAR (R386). -/
def execCmpClear (s : State) : Out :=
  .next (let s := s.hostWake false
    if s.feUp then { s with cmp := { s.cmp with engines := [] } } else s)

/-! ### BASTE -/

/-- A trap of a BASTE: ADDR and instruction offset are 0 (R114). -/
def State.basteTrap (s : State) (j kind : Nat) : State := s.loseJob j (.trap (BitVec.ofNat 8 kind) 0 0 0 0)

/-- The part of a byte range that lies in a buffer's step `k` of 64 KiB, counted from the buffer's start (R492). -/
def clipStep (start k : Nat) (q : Nat × Nat × Access) : Option (Nat × Nat × Access) :=
  let lo := max q.1 (start + 0x10000 * k)
  let hi := min (q.1 + q.2.1) (start + 0x10000 * (k + 1))
  if lo < hi then some (lo, hi - lo, q.2.2) else none

/-- The first byte and the end of a buffer that is given as ranges. -/
def extent (rs : List (Nat × Nat)) : Nat × Nat :=
  match rs with
  | [] => (0, 0)
  | r :: rs => rs.foldl (fun e r => (min e.1 r.1, max e.2 (r.1 + r.2))) (r.1, r.1 + r.2)

/-- The buffers of a BASTE: the tensor's elements, its scales, and its side table (R126, R492). -/
def Td.basteBuffers (t : Td) : List (List (Nat × Nat) × Access) :=
  (if t.space = 0 then
    [(t.lines 0 0 (t.rows - 1) (t.cols - 1), .read), (t.scaleLines 0 0 (t.rows - 1) (t.cols - 1), .read)]
  else []) ++ [([(t.summary, t.summaryBytes)], .write)]

/-- The accesses of step `k` in every buffer (R492). -/
def Td.basteStep (t : Td) (k : Nat) : List (List (Nat × Nat × Access)) :=
  t.basteBuffers.map (fun b => b.1.filterMap (fun r => clipStep (extent b.1).1 k (r.1, r.2, b.2)))

/-- The steps that the longest buffer has. -/
def Td.basteSteps (t : Td) : Nat :=
  t.basteBuffers.foldl (fun n b => max n (((extent b.1).2 - (extent b.1).1 + 0xFFFF) / 0x10000)) 0

/-- The steps of a BASTE are probed in order, and the work goes on after the last (R492). -/
def State.basteProbes (j : Nat) (t : Td) (k : State → State) : (fuel i : Nat) → State → State
  | 0, _, s => k s
  | fuel + 1, i, s =>
    s.stepProbe (i == 0) j 1 (t.basteStep i) (fun s =>
      match s.jobs.find j with
      | none => s
      | some v => State.basteProbes j t k fuel (i + 1) (s.traffic j v.ctx (t.basteStep i).flatten))

/-- The start of a BASTE: its descriptor is checked, its side table preset, and the frame bits of its
tensor cleared (R122, R123, R126). -/
def State.startBaste (s : State) (j : Nat) : State :=
  match s.jobs.find j with
  | none => s
  | some v =>
    (s.on none).withTd j (field v.payload 0 8) false (fun s n => s.basteTrap j n) (fun s t =>
      if t.fmt = .tw32 || t.fmt = .bolt then s.basteTrap j 1 else s.startSummary j v.ctx t id)

/-- BASTE (R126): the tensor is read once and its side table written. -/
def execBaste (job : Nat) (s : State) : Out :=
  .next (s.withJob job 8 (fun s v =>
    (s.on none).withTd job (field v.payload 0 8) false (fun s n => s.basteTrap job n) (fun s t =>
      State.basteProbes job t (fun s =>
        (s.vwriteTagged v.ctx t.summary (s.sideTable v.ctx t)).jobDone job) t.basteSteps 0 s)))

end Sys2Proof.Machine
end

