-- ==== Sys2Proof/Machine/Graphs.lean ====
section
/-! DEFINITION. Graphs: registration, versions, parameter blocks, launches and their nodes, Spool ranges,
and the hot set of weight packs (R271 to R278, R287 to R293, R384). -/

namespace Sys2Proof.Machine

open Sys2Proof

/-! ### Images and node entries -/

/-- The header of a graph image is as R271 gives for the level. -/
def headerFormed (level a : Nat) (b : List U8) : Bool :=
  let packs := field b 4 1
  aligned a 4096 && target a == 0 && field b 0 1 == level && field b 1 1 == 0 && decide (1 ≤ field b 2 2) &&
    decide (field b 2 2 ≤ 4096) && decide (packs ≤ 64) && (packs == 0 || level == 4) && decide (field b 5 1 ≤ 64) &&
    field b 6 2 == 0 && field b 12 4 % 0x10000 == 0 && field b 16 4 % 0x10000 == 0 && field b 20 4 == 0 &&
    (packs == 0 || field b 24 8 != 0) && aligned (field b 32 8) 4096 && target (field b 32 8) == 0 &&
    aligned (field b 52 4) 64 && field b 60 4 == 0

/-- The graph that a header describes; its version 0 table lies in the image (R271, R275). -/
def graphOf (a : Nat) (b : List U8) : Graph :=
  { image := a, level := BitVec.ofNat 8 (field b 0 1), nodes := field b 2 2, packs := field b 4 1,
    params := field b 5 1, timeout := BitVec.ofNat 32 (field b 8 4), spoolBytes := field b 12 4,
    spoolBase := field b 16 4, spoolVa := BitVec.ofNat 64 (field b 24 8), versionArea := field b 32 8,
    versionBytes := field b 40 4, paramTable := a + field b 44 4, packTable := a + field b 48 4,
    predTable := a + field b 56 4, tables := [(0, a + field b 52 4)] }

/-- A node entry's fields (R272). -/
def nodeType (b : List U8) : Nat := field b 0 1
def nodeRecord (b : List U8) : Bool := field b 1 1 % 2 == 1
def nodeNonRestart (b : List U8) : Bool := field b 1 1 / 2 % 2 == 1
def nodeParkable (b : List U8) : Bool := field b 1 1 / 4 % 2 == 1
def nodePacks (b : List U8) : List U8 := (b.drop 4).take 4
def nodePayload (b : List U8) : List U8 := (b.drop 16).take 48

/-- The payload of a MATRIX_LAYER is as R273 gives. -/
def layerFormed (p : List U8) : Bool :=
  let slot := fun n => decide (n < 4) || n == 0xFF
  decide (field p 24 1 < 2) && decide (field p 25 1 < 2) && slot (field p 26 1) && slot (field p 27 1) &&
    field p 28 4 == 0 && zeroFrom p 42

/-- The payload of a RENDER_PASS is as R317 gives. -/
def passFormed (p : List U8) : Bool :=
  aligned (field p 0 8) 64 && aligned (field p 8 8) 64 && aligned (field p 16 8) 0x10000 && field p 28 4 == 0 &&
    zeroFrom p 42

/-- A node's payload is as its type's rule gives (R272, R273, R317). -/
def payloadFormed (g : Graph) (type : Nat) (p : List U8) : Bool :=
  match type with
  | 1 => kernelFormed p && (field p 42 1 == 0xFF || decide (field p 42 1 < g.params))
  | 2 => layerFormed p
  | 3 => passFormed p
  | n => decide (4 ≤ n) && decide (n ≤ 8) && engineFormed n p

/-- A node entry is as R272 gives and available at the graph's level (R267); its predecessors are `preds`. -/
def nodeFormed (g : Graph) (i : Nat) (b : List U8) (preds : List Nat) : Bool :=
  let level := g.level.toNat
  let t := nodeType b
  (level != 2 || [1, 3, 4, 5].contains t) && decide (field b 1 1 < 8) &&
    (!nodeParkable b || (t == 1 && level == 4)) && decide (field b 2 1 ≤ 32) && field b 3 1 == 0 &&
    (nodePacks b).all (fun k => k == 0xFF || decide (k.toNat < g.packs)) && preds.all (fun k => decide (k < i)) &&
    payloadFormed g t (nodePayload b)

/-- The physical address of node `i`'s entry in a version's table. -/
def Graph.nodeAt (g : Graph) (version i : Nat) : Nat := g.tables.get 0 version + 64 * i

/-- The predecessors of a node entry (R272). -/
def State.preds (s : State) (g : Graph) (b : List U8) : List Nat :=
  (List.range (field b 2 1)).map (fun k => s.mem.num (g.predTable + field b 8 4 + 2 * k) 2)

/-- The node entries of a version's table. -/
def State.nodesOf (s : State) (g : Graph) (version : Nat) : List (List U8) :=
  (List.range g.nodes).map (fun i => s.peek (g.nodeAt version i) 64)

/-- Every node of a graph's version is well formed. -/
def State.graphFormed (s : State) (g : Graph) (version : Nat) : Bool :=
  ((List.range g.nodes).zip (s.nodesOf g version)).all (fun e => nodeFormed g e.1 e.2 (s.preds g e.2))

/-- The byte ranges that the Shuttle reads to run a version of a graph: node table, parameter table and predecessors. -/
def State.versionRanges (s : State) (g : Graph) (version : Nat) : List (Nat × Nat) :=
  [(g.nodeAt version 0, 64 * g.nodes), (g.paramTable, 16 * g.params)] ++
    (s.nodesOf g version).map (fun b => (g.predTable + field b 8 4, 2 * field b 2 1))

/-- The byte ranges of an image that the Shuttle reads at registration. -/
def State.imageRanges (s : State) (g : Graph) : List (Nat × Nat) := s.versionRanges g 0 ++ [(g.packTable, 64 * g.packs)]

/-- The Shuttle reads physical ranges for a context: windows, then errors (R252, R310). -/
def State.readRanges (s : State) (c : Nat) (rs : List (Nat × Nat)) (k : State → State) : State :=
  match rs.findSome? (fun r => s.physFail c r.1 r.2 false) with
  | some e => s.losePhysical c e .read
  | none => k s

/-- NODE_MODE entries for the matrix-layer nodes of a version (R170, R275, R276). -/
def State.logModes (s : State) (c : Nat) (id : U32) (g : Graph) (version : Nat) : State :=
  ((List.range g.nodes).zip (s.nodesOf g version)).foldl (fun s e =>
    if nodeType e.2 = 2 then
      s.log (s.ctx c).partition 0x04 c 0
        (toBytes 4 id.toNat ++ toBytes 2 version ++ toBytes 2 e.1 ++ toBytes 1 (field (nodePayload e.2) 24 1))
    else s) s

/-- The unfinished launches of a context's graph, with their commands. -/
def State.launchesOf (s : State) (c id : Nat) : List (Nat × Job × Launch) :=
  s.jobs.filterMap (fun e =>
    match e.2.launch with
    | some l => if e.2.ctx = c ∧ l.graph.toNat = id then some (e.1, e.2, l) else none
    | none => none)

/-- A context's graph replaced. -/
def State.setGraph (s : State) (c id : Nat) (g : Graph) : State :=
  s.updCtx c (fun x => { x with graphs := x.graphs.set id g })

/-- REGISTER_GRAPH of an image (R275). -/
def execRegisterGraph (q : Nat) (stamp : U32) (s : State) : Out :=
  .next (s.withHead q (fun b => slotOp b == 0x30 && field b 16 8 != 0) (fun b =>
    let c := (s.queue q).ctx
    let x := s.ctx c
    let a := field b 16 8
    let id := field b 24 4
    if (x.graphs.find id).isSome || 256 ≤ x.graphs.length then s.endHead q b 0x21 stamp
    else
      s.readRanges c [(a, 64)] (fun s =>
        let h := s.peek a 64
        if !headerFormed x.csLevel.toNat a h then s.loseUndefined c
        else
          let g := graphOf a h
          s.readRanges c (s.imageRanges g) (fun s =>
            if !s.graphFormed g 0 then s.loseUndefined c
            else ((s.setGraph c id g).logModes c (BitVec.ofNat 32 id) g 0).endHead q b 0 stamp))))

/-- REGISTER_GRAPH with IMAGE 0 (R275): the identifier goes once no unfinished launch uses it, and once the parameter
writes that its launches held back have landed (R277). -/
def execGraphUnregister (q : Nat) (stamp : U32) (s : State) : Out :=
  .next (s.withHead q (fun b => slotOp b == 0x30 && field b 16 8 == 0) (fun b =>
    let c := (s.queue q).ctx
    let id := field b 24 4
    match (s.ctx c).graphs.find id with
    | none => s.endHead q b 0x21 stamp
    | some g =>
      if !(s.launchesOf c id).isEmpty || !g.deferred.isEmpty then s
      else (s.updCtx c (fun x => { x with graphs := x.graphs.del id })).endHead q b 0 stamp))

/-! ### Patches -/

/-- Pages that a patch touches must be resident, as for a non-restartable command: any failure loses the
context (R32, R277). While an invalidation runs the patch waits for a translation that needs a walk (R226). -/
def State.resident (s : State) (c : Nat) (ranges : List (Nat × Nat × Access)) (k : State → State) : State :=
  match (s.on none).probe c ranges with
  | (none, s) =>
    match ranges.findSome? (fun r => s.dramAt c r.1 r.2.1 r.2.2 (r.2.2 == .write)) with
    | some pa => s.losePhysical c (.dram pa) .read
    | none => k s
  | (some f, s) =>
    if f.x = .wait then s else
    let span := min (f.hi - f.lo + 1) 0xFFFF
    let s := s.updCtx c (fun x => { x with faultPage := BitVec.ofNat 37 f.lo, faultSpan := BitVec.ofNat 16 span })
    match f.x with
    | .ok _ => s
    | .wait => s
    | .fatal n l =>
      s.lose c (lossRecord s c 0
        (.translation (BitVec.ofNat 4 n) f.acc (BitVec.ofNat 4 l) (BitVec.ofNat 64 f.va) (BitVec.ofNat 16 span)))
    | .selvedge pa => s.losePhysical c (.selvedge pa) f.acc
    | .dram pa => s.losePhysical c (.dram pa) f.acc
    | .replay l =>
      s.lose c
        { status := 0x02, source := 0x01, context := BitVec.ofNat 16 c, addr := BitVec.ofNat 64 f.va,
          info := BitVec.ofNat 32 (accessCode f.acc + l * 16 + span * 256), lost := true, loss := 0x02,
          die := s.dieNo == 1 }

/-- The versions of a graph that are live: the current one and those of unfinished launches (R276). -/
def State.liveVersions (s : State) (c id : Nat) (g : Graph) : List Nat :=
  (g.current :: (s.launchesOf c id).map (fun e => e.2.2.version)).eraseDups

/-- A patched entry keeps the TYPE, NPRED and PRED of the entry that it replaces (R276). -/
def patchedEntry (old new : List U8) : List U8 :=
  old.take 1 ++ (new.drop 1).take 1 ++ (old.drop 2).take 1 ++ (new.drop 3).take 5 ++ (old.drop 8).take 4 ++ new.drop 12

/-- A node patch (R276). -/
def execPatchGraphNode (q : Nat) (stamp : U32) (s : State) : Out :=
  .next (s.withHead q (fun b => slotOp b == 0x31 && field b 20 1 == 1) (fun b =>
    let c := (s.queue q).ctx
    let id := field b 16 4
    let first := field b 22 2
    let va := field b 24 8
    let n := field b 36 4 / 64
    match (s.ctx c).graphs.find id with
    | none => s.endHead q b 0x21 stamp
    | some g =>
      let v := g.current + 1
      if field b 36 4 % 64 ≠ 0 || g.nodes < first + n then s.loseUndefined c
      else if g.versionBytes < 8 * 64 * g.nodes || 0xFFFF ≤ v then s.endHead q b 0x21 stamp
      else if 8 < (v :: (s.launchesOf c id).map (fun e => e.2.2.version)).eraseDups.length then s
      else
        s.resident c [(va, 64 * n, .read)] (fun s =>
          s.readRanges c [(g.nodeAt g.current 0, 64 * g.nodes)] (fun s =>
            let src := s.vread c va (64 * n)
            let table := ((List.range g.nodes).zip (s.nodesOf g g.current)).map (fun e =>
              if first ≤ e.1 && e.1 < first + n then patchedEntry e.2 ((src.drop (64 * (e.1 - first))).take 64)
              else e.2)
            if !((List.range g.nodes).zip table).all (fun e => nodeFormed g e.1 e.2 (s.preds g e.2)) then
              s.loseUndefined c
            else
              let a := g.versionArea + v % 8 * 64 * g.nodes
              match s.physFail c a (64 * g.nodes) true with
              | some e => s.losePhysical c e .write
              | none =>
                let g := { g with
                  current := v, tables := g.tables.set v a }
                (((s.poke a table.flatten).setGraph c id g).logModes c (BitVec.ofNat 32 id) g v).endHead q b 0 stamp))))

/-- The address and size of a parameter block, from the image's parameter table (R271). -/
def State.paramBlock (s : State) (g : Graph) (blk : Nat) : Nat × Nat :=
  (s.mem.num (g.paramTable + 16 * blk) 8, s.mem.num (g.paramTable + 16 * blk + 8) 4)

/-- A version of the graph contains a node that names the block. -/
def State.namesBlock (s : State) (g : Graph) (version blk : Nat) : Bool :=
  (s.nodesOf g version).any (fun b => nodeType b == 1 && field (nodePayload b) 42 1 == blk)

/-- A parameter block is in use by an unfinished launch (R277). -/
def State.blockInUse (s : State) (c id : Nat) (g : Graph) (blk : Nat) : Bool :=
  (s.launchesOf c id).any (fun e => s.namesBlock g e.2.2.version blk)

/-- The deferred writes of a block land, in the order of their slots (R277). -/
def State.landDeferred (s : State) (c id : Nat) (g : Graph) (blk : Nat) : State :=
  let mine := g.deferred.filter (fun d => d.blk == blk)
  s.resident c (mine.map (fun d => (d.addr.toNat, d.bytes.length, .write))) (fun s =>
    let s := mine.foldl (fun s d => s.vwrite c d.addr.toNat d.bytes) s
    s.setGraph c id { g with
      deferred := g.deferred.filter (fun d => d.blk != blk) })

/-- A parameter patch (R277). -/
def execPatchGraphParameter (q : Nat) (stamp : U32) (s : State) : Out :=
  .next (s.withHead q (fun b => slotOp b == 0x31 && field b 20 1 == 2) (fun b =>
    let c := (s.queue q).ctx
    let id := field b 16 4
    let blk := field b 22 2
    let va := field b 24 8
    let n := field b 36 4
    match (s.ctx c).graphs.find id with
    | none => s.endHead q b 0x21 stamp
    | some g =>
      s.readRanges c [(g.paramTable, 16 * g.params)] (fun s =>
        let p := s.paramBlock g blk
        let dst := p.1 + field b 32 4
        if g.params ≤ blk || p.2 < field b 32 4 + n then s.loseUndefined c
        else if s.blockInUse c id g blk && field b 21 1 = 0 then s.endHead q b 0x22 stamp
        else
          s.resident c [(va, n, .read), (dst, n, .write)] (fun s =>
            let d : Deferred := { blk := blk, addr := BitVec.ofNat 64 dst, bytes := s.vread c va n }
            let g' := { g with
              deferred := g.deferred ++ [d] }
            let t := s.setGraph c id g'
            (if s.blockInUse c id g blk then t else t.landDeferred c id g' blk).endHead q b 0 stamp))))

/-- Every launch that used the block has finished: its deferred patches are written (R277). -/
def execDeferredParameterWrite (c : Nat) (graph : U32) (blk : Nat) (s : State) : Out :=
  .next (match (s.ctx c).graphs.find graph.toNat with
    | none => s
    | some g =>
      if !s.dispatching || (s.ctx c).state = .lost || !g.deferred.any (fun d => d.blk == blk) ||
        s.blockInUse c graph.toNat g blk then s
      else s.landDeferred c graph.toNat g blk)

/-! ### Launches -/

/-- The first non-zero number of a list, else the last default of R285. -/
def firstTimeout (ts : List Nat) : U32 := BitVec.ofNat 32 ((ts.find? (· != 0)).getD 2000000)

/-- The command that a node of a launch becomes (R272, R278, R285). -/
def State.nodeJob (s : State) (l : Nat) (v : Job) (g : Graph) (i : Nat) (b : List U8) : Job :=
  let p := nodePayload b
  let packs := nodePacks b
  let arg := if nodeType b = 1 && field p 42 1 ≠ 0xFF then (s.paramBlock g (field p 42 1)).1 else field p 24 8
  { queue := v.queue, slot := v.slot, ctx := v.ctx, opcode := 0x01, kind := nodeType b, handle := v.handle,
    nonRestart := v.nonRestart || nodeNonRestart b, parkable := nodeParkable b, record := nodeRecord b,
    parent := some l, node := i, payload := p, packs := packs, arg := BitVec.ofNat 64 arg,
    timeout := firstTimeout [field b 12 4, v.timeout.toNat, g.timeout.toNat],
    st := if packs.all (· == 0xFF) then .ready else .packWait, order := s.fe.dispatches }

/-- A command enters the table of commands in flight. -/
def State.addJob (s : State) (v : Job) : State :=
  { s with
    jobs := s.jobs.set s.fe.nextJob v
    fe := { s.fe with nextJob := s.fe.nextJob + 1, dispatches := s.fe.dispatches + 1 } }

/-- Nodes whose predecessors have all committed become ready (NODE_READY, R278); the tables that say so are read under the
checks of R252. -/
def State.readyNodes (s : State) (l : Nat) : State :=
  match s.jobs.find l with
  | none => s
  | some v =>
    match v.launch with
    | none => s
    | some w =>
      match (s.ctx v.ctx).graphs.find w.graph.toNat with
      | none => s
      | some g =>
        s.readRanges v.ctx (s.versionRanges g w.version) (fun s =>
          ((List.range g.nodes).zip (s.nodesOf g w.version)).foldl (fun s e =>
            if w.committed.contains e.1 || s.jobs.any (fun f => f.2.parent == some l && f.2.node == e.1) then s
            else if (s.preds g e.2).all w.committed.contains then s.addJob (s.nodeJob l v g e.1 e.2)
            else s) s)

/-- The granule positions of a graph's Spool range (R287). -/
def Graph.range (g : Graph) : List Nat :=
  (List.range (g.spoolBytes / 0x10000)).map (fun i => g.spoolBase / 0x10000 + i)

/-- The granules of the range on this die, as (SPACE 3 position on this die, bank, granule); positions count
from the die's first bound bank. -/
def State.rangeHere (s : State) (p : Nat) (g : Graph) : List (Nat × Nat × Nat) :=
  let before := if s.dieNo = 0 then 0
    else popcount (s.ptn.parts.get {} p).banks * s.granCount
  g.range.filterMap (fun i =>
    if i < before then none else (s.spacePlace p (i - before)).map (fun e => (i - before, e.1, e.2)))

/-- Every position of the range lies in the partition's banks (R177). -/
def State.rangeBound (s : State) (p : Nat) (g : Graph) : Bool :=
  g.range.all (fun i => (s.spool3 p (i * 0x10000)).isSome)

/-- A granule becomes ALLOC for a context: restored from its saved copy, or cleared (R287). -/
def State.allocGranule (s : State) (c i b g : Nat) : State :=
  if ((s.ctx c).saved.find i).isSome then s.restoreGranule c i b g
  else
    let a := granAddr b g
    let x : Granule := { st := .alloc, ctx := c, dirty := false }
    { s with
      mem := s.mem.zero a 0x10000
      frames := s.frames.del (a / 0x10000)
      spl := { s.spl with grans := s.spl.grans.set (256 * b + g) x } }

/-- The range's FREE granules become ALLOC for the context (R287). -/
def State.allocFree (s : State) (c : Nat) (gs : List (Nat × Nat × Nat)) : State :=
  gs.foldl (fun s e =>
    if (s.spl.grans.get {} (256 * e.2.1 + e.2.2)).st = .free then s.allocGranule c e.1 e.2.1 e.2.2 else s) s

/-- Every granule of the range is ALLOC for the context. -/
def State.rangeReady (s : State) (c : Nat) (gs : List (Nat × Nat × Nat)) : Bool :=
  gs.all (fun e =>
    let x := s.spl.grans.get {} (256 * e.2.1 + e.2.2)
    x.st == .alloc && x.ctx == c)

/-- A LAUNCH dispatches (R278, R289): its version is bound, its Spool range is made ready where that takes
no switch, and its first nodes become ready. -/
def State.launch (s : State) (q : Nat) (stamp : U32) : State :=
  s.withHead q (fun b => slotOp b == 0x01) (fun b =>
    let x := s.queue q
    let c := x.ctx
    let p := (s.ctx c).partition
    let id := field b 16 4
    match (s.ctx c).graphs.find id with
    | none => s.endHead q b 0x21 stamp
    | some g =>
      let v := if field b 20 2 = 0xFFFF then g.current else field b 20 2
      if !g.deferred.isEmpty then s
      else if !(s.liveVersions c id g).contains v then s.endHead q b 0x21 stamp
      else if (s.part p).rate 0 * 15000 < g.spoolBytes || !s.rangeBound p g then s.endHead q b 0x21 stamp
      else
        s.readRanges c (s.versionRanges g v) (fun s =>
          let gs := s.rangeHere p g
          let s := s.allocFree c gs
          let l : Launch :=
            { graph := BitVec.ofNat 32 id, version := v, seedLo := BitVec.ofNat 64 (field b 24 8),
              seedHi := BitVec.ofNat 64 (field b 32 8), spoolReady := s.rangeReady c gs,
              groups := (s.part p).groups }
          let j : Job :=
            { queue := q, slot := x.sqRead, ctx := c, opcode := 0x01, kind := 0, handle := slotHandle b,
              nonRestart := slotNonRestart b, payload := slotPayload b,
              timeout := BitVec.ofNat 32 (slotTimeout b), st := .running, order := s.fe.dispatches,
              launch := some l }
          let n := s.fe.nextJob
          let s := s.take q
          if (s.ctx c).state = .lost then s
          else (((s.updQueue q (fun x => { x with owed := x.owed + 1 })).addJob j).readyNodes n)))

/-! ### Packs -/

/-- A pack table entry (R290). -/
structure PackEntry where
  packId : Nat
  digest : List U8
  src : Nat
  srcBytes : Nat
  bytes : Nat
  pin : Bool
  summarised : Bool
deriving DecidableEq, Repr

/-- Entry `i` of a graph's pack table. -/
def State.packEntry (s : State) (g : Graph) (i : Nat) : PackEntry :=
  let b := s.peek (g.packTable + 64 * i) 64
  { packId := field b 0 8, digest := (b.drop 8).take 32, src := field b 40 8, srcBytes := field b 48 4,
    bytes := field b 52 4, pin := field b 56 2 % 2 == 1, summarised := field b 56 2 / 2 % 2 == 1 }

/-- The graph whose node a command is. -/
def State.graphFor (s : State) (v : Job) : Option Graph :=
  match v.parent with
  | none => none
  | some l =>
    match (s.jobs.find l).bind Job.launch with
    | none => none
    | some w => (s.ctx v.ctx).graphs.find w.graph.toNat

/-- The digests of the packs that a command names. -/
def State.digestsOf (s : State) (v : Job) : List (List U8) :=
  match s.graphFor v with
  | none => []
  | some g => (v.packs.filter (· != 0xFF)).map (fun k => (s.packEntry g k.toNat).digest)

/-- A dispatched or running node names the digest (R291). -/
def State.packInUse (s : State) (d : List U8) : Bool :=
  s.jobs.any (fun e => e.2.st != .packWait && (s.digestsOf e.2).contains d)

/-- A registered graph of the partition pins the digest (R291). -/
def State.packPinned (s : State) (p : Nat) (d : List U8) : Bool :=
  s.ctxs.any (fun e => e.2.partition == p && e.2.state != .closed && e.2.graphs.any (fun g =>
    (List.range g.2.packs).any (fun i =>
      let k := s.packEntry g.2 i
      k.pin && k.digest == d)))

/-- The granules of a run. -/
def PackRun.keys (r : PackRun) : List Nat := (List.range r.count).map (fun i => 256 * r.bank + r.first + i)

/-- A run becomes FREE and its share entries are dropped (R291, R292). -/
def State.evict (s : State) (r : PackRun) : State :=
  { s with spl := { s.spl with
      grans := r.keys.foldl (fun m k => m.del k) s.spl.grans,
      packs := s.spl.packs.filter (fun x => !(x.bank == r.bank && x.first == r.first)),
      shares := s.spl.shares.filter (fun e => !(e.2.bank == r.bank && e.2.first == r.first)) } }

/-- The first contiguous run of `n` FREE granules in the lowest-indexed bank of a list (R290). -/
def State.freeRun (s : State) (banks : List Nat) (n : Nat) : Option (Nat × Nat) :=
  banks.findSome? (fun b =>
    ((List.range (s.granCount + 1 - n)).find? (fun f =>
      (List.range n).all (fun i => (s.spl.grans.get {} (256 * b + f + i)).st == .free))).map (fun f => (b, f)))

/-- The pack that eviction takes next: the partition's unpinned run with the oldest last use that no dispatched node names,
and not one that the loading node names itself (`keep`). -/
def State.oldestPack (s : State) (p : Nat) (keep : List (List U8)) (used : Bool) : Option PackRun :=
  (s.spl.packs.filter (fun r => r.part == p && !s.packPinned p r.digest &&
      (used || (!s.packInUse r.digest && !keep.contains r.digest)))).foldl
    (fun m r => match m with
      | none => some r
      | some x => if r.lastUse < x.lastUse then some r else some x) none

/-- Room for `n` granules, evicting while there is something to evict (R291); with `used`, also what nodes
use, which asks only whether the run could ever fit. -/
def State.makeRoom (s : State) (p n : Nat) (keep : List (List U8)) (used : Bool) : (fuel : Nat) → Option (State × Nat × Nat)
  | 0 => (s.freeRun (s.boundBanks p) n).map (fun e => (s, e.1, e.2))
  | fuel + 1 =>
    match s.freeRun (s.boundBanks p) n with
    | some e => some (s, e.1, e.2)
    | none =>
      match s.oldestPack p keep used with
      | none => none
      | some r => State.makeRoom (s.evict r) p n keep used fuel

/-- What reading a pack's file gives: its bytes, or the status with which the load fails (R293, R384). -/
inductive PackRead where
  | bytes (bs : List U8)
  | fails (status : U8)
deriving DecidableEq, Repr

/-- The blocks of a compressed pack, NOFIT positions taking the originals that follow the stream. -/
def packBlocksOf (slot : Nat) : (n : Nat) → (slots originals : List U8) → StreamState → List U8 → PackRead ⊕ (List U8 × StreamState)
  | 0, _, _, x, out => .inr (out, x)
  | n + 1, slots, orig, x, out =>
    match decodeBlock x.hist (slots.take slot) with
    | .fault st _ => .inl (.fails st)
    | .bytes b => packBlocksOf slot n (slots.drop slot) orig (x.fitted b) (out ++ b)
    | .nofit => packBlocksOf slot n (slots.drop slot) (orig.drop 256) x.missed (out ++ orig.take 256)

/-- A pack file of the Lomez weight-pack format decoded (R384). -/
def State.readPack (s : State) (p : Nat) (k : PackEntry) (f : List U8) : PackRead :=
  let form := field f 5 1
  let slot := if form = 1 then 128 else 64
  let n := k.bytes / 256
  let nofit := field f 12 4
  if f.take 4 ≠ [0x4C, 0x57, 0x50, 0x4B] || field f 4 1 ≠ 1 || 2 < form || field f 6 2 ≠ 0 ||
    !((f.drop 16).take 48).all (· == 0) then .fails 0x11
  else if field f 8 4 ≠ k.bytes || k.srcBytes ≠ (if form = 0 then 64 + k.bytes else 64 + n * slot + 16 + 256 * nofit) then
    .fails 0x13
  else if form = 0 then .bytes ((f.drop 64).take k.bytes)
  else if s.die.part.engines = 0 then .fails 0x11
  else if !s.hasShare p then .fails 0x21
  else
    let body := f.drop 64
    match packBlocksOf slot n body (body.drop (n * slot + 16)) {} [] with
    | .inl r => r
    | .inr (out, x) =>
      let q : StreamCmd :=
        { src := 0, dst := 0, blocks := n, ratio := form - 1, cont := false, final := true, save := false,
          statusNofit := false, stateIn := 0, stateOut := 0, result := 0 }
      match trailerFault q { blocks := x.blocks, nofit := x.nofit, crc := x.crc } ((body.drop (n * slot)).take 16) with
      | some (st, _) => .fails st
      | none => .bytes out

/-- The regulator and engine traffic of a load. -/
def State.chargeLoad (s : State) (p : Nat) (k : PackEntry) : State := s.spend p 0 k.srcBytes

/-- A pack's run is written and marked PACK; SUMMARISED frames become VALID (R123, R290). -/
def State.placePack (s : State) (p b f : Nat) (k : PackEntry) (bs : List U8) : State :=
  let a := granAddr b f
  let n := (k.bytes + 0xFFFF) / 0x10000
  let s := s.pokeTagged a bs
  let x : Granule := { st := .pack }
  let r : PackRun :=
    { part := p, bank := b, first := f, count := n, digest := k.digest, packId := BitVec.ofNat 64 k.packId,
      pin := k.pin, lastUse := s.fe.dispatches }
  { s with
    frames := (framesOf a k.bytes).foldl (fun m fr => m.set fr (if k.summarised then 1 else 0)) s.frames
    spl := { s.spl with
      grans := (List.range n).foldl (fun m i => m.set (256 * b + f + i) x) s.spl.grans,
      packs := s.spl.packs ++ [r] } }

/-- A reader of a share entry that covers a run; a free entry of the 64 is taken where none does (R195). -/
def State.shareRun (s : State) (p : Nat) (r : PackRun) : Option State :=
  let put := fun i (e : ShareEntry) =>
    some { s with spl := { s.spl with shares := s.spl.shares.set i { e with readers := setBit e.readers p true } } }
  match s.spl.shares.find? (fun e => e.2.bank == r.bank && e.2.first == r.first) with
  | some (i, e) => put i e
  | none =>
    match (List.range 64).find? (fun i => (s.spl.shares.find i).isNone) with
    | some i => put i { bank := r.bank, readers := 0, first := r.first, count := r.count }
    | none => none

/-- How making one pack resident goes. -/
inductive PackStep where
  /-- resident at an offset in the die's Spool window -/
  | at (s : State) (off : Nat)
  /-- the node waits for room -/
  | waits
  /-- the launch ends with a status -/
  | fails (s : State) (status : U8)
  /-- the read of SRC faulted -/
  | ended (s : State)
deriving DecidableEq, Repr

/-- The offset of a run in the die's Spool window (R178). -/
def PackRun.offset (r : PackRun) : Nat := r.bank * 2 ^ 24 + r.first * 0x10000

/-- A node's dispatch is the last use of its partition's packs that it names (R290). -/
def State.usePacks (s : State) (v : Job) : State :=
  let ds := s.digestsOf v
  if ds.isEmpty then s else
  { s with
    fe := { s.fe with dispatches := s.fe.dispatches + 1 }
    spl := { s.spl with packs := s.spl.packs.map (fun r =>
      if r.part = (s.ctx v.ctx).partition ∧ ds.contains r.digest then { r with lastUse := s.fe.dispatches } else r) } }

/-- One pack of a node is made resident (R290, R291, R293). Its read waits while the partition has no DRAM credit, and
while an invalidation holds back a walk that it needs (R23, R226). -/
def State.loadPack (s : State) (j : Nat) (v : Job) (g : Graph) (i : Nat) : PackStep :=
  let p := (s.ctx v.ctx).partition
  let k := s.packEntry g i
  let own := s.spl.packs.find? (fun r => r.part == p && r.digest == k.digest)
  let other := if s.strict v then none
    else (s.spl.packs.find? (fun r => r.part != p && r.digest == k.digest)).bind
      (fun r => (s.shareRun p r).map (fun t => (r, t)))
  match own, other with
  | some r, _ =>
    .at { s with spl := { s.spl with packs := s.spl.packs.map (fun x =>
        if x.bank = r.bank ∧ x.first = r.first then { x with lastUse := s.fe.dispatches } else x) } } r.offset
  | none, some (r, t) => .at t r.offset
  | none, none =>
    let n := (k.bytes + 0xFFFF) / 0x10000
    let keep := s.digestsOf v
    match s.makeRoom p n keep false 2048 with
    | none => if (s.makeRoom p n keep true 2048).isSome then .waits else .fails s 0x21
    | some (t, b, f) =>
      match (t.on none).probe v.ctx [(k.src, k.srcBytes, .read)] with
      | (some x, t) => if x.x = .wait then .waits else .ended (t.failJob j x 4)
      | (none, t) =>
        if t.credit p 0 ≤ 0 then .waits else
        match t.dramAt v.ctx k.src k.srcBytes .read false with
        | some pa => .ended (t.loseJob j (.dram (BitVec.ofNat 4 (dramChannel pa)) (BitVec.ofNat 64 pa)))
        | none =>
          let t := t.chargeLoad p k
          match t.readPack p k (t.vread v.ctx k.src k.srcBytes) with
          | .fails st => .fails t st
          | .bytes bs =>
            if sha256 bs ≠ k.digest then .fails t 0x14 else .at (t.placePack p b f k bs) (b * 2 ^ 24 + f * 0x10000)

/-- A launch ends early: its running nodes are killed and not re-run, and its record carries the status
(R278). -/
def State.endLaunch (s : State) (l : Nat) (status : U8) (stamp : U32) : State :=
  match s.jobs.find l with
  | none => s
  | some v =>
    let w := v.launch.getD { graph := 0, version := 0, seedLo := 0, seedHi := 0 }
    let nodes := s.jobs.filter (fun e => e.2.parent == some l)
    -- a pass that has committed completes normally first (R31)
    if nodes.any (fun e => e.2.committed) then s else
    let owed := (nodes.filter (fun e => e.2.record && (e.2.onEngines || e.2.kills != 0 || e.2.st == .suspended))).length
    let s := nodes.foldl (fun s e => s.abandon e.1) s
    let s := s.remove l
    let s := s.updQueue v.queue (fun x => { x with owed := x.owed - 1 - owed })
    (s.endSlot v.queue v.slot
      { status := status, opcode := 0x01, handle := v.handle, work := w.work, strict := s.strict v,
        hostTimed := w.hostTimed, launch := true, kills := w.kills, refresh := w.refresh, retry := w.retry,
        loose := w.loose, stamp := stamp }).settle

/-- The packs of a node, slot by slot; an empty slot's offset reads 0xFFFF_FFFF (R290). -/
def State.loadPacks (s : State) (j : Nat) (v : Job) (g : Graph) (stamp : U32) : (slots : List U8) → (offs : List Nat) → State
  | [], offs => s.updJob j (fun v =>
      { v with packOffs := offs, st := if v.kills = 0 then .ready else .rerun })
  | k :: ks, offs =>
    if k = 0xFF then State.loadPacks s j v g stamp ks (offs ++ [0xFFFFFFFF]) else
    match s.loadPack j v g k.toNat with
    | .at t off => State.loadPacks t j v g stamp ks (offs ++ [off])
    | .waits => s
    | .fails t st => t.endLaunch (v.parent.getD 0) st stamp
    | .ended t => t

/-- The packs of a node that waits for them are made resident (R290). -/
def execPackLoad (job : Nat) (stamp : U32) (s : State) : Out :=
  .next (match s.jobs.find job with
    | none => s
    | some v =>
      if v.st ≠ .packWait || !s.dispatching then s else
      match s.graphFor v with
      | none => s
      | some g =>
        s.readRanges v.ctx [(g.packTable, 64 * g.packs)] (fun s => s.loadPacks job v g stamp v.packs []))

/-! ### The partition context switch -/

/-- The contexts other than `c` that hold granules of a range (R288). -/
def State.outgoing (s : State) (c : Nat) (gs : List (Nat × Nat × Nat)) : List Nat :=
  (gs.filterMap (fun e =>
    let x := s.spl.grans.get {} (256 * e.2.1 + e.2.2)
    if x.st = .alloc ∧ x.ctx ≠ c then some x.ctx else none)).eraseDups

/-- A launch whose Spool range meets a range of positions. -/
def State.overlaps (s : State) (v : Job) (ps : List Nat) : Bool :=
  match v.launch with
  | none => false
  | some w => ((s.ctx v.ctx).graphs.find w.graph.toNat).any (fun g => g.range.any ps.contains)

/-- The launch whose node a command is, or the command itself. -/
def State.launchOf (s : State) (v : Job) : Job := (v.parent.bind s.jobs.find).getD v

/-- The partition context switch (R288): the outgoing contexts' commands are killed, their dirty granules
and parked memory saved, and the range passes to the launch's context. -/
def execPartitionContextSwitch (job : Nat) (s : State) : Out :=
  .next (match s.jobs.find job with
    | none => s
    | some v =>
      match v.launch with
      | none => s
      | some w =>
        match (s.ctx v.ctx).graphs.find w.graph.toNat with
        | none => s
        | some g =>
          let p := (s.ctx v.ctx).partition
          let gs := s.rangeHere p g
          let out := s.outgoing v.ctx gs
          let packs := s.spl.packs.filter (fun r => r.keys.any (fun k => gs.any (fun e => 256 * e.2.1 + e.2.2 == k)))
          if w.spoolReady || !s.dispatching || (s.ctx v.ctx).state = .lost || s.quiet p then s
          else if s.jobs.any (fun e => out.contains e.2.ctx && e.2.onEngines && e.2.nonRestart && e.2.launch.isNone) then s
          else if packs.any (fun r => s.packInUse r.digest) then s
          else
            -- step 1
            let hit := s.jobs.filter (fun e => out.contains e.2.ctx && e.2.onEngines && e.2.launch.isNone &&
              s.overlaps (s.launchOf e.2) g.range)
            let s := hit.foldl (fun s e => s.killFirst e.1 6 1 .rerun) s
            let ready := fun (b : Bool) (e : Job) => { e with launch := e.launch.map (fun x => { x with spoolReady := b }) }
            let jobs := s.jobs.mapVals (fun _ e =>
              if out.contains e.ctx && s.overlaps e g.range then ready false e else e)
            let s := { s with jobs := jobs }
            let s := s.rekey p
            -- step 2
            let s := gs.foldl (fun (s : State) e =>
              if (s.spl.grans.get {} (256 * e.2.1 + e.2.2)).ctx ≠ v.ctx then s.saveGranule p e.2.1 e.2.2 else s) s
            let s := (s.blocks.filter (fun b => b.2.parked && out.contains ((s.jobs.find b.2.job).elim 0 Job.ctx))).foldl
              (fun s b => s.saveBlock b.1) s
            -- steps 3 to 5
            let s := packs.foldl (fun s r => s.evict r) s
            let s := gs.foldl (fun (s : State) e =>
              let x := s.spl.grans.get {} (256 * e.2.1 + e.2.2)
              if x.st = .alloc ∧ x.ctx = v.ctx then s else s.allocGranule v.ctx e.1 e.2.1 e.2.2) s
            s.updJob job (ready true))

end Sys2Proof.Machine
end

