-- ==== Sys2Proof/Machine/Repair.lean ====
section
/-! DEFINITION. Online retest, quarantine tests, rejoins, the writes of the darning map, and spare rows (R191,
R431 to R437). -/

namespace Sys2Proof.Machine

open Sys2Proof

/-! ### Online retest -/

/-- T5 runs: its firmware is up and no watchdog expiry has stopped its tests (R26, R438). -/
def State.t5Up (s : State) : Bool := s.thimbleUp 5 && !s.die.t5Stopped

/-- Idle time grows, and retests run, in Run and Idle alone (R433, R438). -/
def State.retestUp (s : State) : Bool := s.t5Up && s.pwr.state == .run

/-- A slot's accumulated idle time reaches 8 minutes and its retest is due (R433). -/
def execRetestDue (slot : Nat) (s : State) : Out :=
  .next (
    if !s.retestUp || !(s.liveSlots.contains slot) || (s.darn.due.find slot).isSome then s else
    { s.updCore slot (fun x => { x with idle := BitVec.ofNat 32 (max x.idle.toNat 480) }) with
      darn := { s.darn with due := s.darn.due.set slot 0 } })

/-- A core is idle: it holds no resident block and no parked local memory that is not saved. -/
def State.coreIdle (s : State) (k : Nat) : Bool := !s.blocks.any (fun b => b.2.core == k && b.2.saved.isNone)

/-- Spare rows of a Spool sub-bank, a local-memory bank and a tile buffer (R191). -/
def spoolSpares : Nat := 16
def localSpares : Nat := 4
def tileSpares : Nat := 8

/-- The spare rows of an array of a core slot: a local-memory bank, the tile buffer, a register-file bank (R191, R430). -/
def slotSpares : Nat → Nat
  | 1 => localSpares
  | 2 => tileSpares
  | 3 => 4
  | _ => 0

/-- A fault of physical slot `ps`, which logical slot `k` holds or is to take, takes its spare, and joins the map; the ray
traversal unit is removed, and the core stays. None where no spare is left (R430, R435, R436). -/
def State.applySpare (s : State) (k ps : Nat) (f : SlotFault) : Option State :=
  let x := s.cores.get {} k
  let c := k / 8
  let own := x.phys == ps
  let y := if own then x else CoreSlot.on s.darn.entries s.die.part c ps
  let upd (s : State) (g : CoreSlot → CoreSlot) : State := if own then s.updCore k g else s
  match f with
  | .unit => none
  | .lane v lane =>
    if 4 ≤ v || 16 ≤ lane || bit y.lanes v then none else
    some ((upd s (fun x => { x with lanes := setBit x.lanes v true })).darnAdd
      { type := 3, c := c, s := ps, u := v, index := lane })
  | .cell e q pos =>
    let w := s.clusters.get {} c
    let used := w.mxSpares.get 0 ps
    if 2 ≤ e || 8 ≤ q || 32 ≤ pos || bit used (8 * e + q) then none else
    let w := { w with mxSpares := w.mxSpares.set ps (setBit used (8 * e + q) true) }
    some ({ s with clusters := s.clusters.set c w }.darnAdd
      { type := 4, c := c, s := ps, u := e, index := q, value := pos })
  | .row kind array row =>
    let n := if kind = 1 then y.lmSpares.get 0 array else if kind = 2 then y.tbSpares
      else rowsSpared s.darn.entries kind c ps array
    if slotSpares kind ≤ n then none else
    some ((upd s (fun x =>
      if kind = 1 then { x with lmRows := x.lmRows.del (0x10000 * array + row), lmSpares := x.lmSpares.set array (n + 1) }
      else if kind = 2 then { x with tbRows := x.tbRows.del row, tbSpares := n + 1 }
      else x)).darnAdd { type := 5, c := c, s := ps, u := kind, index := array, value := row })
  | .ray =>
    some ((upd s (fun x => { x with ray := false })).darnAdd { type := 6, c := c, s := ps, u := 4 })

/-- Every fault that a test finds takes its spare, or none does. -/
def State.applySpares (s : State) (k ps : Nat) (found : List SlotFault) : Option State :=
  found.foldl (fun o f => o.bind (fun s => s.applySpare k ps f)) (some s)

/-- A fault that a retest repairs in place: a lane or a cell (R435). -/
def SlotFault.inPlace : SlotFault → Bool
  | .lane _ _ => true
  | .cell _ _ _ => true
  | _ => false

/-- A segment of a due retest runs on an idle core; the last of the 64 completes the retest, a fault with a spare
free takes the spare, and any other fault quarantines the slot (R433, R435). -/
def execRetestSegment (slot : Nat) (found : List SlotFault) (s : State) : Out :=
  .next (
    match s.darn.due.find slot with
    | none => s
    | some n =>
      if !s.retestUp || !(s.liveSlots.contains slot) || !s.coreIdle slot then s else
      match if found.all SlotFault.inPlace then s.applySpares slot (s.cores.get {} slot).phys found else none with
      | none => s.quarantine slot
      | some s =>
        if n + 1 < 64 then
          { s.updCore slot (fun x => { x with st := 2 }) with
            darn := { s.darn with due := s.darn.due.set slot (n + 1) } }
        else
          { s.updCore slot (fun x => { x with st := 0, idle := 0 }) with
            darn := { s.darn with due := s.darn.due.del slot, done := satAdd16 s.darn.done 1 } })

/-- A minute beyond 10 minutes of idle time passes with the slot's retest unfinished (R433). -/
def execRetestOverdue (slot : Nat) (s : State) : Out :=
  .next (
    if !s.retestUp || (s.darn.due.find slot).isNone then s else
    { s.updCore slot (fun x => { x with idle := BitVec.ofNat 32 (max (x.idle.toNat + 60) 660) }) with
      darn := { s.darn with overdue := satAdd16 s.darn.overdue 1 } })

/-! ### The test of a quarantined slot -/

/-- The quarantines counted for a physical slot and the powered hours of the oldest one, within the last 720
powered hours (R431, R436). -/
def State.history (s : State) (c ps : Nat) : Nat × Nat :=
  match s.darn.entries.find? (fun e => e.type == 8 && e.c == c && e.s == ps) with
  | none => (0, s.darn.hours)
  | some e => if (s.darn.hours + 2 ^ 16 - e.value % 2 ^ 16) % 2 ^ 16 ≤ 720 then (e.index, e.value) else (0, s.darn.hours)

/-- HISTORY of a physical slot is updated. -/
def State.setHistory (s : State) (c ps n hours : Nat) : State :=
  let s := { s with darn := { s.darn with
    entries := s.darn.entries.filter (fun e => !(e.type == 8 && e.c == c && e.s == ps)) } }
  s.darnAdd { type := 8, c := c, s := ps, index := n, value := hours % 2 ^ 16 }

/-- The full test of the lowest spare physical slot for a logical slot whose own is retired: one that passes takes its
place at the next remap point, and one that fails is retired too (R430, R436). -/
def State.spareTest (s : State) (slot : Nat) (found : List SlotFault) : State :=
  let c := slot / 8
  match (s.spareSlots c).head? with
  | none => s
  | some sp =>
    match s.applySpares slot sp found with
    | none => s.darnAdd { type := 1, c := c, s := sp }
    | some s =>
      let s := s.darnAdd { type := 2, c := c, s := slot % 8, value := sp }
      { s.updCore slot (fun x => { x with st := 4 }) with
        darn := { s.darn with rejoin := s.darn.rejoin.set slot (sp, true) } }

/-- T5's full test of a quarantined slot: a pass, its spares applied, returns it, and a fault without a spare or a third
quarantine retires the physical slot. The test after that is the one of the spare physical slot (R436). -/
def execQuarantineSlotTest (slot : Nat) (found : List SlotFault) (s : State) : Out :=
  .next (
    if !s.t5Up || !bit s.flt.quar slot || (s.darn.rejoin.find slot).isSome then s else
    let c := slot / 8
    let ps := (s.cores.get {} slot).phys
    if s.darn.slotFailed c ps then s.spareTest slot found else
    let h := s.history c ps
    let s := s.setHistory c ps (h.1 + 1) h.2
    match if h.1 + 1 < 3 then s.applySpares slot ps found else none with
    | some s => { s with darn := { s.darn with rejoin := s.darn.rejoin.set slot (ps, false) } }
    | none => s.darnAdd { type := 1, c := c, s := ps })

/-- A returned slot rejoins at a moment when no command of its partition is dispatched, a remapped one while its
partition is halted, and one that no partition binds at once (R436). Step 5 of an apply does the same. -/
def execSlotRejoin (slot : Nat) (s : State) : Out :=
  .next (
    match s.darn.rejoin.find slot with
    | none => s
    | some (_, remap) =>
      match s.holderOf slot with
      | none => s.rejoin slot
      | some p =>
        if bit s.ptn.halted p || (!remap && (s.busyIn p).isEmpty && s.ptn.apply.isNone) then s.rejoin slot else s)

/-! ### The map in flash -/

/-- The bytes of an entry (R431). -/
def DarnEntry.bytes (e : DarnEntry) : List U8 :=
  toBytes 1 e.type ++ toBytes 1 e.c ++ toBytes 1 e.s ++ toBytes 1 e.u ++ toBytes 2 e.index ++ toBytes 2 e.value

/-- The entry in 8 bytes. -/
def DarnEntry.parse (b : List U8) : DarnEntry :=
  { type := field b 0 1, c := field b 1 1, s := field b 2 1, u := field b 3 1, index := field b 4 2, value := field b 6 2 }

/-- The entries of `n` times 8 bytes. -/
def parseEntries : (n : Nat) → List U8 → List DarnEntry
  | 0, _ => []
  | n + 1, b => DarnEntry.parse b :: parseEntries n (b.drop 8)

/-- The places of copies A and B in flash (R451). -/
def mapCopyA : Nat := 0x10000
def mapCopyB : Nat := 0x20000

/-- A copy of the map whose magic, count and check are correct: its sequence, powered hours and entries (R431). -/
def mapAt (flash : Mem) (a : Nat) : Option (Nat × Nat × List DarnEntry) :=
  let h := flash.bytes a 32
  let n := field h 8 4
  if field h 0 4 ≠ 0x4D4E5244 || mapEntries < n || field h 20 1 ≠ 1 then none else
  let b := flash.bytes (a + 32) (8 * n)
  if (crc32c b).toNat ≠ field h 16 4 then none else some (field h 4 4, field h 12 4, parseEntries n b)

/-- The valid copy with the higher sequence (R432). -/
def bestMap (flash : Mem) : Option (Nat × Nat × List DarnEntry) :=
  match mapAt flash mapCopyA, mapAt flash mapCopyB with
  | some x, some y => if x.1 < y.1 then some y else some x
  | some x, none => some x
  | none, y => y

/-- The older copy: the one that is not valid, or has the lower sequence. -/
def olderCopy (flash : Mem) : Nat :=
  match mapAt flash mapCopyA, mapAt flash mapCopyB with
  | none, _ => mapCopyA
  | some _, none => mapCopyB
  | some x, some y => if x.1 < y.1 then mapCopyA else mapCopyB

/-- The bytes of a map copy (R431). -/
def Darn.image (d : Darn) (seq : U32) : List U8 :=
  let es := d.entries.take mapEntries
  let b := es.flatMap DarnEntry.bytes
  toBytes 4 0x4D4E5244 ++ toBytes 4 seq.toNat ++ toBytes 4 es.length ++ toBytes 4 d.hours ++
    toBytes 4 (crc32c b).toNat ++ toBytes 1 1 ++ List.replicate 11 0 ++ b

/-- The whole live map goes to the older copy with its sequence increased by one (R432). -/
def State.writeMap (s : State) : State :=
  let a := olderCopy s.flash
  let q := s.darn.seq + 1
  { s with
    flash := (s.flash.zero a 0x10000).putBytes a (s.darn.image q)
    darn := { s.darn with seq := q, pending := false } }

/-- T5 writes the map after Finished while a write is owed (R432). -/
def execDarningMapWrite (s : State) : Out :=
  .next (if s.t5Up && s.die.stage == .finished && s.darn.pending then s.writeMap else s)

/-- T5 writes the powered-hour count (R432). -/
def execPoweredHoursWrite (h : Nat) (s : State) : Out :=
  .next (
    if !s.t5Up || s.die.stage ≠ .finished || h < s.darn.hours then s
    else State.writeMap { s with darn := { s.darn with hours := h } })

/-! ### Spare rows -/

/-- The corrected errors at which a row is spared. -/
def spareAt : Nat := 8

/-- A row of a Spool sub-bank is spared, or its bank retired (R191). -/
def State.spareSpool (s : State) (b sub row : Nat) : State :=
  let w := s.spl.banks.get {} b
  let key := 0x10000 * sub + row
  if w.rowCe.get 0 key < spareAt || s.spl.grans.any (fun g => g.1 / 256 == b && g.2.st == .alloc) then s else
  let n := w.spares.get 0 sub
  if n < spoolSpares then
    let w := { w with spares := w.spares.set sub (n + 1), rowCe := w.rowCe.del key }
    let s := { s with spl := { s.spl with banks := s.spl.banks.set b w, events := setBit s.spl.events 3 true } }
    s.darnAdd { type := 5, c := b, s := sub, u := 0, index := sub, value := row }
  else
    let s := { s with spl := { s.spl with toRetire := setBit s.spl.toRetire b true, events := setBit s.spl.events 4 true } }
    s.darnAdd { type := 6, u := 1, c := b }

/-- A row of a core's local memory or tile buffer is spared on an idle core, or the core is taken out of service
(R191). -/
def State.spareCore (s : State) (k bank row : Nat) (tile : Bool) : State :=
  let x := s.cores.get {} k
  let key := 0x10000 * bank + row
  let ce := if tile then x.tbRows.get 0 row else x.lmRows.get 0 key
  if ce < spareAt || !s.coreIdle k || bit s.flt.quar k then s else
  let n := if tile then x.tbSpares else x.lmSpares.get 0 bank
  if n < (if tile then tileSpares else localSpares) then
    let s := s.updCore k (fun x =>
      if tile then { x with tbRows := x.tbRows.del row, tbSpares := n + 1 }
      else { x with lmRows := x.lmRows.del key, lmSpares := x.lmSpares.set bank (n + 1) })
    s.darnAdd { type := 5, c := k / 8, s := x.phys, u := if tile then 2 else 1, index := bank, value := row }
  else s.quarantine k

/-- A row that has reached 8 corrected errors is spared at a free point, and recorded in the map (R191). -/
def execRowSpare (unit : SramUnit) (row : Nat) (s : State) : Out :=
  .next (
    if !s.t5Up then s else
    match unit with
    | .spool b sub => s.spareSpool b sub row
    | .localMem k bank => s.spareCore k bank row false
    | .tileBuffer k => s.spareCore k 0 row true)

end Sys2Proof.Machine
end

