-- ==== Sys2Proof/Machine/Sram.lean ====
section
/-! DEFINITION. Errors of the on-chip memories, caches and DRAM that an access meets (R160, R189, R190, R196,
R209, R309, R310, R471). -/

namespace Sys2Proof.Machine

open Sys2Proof

/-- SPL_EVENTS bits (R193). -/
def State.splEvent (s : State) (i : Nat) : State := { s with spl := { s.spl with events := setBit s.spl.events i true } }

/-- The partition of this die that binds bank `b`. -/
def State.bankOwner (s : State) (b : Nat) : Option Nat :=
  (List.range 16).find? (fun p => (s.part p).enable && bit (s.part p).banks b)

/-- The state with a cluster block changed. -/
def State.updCluster (s : State) (c : Nat) (f : Cluster → Cluster) : State :=
  { s with clusters := s.clusters.set c (f (s.clusters.get {} c)) }

/-! ### Spool banks -/

/-- The sub-bank and row of a bank offset (R180, R191). -/
def spoolRow (o : Nat) : Nat × Nat := (o / 16 % 32, o / 512)

/-- A single-bit error of a Spool bank is corrected and counted (R189, R194). -/
def State.spoolCorrected (s : State) (b o : Nat) : State :=
  let w := s.spl.banks.get {} b
  let key := 0x10000 * (spoolRow o).1 + (spoolRow o).2
  let w := { w with ce := satAdd32 w.ce 1, rowCe := w.rowCe.set key (w.rowCe.get 0 key + 1) }
  (State.splEvent { s with spl := { s.spl with banks := s.spl.banks.set b w } } 0).fltEvent 6

/-- Requests to a Spool bank that stalled for an arithmetic cycle are counted (R181, R194). -/
def State.spoolStalled (s : State) (b n : Nat) : State :=
  let w := s.spl.banks.get {} b
  { s with spl := { s.spl with banks := s.spl.banks.set b { w with stalls := satAdd32 w.stalls n } } }

/-- The commands on engines that have a pack run loaded. -/
def State.packReaders (s : State) (r : PackRun) : List Nat :=
  (s.jobs.filter (fun e => e.2.onEngines && e.2.launch.isNone && e.2.packOffs.contains r.offset)).map Prod.fst

/-- A command that read a dropped pack is killed and waits for the pack, which counts toward its timeout (R190, R300). The
rules give no KILL cause for it. -/
def State.killReader (s : State) (j : Nat) : State :=
  let (n, s) := s.free
  (s.killAs j (n % 256) false .packWait).updJob j (fun v => { v with packOffs := [] })

/-- A command that is not on engines and has a dropped pack's offset asks for the pack again. -/
def Job.reload (v : Job) (off : Nat) : Job :=
  if v.onEngines || !v.packOffs.contains off then v else
  { v with packOffs := [], st := if v.st = .ready ∨ v.st = .rerun then .packWait else v.st }

/-- A granule is cleared: zeros, FREE, and its frames neither VALID nor TOUCHED (R188, R190). -/
def State.clearGranule (s : State) (b g : Nat) : State :=
  { s with
    mem := s.mem.zero (granAddr b g) 0x10000
    frames := s.frames.del (granAddr b g / 0x10000)
    spl := { s.spl with grans := s.spl.grans.del (256 * b + g) } }

/-- An uncorrectable error of a Spool bank, met by a command's read or by a scrub, binds to the owner of the data
(R190). Every case raises SPL_EVENTS, of whose bits none is described for a FREE granule: which of the two for
uncorrectable errors is set there is a free value. -/
def State.spoolLost (s : State) (reader : Option Nat) (b o : Nat) : State :=
  let w := s.spl.banks.get {} b
  let w := { w with ue := satAdd32 w.ue 1, ueOffset := BitVec.ofNat 24 o }
  let s := { s with spl := { s.spl with banks := s.spl.banks.set b w } }
  let g := o / 0x10000
  let x : Granule := s.spl.grans.get {} (256 * b + g)
  let rec_ := fun (status : U8) =>
    ({ status := status, source := 0x08, context := 0xFFFF, addr := BitVec.ofNat 64 o,
       info := BitVec.ofNat 32 (16 * b), die := s.dieNo == 1 } : FaultRec)
  match x.st with
  | .alloc =>
    (s.splEvent 2).lose x.ctx (lossRecord s x.ctx 0 (.sram 0 (BitVec.ofNat 8 b) (BitVec.ofNat 64 o)))
  | .free =>
    let (n, s) := s.free
    ((s.clearGranule b g).splEvent (1 + n % 2)).partRecord ((s.bankOwner b).getD 0) (rec_ 0x02)
  | .pack =>
    match s.spl.packs.find? (fun r => r.bank == b && decide (r.first ≤ g) && decide (g < r.first + r.count)) with
    | none => s.splEvent 1
    | some r =>
      let js := s.packReaders r
      let js := js ++ (reader.toList.filter (fun j => !js.contains j))
      let s := js.foldl (fun s j => s.killReader j) s
      let s := { s with jobs := s.jobs.mapVals (fun _ v => v.reload r.offset) }
      ((s.evict r).splEvent 1).partRecord r.part (rec_ 0x00)

/-! ### Local memory -/

/-- A single-bit error of a core's local memory is corrected and counted (R189, R196). -/
def State.localCorrected (s : State) (k o : Nat) : State :=
  let key := 0x10000 * (o / 4 % 32) + o / 128
  let s := s.updCore k (fun x => { x with lmRows := x.lmRows.set key (x.lmRows.get 0 key + 1) })
  (s.updCluster (k / 8) (fun x => { x with lmCe := satAdd32 x.lmCe 1 })).fltEvent 6

/-- An uncorrectable error of local memory loses the context that owns the block (R190). -/
def State.localLost (s : State) (j k o : Nat) : State :=
  let s := s.updCluster (k / 8) (fun x => { x with lmUe := satAdd32 x.lmUe 1 })
  s.loseJob j (.sram 1 (BitVec.ofNat 8 k) (BitVec.ofNat 64 o))

/-! ### Caches -/

/-- The record of an uncorrectable cache error at a line's address (R302). -/
def cacheError (level way unit a : Nat) : LosingError :=
  .cache (BitVec.ofNat 2 level) (BitVec.ofNat 4 way) (BitVec.ofNat 8 unit) (BitVec.ofNat 64 a)

/-- The contexts of a list of lost dirty lines are lost, and one record names no context where such a line has no writer
(R209, R302). -/
def State.writersLost (s : State) (a : Nat) (e : LosingError) (ws : List (Option Nat)) : State :=
  ws.eraseDups.foldl (fun s w =>
    match w with
    | some c => s.lose c (lossRecord s c 0 e)
    | none => s.partRecord (s.partOf a) { lossRecord s 0xFFFF 0 e with lost := false, loss := 0 }) s

/-- The dirty bytes of a line at its home are lost: they hold free values. A sibling-homed line's are gone with it. -/
def State.bytesLost (s : State) (a : Nat) : State :=
  if target a = 1 then s else
  let (k, s) := s.free
  { s with mem := s.mem.putBytes a (toBytes 128 k) }

/-- The way of an L2 set, or of an L3 set, in which a line's data stand. -/
def State.l2Way (s : State) (cl a : Nat) : Option Nat :=
  if (s.l2c cl).enabled then findWay s.lines.l2 (s.l2Base cl a) (List.range 16) (a / 128) else none
def State.l3Way (s : State) (a : Nat) : Option (Nat × Nat) :=
  if target a ≠ 0 || !s.l3c.cache.enabled then none else
  (s.lineOwner a).bind (fun o =>
    (findWay s.lines.l3 (s.l3Base o a) (List.range 16) (s.die.part.l3Tag a)).map (fun w => (s.l3Base o a, w)))

/-- An uncorrectable error of the data of a line in the L2 of a cluster: a clean line is fetched again, and a dirty one is
lost with its writer's context (R209). -/
def State.l2DataLost (s : State) (cl a way : Nat) : State :=
  let key := s.l2Base cl a + way
  match s.lines.l2.find key with
  | none => s
  | some l =>
    let x := l.sector 0
    let s := (s.flushDeltas (fun d => d.cluster == cl && d.pa / 128 == l.tag)).setL2 (s.lines.l2.del key)
    if !x.dirty then s
    else (s.bytesLost (l.tag * 128)).writersLost (l.tag * 128) (cacheError 2 way cl (l.tag * 128)) [x.writer]

/-- An uncorrectable error of the data of a sector in the L3. -/
def State.l3DataLost (s : State) (base a way unit : Nat) : State :=
  match s.lines.l3.find (base + way) with
  | none => s
  | some l =>
    let i := s.die.part.l3Sector a
    let x := l.sector i
    let line := a / 128 * 128
    let s := s.setL3 (s.lines.l3.set (base + way) { l with sectors := l.sectors.del i })
    if !x.dirty then s else (s.bytesLost line).writersLost line (cacheError 3 way unit line) [x.writer]

/-- An uncorrectable error of a tag or directory entry: every dirty line of the set is lost with every writer that the set
records, and its clean lines are fetched again (R209). -/
def State.setLost (s : State) (level base way unit a : Nat) : State :=
  let ls := (List.range 16).filterMap (fun w => (if level = 2 then s.lines.l2 else s.lines.l3).find (base + w))
  let place := fun (l : CacheLine) (i : Nat) =>
    if level = 2 then l.tag * 128 else s.die.part.l3Addr (base / 16 / 1024) l.tag i
  let dirty := ls.flatMap (fun l => (l.sectors.filter (fun e => e.2.dirty)).map (fun e => (place l e.1, e.2.writer)))
  let s := if level = 2 then s.flushDeltas (fun d => d.cluster == unit && ls.any (fun l => l.tag == d.pa / 128)) else s
  let gone := fun (t : TMap CacheLine) => (List.range 16).foldl (fun t w => t.del (base + w)) t
  let s := if level = 2 then s.setL2 (gone s.lines.l2) else s.setL3 (gone s.lines.l3)
  (dirty.foldl (fun s e => s.bytesLost e.1) s).writersLost a (cacheError level way unit (a / 128 * 128)) (dirty.map Prod.snd)

/-- An uncorrectable error that an access meets in a cache: of an L1 line, of the line's data, or of a tag or directory entry
of its set (R209). It strikes what the cache holds: a disabled cache, and one without the line, meets none; and an L3 holds
local DRAM alone. What the line is, clean or dirty, the cache itself says. -/
def State.cacheLost (s : State) (level way unit pa : Nat) (what : CacheError) : State :=
  match level with
  | 2 =>
    if 8 ≤ unit || !(s.l2c unit).enabled then s else
    let count := fun (s : State) => s.updCluster unit (fun x => { x with l2Ue := satAdd32 x.l2Ue 1 })
    if what = .tag then (count s).setLost 2 (s.l2Base unit pa) way unit pa
    else
      match s.l2Way unit pa with
      | some w => (count s).l2DataLost unit pa w
      | none => s
  | 3 =>
    let count := fun (s : State) (w : Nat) => { s with l3c := { s.l3c with
      ue := s.l3c.ue.set w (satAdd32 (s.l3c.ue.get 0 w) 1), events := setBit s.l3c.events 3 true } }
    if target pa ≠ 0 || !s.l3c.cache.enabled then s
    else if what = .tag then (count s way).setLost 3 (s.l3Base ((s.lineOwner pa).getD 0) pa) way unit pa
    else
      match s.l3Way pa with
      | some (base, w) => (count s w).l3DataLost base pa w unit
      | none => s
  | _ =>
    match s.user with
    | some k => s.l1Forget k pa
    | none => s

/-- A corrected error of an enabled L2 or of the L3 is counted in the cluster or by its way (R209, R213 to R215). -/
def State.cacheCorrected (s : State) (level way unit pa : Nat) : State :=
  if level = 2 then
    if decide (unit < 8) && (s.l2c unit).enabled then (s.updCluster unit (fun x => { x with l2Ce := satAdd32 x.l2Ce 1 })).fltEvent 6
    else s
  else if level = 3 && target pa = 0 && s.l3c.cache.enabled then
    State.fltEvent { s with l3c := { s.l3c with
      ce := s.l3c.ce.set way (satAdd32 (s.l3c.ce.get 0 way) 1), events := setBit s.l3c.events 2 true } } 6
  else s

/-! ### Failed residue checks -/

/-- A command has blocks, tiles or matrix work on core `k`. -/
def State.usesCore (s : State) (j : Nat) (v : Job) (k : Nat) : Bool :=
  v.onEngines && v.launch.isNone &&
    (s.blocks.any (fun b => b.2.job == j && b.2.core == k && !b.2.parked) || (v.kind == 2 && bit v.cores k) ||
      (v.pass.any (fun p => p.tiles.any (fun e => e.2.core == k))))

/-- A residue check of command `job` fails on a core: the command and every other with blocks on the core are killed, the
core is quarantined, and the killed commands are dispatched again, the failing one first; one that may not be restarted
loses its context (R32, R131, R308). -/
def State.residueFailed (s : State) (core engine : Nat) (bolt : Bool) (job : Nat) : State :=
  match s.jobs.find job with
  | none => s
  | some v =>
    if !s.usesCore job v core then s else
    let s := s.updCluster (core / 8) (fun x => { x with residue := satAdd32 x.residue 1 })
    let hit := (job, v) :: s.jobs.filter (fun e => e.1 != job && s.usesCore e.1 e.2 core)
    let s := (hit.filter (fun e => !e.2.nonRestart)).foldl
      (fun s e => s.killFirst e.1 3 (if e.1 = job then 2 else 1) .rerun) s
    let s := s.quarantine core
    let s := (hit.filter (fun e => e.2.nonRestart)).foldl (fun s e => s.loseJob e.1 (.residue core engine bolt)) s
    State.settle (if v.nonRestart then s
      else
        let r := lossRecord s v.ctx v.stitch64 (.residue core engine bolt)
        s.ctxReport v.ctx { r with lost := false, loss := 0 })

/-! ### DRAM and host data -/

/-- An uncorrectable error of a DRAM line: with inline ECC it persists (R310). -/
def State.dramFails (s : State) (pa : Nat) : State :=
  if s.die.inlineEcc && !s.flt.failing.contains (pa / 128) then
    { s with flt := { s.flt with failing := pa / 128 :: s.flt.failing } }
  else s

/-- A command's access meets an uncorrectable DRAM error, or damaged host data (R310, R471). -/
def State.dramLost (s : State) (j pa : Nat) : State :=
  let s := if target pa = 0 then s.dramFails pa else s
  s.loseJob j (.dram (BitVec.ofNat 4 (if target pa = 0 then dramChannel pa else 0)) (BitVec.ofNat 64 pa))

/-- A delivery later than its fixed count: counted, with a LATE record for the command it reached (R160). -/
def State.lateFor (s : State) (j : Option Nat) : State :=
  let s := { s with det := { s.det with lateUntagged := satAdd32 s.det.lateUntagged 1 } }
  match j.bind s.jobs.find, j with
  | some v, some j =>
    if !s.strict v then s else
    let n := satAdd32 v.late 1
    let s := s.updJob j (fun v => { v with late := n })
    s.ctxReport v.ctx
      { status := 0, source := 0x0E, context := BitVec.ofNat 16 v.ctx, stitch := v.stitch64, info := n,
        die := s.dieNo == 1 }
  | _, _ => s

/-- LATE_DELIVERY: a hardware fault has delayed a delivery (R160). -/
def execLateDelivery (job : Option Nat) (s : State) : Out := .next (if s.die.inReset then s else s.lateFor job)

/-- A transfer is repeated after link ECC failed (R309, R489). -/
def State.linkRepeat (s : State) (pa : Nat) : State :=
  let ch := dramChannel pa
  let x : Channel := s.mc.channels.get {} ch
  let x := { x with repeats := satAdd32 x.repeats 1 }
  { s with mc := { s.mc with events := setBit s.mc.events 2 true, channels := s.mc.channels.set ch x } }

/-- A corrected error of the inline or the link ECC is counted by its channel (R488, R489). -/
def State.channelCorrected (s : State) (pa : Nat) (f : Channel → Channel) : State :=
  ((s.updChannel (dramChannel pa) f).mcEvent 0).fltEvent 6

/-- What an access of a command at a physical address meets besides its own checks; the flag says that the access
does not go on. -/
def State.meets (s : State) (j pa : Nat) (e : MemEvent) : State × Bool :=
  match e with
  | .none => (s, false)
  | .sramCorrected =>
    (match s.spoolPlace pa with
     | some (d, b, o) => if (target pa = 3 || target pa = 1) && d = s.dieNo then s.spoolCorrected b o else s
     | none => s, false)
  | .sramUncorrectable =>
    match if target pa = 3 then s.spoolPlace pa else none with
    | some (_, b, o) => (s.spoolLost (some j) b o, true)
    | none => (s, false)
  | .cacheUncorrectable level way unit what =>
    if target pa = 3 then (s, false) else
    let t := s.cacheLost level.toNat way.toNat unit.toNat pa what
    (t, (t.jobs.find j).isNone)
  | .cacheCorrected level way unit => (if target pa = 3 then s else s.cacheCorrected level.toNat way.toNat unit.toNat pa, false)
  | .dramCorrected =>
    (if target pa = 0 && s.die.inlineEcc then s.channelCorrected pa (fun x => { x with ce := satAdd32 x.ce 1 }) else s, false)
  | .linkCorrected =>
    (if target pa = 0 then s.channelCorrected pa (fun x => { x with linkCe := satAdd32 x.linkCe 1 }) else s, false)
  | .dramUncorrectable => if target pa = 0 then (s.dramLost j pa, true) else (s, false)
  | .linkEccRepeat again =>
    if target pa ≠ 0 then (s, false)
    else
      let s := s.linkRepeat pa
      let s := match s.jobs.find j with
        | some v => if s.strict v then s.lateFor (some j) else s
        | none => s
      if again then (s.dramLost j pa, true) else (s, false)
  | .hostDamaged => if target pa = 2 then (s.dramLost j pa, true) else (s, false)
  | .spoolStalled n =>
    (match if target pa = 3 then s.spoolPlace pa else none with
     | some (_, b, _) => s.spoolStalled b n
     | none => s, false)

/-- What an access to local memory of a command meets. -/
def State.meetsLocal (s : State) (j k o : Nat) (e : MemEvent) : State × Bool :=
  match e with
  | .sramCorrected => (s.localCorrected k o, false)
  | .sramUncorrectable => (s.localLost j k o, true)
  | _ => (s, false)

end Sys2Proof.Machine
end

