-- ==== Sys2Proof/Machine/Caches.lean ====
section
/-! DEFINITION. The cache controls, the clears of the cluster counters, and the Spool's retention and scrubbing (R132,
R187, R190, R192, R196, R207, R213, R215). -/

namespace Sys2Proof.Machine

open Sys2Proof

/-! ### Cluster counters and the Spool -/

/-- CLU_MX_CTRL.CLEAR (R132). -/
def execCluMxClear (n : Nat) (s : State) : Out :=
  .next (let s := s.hostWake false
    if s.feUp && decide (n < 8) then s.updCluster n (fun x => { x with sweeps := 0, stale := 0, residue := 0 }) else s)

/-- CLU_MEM_CTRL.CLEAR (R196). -/
def execCluMemClear (n : Nat) (s : State) : Out :=
  .next (let s := s.hostWake false
    if s.feUp && decide (n < 8) then
      s.updCluster n (fun x => { x with lmCe := 0, lmUe := 0, tbCe := 0, tbUe := 0 })
    else s)

/-- SPL_RETAIN: a write that sets more than four bits is dropped (R187). -/
def execSplRetainWrite (v : U32) (s : State) : Out :=
  .next (let s := s.hostWake false
    let m : U8 := v.truncate 8
    if !s.feUp then s
    else if 4 < popcount m then s.splEvent 5
    else { s with spl := { s.spl with retain := m } })

/-- An error that a scrub of the Spool finds; an uncorrectable one binds to the granule's owner and clears the granule
(R190). -/
def State.scrubError (s : State) (e : ScrubError) : State :=
  if 8 ≤ e.bank || !bit s.spl.online e.bank || s.die.part.bankMib * 2 ^ 20 ≤ e.off then s
  else if e.corrected then s.spoolCorrected e.bank e.off
  else (s.spoolLost none e.bank e.off).clearGranule e.bank (e.off / 0x10000)

/-- SPOOL_SCRUB: T5 has read every word of every enabled bank (R192). -/
def execSpoolScrub (errs : List ScrubError) (s : State) : Out :=
  .next (if !s.spl.scrub || !s.t5Up then s
    else errs.foldl State.scrubError s)

/-! ### Cache controls -/

/-- ENABLE is written: the new state, the status of the write, and whether an enable was refused (R207). -/
def CacheState.enable (c : CacheState) (v : Bool) : CacheState × U8 × Bool :=
  if v then
    if c.enabled && !c.disabling then
      if c.busy then (c, 0x24, true) else ({ c with enableReg := true }, 0, false)
    else if c.invalidated && !c.busy then ({ c with enabled := true, invalidated := false, enableReg := true }, 0, false)
    else ({ c with enableReg := false }, 0x24, true)
  else if c.enabled then
    ({ c with busy := true, disabling := true, invalidated := false, enableReg := false }, 0, false)
  else ({ c with enableReg := false }, 0, false)

/-- INVALIDATE is written (R207). -/
def CacheState.invalidate (c : CacheState) : CacheState := { c with busy := true }

/-- The running operation ends: a disable clears ENABLED, and an invalidate of a disabled cache sets INVALIDATED. -/
def CacheState.done (c : CacheState) : CacheState :=
  if !c.busy then c
  else if c.disabling then { c with busy := false, disabling := false, enabled := false, invalidated := false }
  else { c with busy := false, invalidated := c.invalidated || !c.enabled }

/-- L3C_CTRL and CLU_CACHE_CTRL take writes from stage Finished on (R426). -/
def State.cacheUp (s : State) : Bool := s.feUp && s.die.stage == .finished

def execL3cEnable (v : Bool) (s : State) : Out :=
  .next (let s := s.hostWake false
    if !s.cacheUp then s
    else
      let r := s.l3c.cache.enable v
      { s with l3c := { s.l3c with
          cache := r.1, result := r.2.1, events := if r.2.2 then setBit s.l3c.events 0 true else s.l3c.events } })

def execL3cInvalidate (s : State) : Out :=
  .next (let s := s.hostWake false
    if s.cacheUp then { s with l3c := { s.l3c with cache := s.l3c.cache.invalidate } } else s)

def execL1Enable (n : Nat) (v : Bool) (s : State) : Out :=
  .next (let s := s.hostWake false
    if s.cacheUp && decide (n < 8) then
      s.updCluster n (fun x =>
        let r := x.l1.enable v
        { x with l1 := r.1, cacheResult := r.2.1 })
    else s)

def execL2Enable (n : Nat) (v : Bool) (s : State) : Out :=
  .next (let s := s.hostWake false
    if s.cacheUp && decide (n < 8) then
      s.updCluster n (fun x =>
        let r := x.l2.enable v
        { x with l2 := r.1, cacheResult := r.2.1 })
    else s)

def execL1Invalidate (n : Nat) (s : State) : Out :=
  .next (let s := s.hostWake false
    if s.cacheUp && decide (n < 8) then s.updCluster n (fun x => { x with l1 := x.l1.invalidate }) else s)

def execL2Invalidate (n : Nat) (s : State) : Out :=
  .next (let s := s.hostWake false
    if s.cacheUp && decide (n < 8) then s.updCluster n (fun x => { x with l2 := x.l2.invalidate }) else s)

/-- The lines of a cache leave it, dirty data and the deltas held against them written back (R145, R207). -/
def State.emptied (s : State) : CacheUnit → State
  | .l3 => s.l3Clear (fun _ _ => true)
  | .l1 n => (List.range 8).foldl (fun s i => s.l1Clear (8 * n + i)) s
  | .l2 n => (s.l2Clear (fun cl _ => cl == n)).flushDeltas (fun d => d.cluster == n)

/-- CACHE_OPERATION_DONE: a cache's invalidate or disable write-back ends, and it holds no line (R207). -/
def execCacheOperationDone (u : CacheUnit) (s : State) : Out :=
  .next (if s.die.inReset then s
    else
      match u with
      | .l3 =>
        if !s.l3c.cache.busy then s else
        let s := s.emptied u
        { s with l3c := { s.l3c with cache := s.l3c.cache.done } }
      | .l1 n =>
        if 8 ≤ n || !(s.l1c n).busy then s else (s.emptied u).updCluster n (fun x => { x with l1 := x.l1.done })
      | .l2 n =>
        if 8 ≤ n || !(s.l2c n).busy then s else (s.emptied u).updCluster n (fun x => { x with l2 := x.l2.done }))

end Sys2Proof.Machine
end

