-- ==== Sys2Proof/Machine/Operands.lean ====
section
/-! DEFINITION. Registers, guards and operand forms of thread instructions, the issue of an instruction by
a group, and the traps that end a program (R54 to R61, R77 to R81). -/

namespace Sys2Proof.Machine

open Sys2Proof

/-! ### Registers -/

/-- The number by which a fragment's registers are free: of the group's primitive and the sample, and of nothing that the
course of rasterisation decides (R324). -/
def Group.fragSeed (g : Group) (fs : List Frag) (t : Nat) : Nat :=
  match fs[t]? with
  | some f => ((g.seed * 2 ^ 14 + f.x) * 2 ^ 14 + f.y) * 8 + f.sample
  | none => g.seed

/-- What a vector register holds that nothing has set. -/
def Group.unset (g : Group) (r t : Nat) : U32 :=
  match g.role with
  | .fragment _ fs => Config.startReg (g.fragSeed fs t) (64 * r + 0x20000)
  | _ => Config.startReg g.seed (64 * r + t)

/-- What a predicate holds that nothing has set. -/
def Group.unsetPred (g : Group) (p : Nat) : U64 :=
  match g.role with
  | .fragment _ fs => (List.range 64).foldl (fun m t => setBit m t (bit (Config.startPred (g.fragSeed fs t) p) 0)) 0
  | _ => Config.startPred g.seed p

/-- Vector register `r` of thread `t`. -/
def Group.reg (g : Group) (r t : Nat) : U32 := g.regs.get (g.first.get (g.unset r t) (64 * r + t)) (64 * r + t)

/-- Uniform register `r`. -/
def Group.ureg (g : Group) (r : Nat) : U32 := g.uregs.get (Config.startReg g.seed (0x10000 + r)) r

/-- Predicate register `p`; p7 reads all ones (R59). -/
def Group.pred (g : Group) (p : Nat) : U64 :=
  if p = 7 then 0xFFFFFFFFFFFFFFFF else g.preds.get (g.unsetPred p) p

def Group.setReg (g : Group) (r t : Nat) (v : U32) : Group := { g with regs := g.regs.set (64 * r + t) v }

def Group.setUreg (g : Group) (r : Nat) (v : U32) : Group := { g with uregs := g.uregs.set r v }

/-- One bit of a predicate; writes to p7 are discarded (R59). -/
def Group.setPred (g : Group) (p t : Nat) (b : Bool) : Group :=
  if p = 7 then g else { g with preds := g.preds.set p (setBit (g.pred p) t b) }

/-- A 64-bit value in an aligned pair, low word first (R57). -/
def Group.pair (g : Group) (r t : Nat) : U64 := (g.reg (r + 1) t).zeroExtend 64 <<< 32 ||| (g.reg r t).zeroExtend 64

def Group.setPair (g : Group) (r t : Nat) (v : U64) : Group :=
  (g.setReg r t (v.truncate 32)).setReg (r + 1) t ((v >>> 32).truncate 32)

/-- A uniform pair. -/
def Group.upair (g : Group) (r : Nat) : U64 := (g.ureg (r + 1)).zeroExtend 64 <<< 32 ||| (g.ureg r).zeroExtend 64

/-! ### Guards -/

/-- The executing set: active threads whose guard bit is 1, or 0 where the guard is negated (R60, R61). -/
def Group.executing (g : Group) (pneg : Bool) (p : BitVec 3) : U64 :=
  g.active &&& (if pneg then ~~~(g.pred p.toNat) else g.pred p.toNat)

/-- The threads of a mask, ascending (R54). -/
def threads (m : U64) : List Nat := bitsOf m

/-! ### Issue and traps -/

/-- Group `i` may issue: its command runs and it does not wait. -/
def State.mayIssue (s : State) (i : Nat) : Option Group :=
  match s.groups.find i with
  | none => none
  | some g =>
    match s.jobs.find g.job with
    | none => none
    | some v => if !s.die.inReset && v.st = .running && !g.retired && g.wait = .none then some g else none

/-- The TILE of a group in fault records: that of its fragments, or 0xFFFF for vertices (R301, R328). -/
def State.setTile (s : State) (j t : Nat) : State := s.updJob j (fun v => { v with tile := t })

def State.tileOf (s : State) (g : Group) : State :=
  match g.role with
  | .kernel => s
  | .vertex _ _ => s.setTile g.job 0xFFFF
  | .fragment t _ => s.setTile g.job t

/-- What follows is done by the core of a group. -/
def State.onGroup (s : State) (g : Group) : State := (s.tileOf g).on ((s.blocks.find g.block).map Block.core)

/-- The private memory of a group's resident slot, in its context's address space (R243). -/
def State.privSlot (s : State) (g : Group) : Nat :=
  match s.jobs.find g.job with
  | none => 0
  | some v =>
    let c := s.ctx v.ctx
    let k := (s.blocks.find g.block).elim 0 Block.core
    (c.privBase.toNat + ((s.dieNo * 64 + k) * 64 + 16 * (g.index % 4) + g.slot) * c.privPerGroup.toNat) % 2 ^ 64

/-- A group's stack entry, as it stands once the 16 bytes spilled for it have been read back as `got`. -/
def filled (entry : Nat × Nat × U64) (put got : Nat) : Nat × Nat × U64 := if put = got then entry else Config.stackEntry got

/-- Reconvergence entries below the top 16 go to the group's private memory and come back as the stack shrinks: entry `k`
from the bottom lies at 16 * k (R63, R243). -/
def State.moveStack (s : State) (i : Nat) (g : Group) : State :=
  let want := g.stack.length - 16
  let n := g.spilled.length
  let at_ := s.privSlot g + 16 * min want n
  let c := (s.jobs.find g.job).elim 0 Job.ctx
  let low := g.stack.reverse
  let put := fun (s : State) (g : Group) => { s with groups := s.groups.set i g }
  if want = n then s
  else if n < want then
    let new := ((low.take want).drop n).map (fun e => Config.stackBytes e.1 e.2.1 e.2.2 % 2 ^ 128)
    (s.onGroup g).probed g.job 0 [(at_, 16 * (want - n), .write)] (fun s =>
      let s := (s.vwrite c at_ (new.flatMap (toBytes 16))).noteVirtual g.job c at_ (16 * (want - n))
      put s { g with spilled := g.spilled ++ new })
  else
    (s.onGroup g).probed g.job 0 [(at_, 16 * (n - want), .read)] (fun s =>
      let bs := s.vread c at_ (16 * (n - want))
      let back := (low.drop want).zipIdx.map (fun e =>
        if e.2 < n - want then filled e.1 ((g.spilled[want + e.2]?).getD 0) (field bs (16 * e.2) 16) else e.1)
      put s { g with stack := (low.take want ++ back).reverse, spilled := g.spilled.take want })

/-- The state with a group replaced; its reconvergence stack keeps 16 entries on chip (R63). -/
def State.setGroup (s : State) (i : Nat) (g : Group) : State :=
  let t := { s with groups := s.groups.set i g }
  if g.stack.length ≤ 16 && g.spilled.isEmpty then t else State.moveStack t i g

/-- ADDR and INFO of a trap at the group's instruction (R302). -/
def State.trapAt (s : State) (g : Group) (k : Nat → Nat → Nat → BitVec 24 → LosingError) (t : Nat) : State :=
  (s.tileOf g).loseJob g.job (k t g.index ((s.blocks.find g.block).elim 0 Block.linear) (BitVec.ofNat 24 g.pc))

/-- A program trap of a kind, at a thread (R81, R302). -/
def State.trap (s : State) (g : Group) (kind t : Nat) : State := s.trapAt g (.trap (BitVec.ofNat 8 kind)) t

/-- The lowest thread of a mask. -/
def lowest (m : U64) : Nat := (threads m).headD 0

/-- A path that has reached the join of the top entry goes on with the entry (R62). -/
def reconverge (pc : Nat) (active live : U64) : List (Nat × Nat × U64) → Nat × U64 × List (Nat × Nat × U64)
  | [] => (pc, active, [])
  | (join, a, m) :: st =>
    if pc = join then reconverge a (m &&& live) live st else (pc, active, (join, a, m) :: st)

/-- The group at a new address. -/
def Group.goto (g : Group) (pc : Nat) : Group :=
  let r := reconverge pc g.active g.live g.stack
  { g with pc := r.1, active := r.2.1, stack := r.2.2 }

/-- The group past an instruction of `n` words. -/
def Group.advance (g : Group) (n : Nat) : Group := g.goto (g.pc + n)

/-- The words of a form V instruction: two in the long form (R78). -/
def vWords (f : VForm) : Nat := if f.sel = 2 then 2 else 1

/-- The instruction of group `i` runs: an empty executing set has no effect (R61), an undefined encoding
traps (R81), and otherwise the continuation gives the group with its results. -/
def State.runV (s : State) (i : Nat) (f : VForm) (ok : Group → Bool) (k : Group → U64 → Group) : State :=
  match s.mayIssue i with
  | none => s
  | some g =>
    let e := g.executing f.pneg f.pred
    if e = 0 then s.setGroup i (g.advance (vWords f))
    else if f.sel = 3 || !ok g then s.trap g 1 (lowest e)
    else s.setGroup i ((k g e).advance (vWords f))

/-- The group with a per-thread result for each executing thread, every source read before any write. -/
def Group.each (g : Group) (e : U64) (k : Group → Nat → Group) : Group := (threads e).foldl k g

/-! ### Checks on register names -/

/-- Vector registers `r` to `r + n - 1` lie below N (R56). -/
def Group.names (g : Group) (r n : Nat) : Bool := decide (r + n ≤ g.n)

/-- An aligned pair below N (R57). -/
def Group.namesPair (g : Group) (r : Nat) : Bool := r % 2 == 0 && g.names r 2

/-- A 32-bit source B is defined: a register below N, a uniform register, or an immediate (R78). -/
def Group.okB (g : Group) (f : VForm) : Bool :=
  match f.sel.toNat with
  | 0 => g.names f.sb.toNat 1
  | 1 => decide (f.sb.toNat < 64)
  | 2 => true
  | _ => false

/-- A 64-bit source B is defined. -/
def Group.okB64 (g : Group) (f : VForm) : Bool :=
  match f.sel.toNat with
  | 0 => g.namesPair f.sb.toNat
  | 1 => decide (f.sb.toNat < 64) && f.sb.toNat % 2 == 0
  | 2 => true
  | _ => false

/-- Source B of thread `t` (R78). -/
def Group.srcB (g : Group) (f : VForm) (t : Nat) : U32 :=
  match f.sel.toNat with
  | 0 => g.reg f.sb.toNat t
  | 1 => g.ureg f.sb.toNat
  | _ => f.imm

/-- A 64-bit source B of thread `t`. What a 32-bit immediate stands for in an FP64 operation is not stated. -/
def Group.srcB64 (g : Group) (f : VForm) (t : Nat) : U64 :=
  match f.sel.toNat with
  | 0 => g.pair f.sb.toNat t
  | 1 => g.upair f.sb.toNat
  | _ => Config.imm64 f.imm

/-- The bits NEG A, NEG B, ABS A and ABS B (R78). -/
def negA (f : VForm) : Bool := bit f.negAbs 3
def negB (f : VForm) : Bool := bit f.negAbs 2
def absA (f : VForm) : Bool := bit f.negAbs 1
def absB (f : VForm) : Bool := bit f.negAbs 0

/-- A command's loose-thread count grows by one for an execution in a relaxed context (R75, R165). -/
def State.loosen (s : State) (j : Nat) : State :=
  match s.jobs.find j with
  | none => s
  | some v => if s.strict v then s else s.updJob j (fun v => { v with loose := satAdd32 v.loose 1 })

/-- The context of a group is strict. -/
def State.strictGroup (s : State) (g : Group) : Bool :=
  match s.jobs.find g.job with
  | none => false
  | some v => s.strict v

/-- The command-stream level of a group's context. -/
def State.levelOf (s : State) (g : Group) : Nat :=
  match s.jobs.find g.job with
  | none => 0
  | some v => (s.ctx v.ctx).csLevel.toNat

end Sys2Proof.Machine
end

