-- ==== Sys2Proof/Machine/Control.lean ====
section
/-! DEFINITION. Branches, calls, barriers and fences (R62, R63, R71 to R74, R80), the parking of a block
(R283), and undefined encodings (R81). EXIT stands in Exit.lean. -/

namespace Sys2Proof.Machine

open Sys2Proof

/-! ### Branches and calls -/

/-- An address at a signed offset, both in 8-byte words (R80). -/
def jump (pc : Nat) (off : BitVec 24) : Nat := (((pc : Int) + off.toInt) % (2 ^ 61 : Int)).toNat

/-- The depth that a group's reconvergence stack may reach: 16 entries on chip and 16 bytes of private memory
for each further one (R63, R243). -/
def State.stackLimit (s : State) (g : Group) : Nat :=
  match s.jobs.find g.job with
  | none => 16
  | some v => 16 + (s.ctx v.ctx).privPerGroup.toNat / 16

/-- BRA: an empty executing set falls through, and active threads that all branch jump together (R61); else the join and the fall-through path are pushed
and the branching threads run first (R62, R63). -/
def execBra (g : Nat) (f : BForm) (s : State) : Out :=
  .next (
    match s.mayIssue g with
    | none => s
    | some x =>
      let e := x.executing f.pneg f.pred
      if e = 0 then s.setGroup g (x.advance 1)
      else if e = x.active then s.setGroup g (x.goto (jump x.pc f.target))
      else if s.stackLimit x < x.stack.length + 2 then s.trap x 1 (lowest e)
      else
        let join := jump x.pc f.join
        let st := (join, x.pc + 1, x.active &&& ~~~e) :: (join, join, x.active) :: x.stack
        s.setGroup g (Group.goto { x with active := e, stack := st } (jump x.pc f.target)))

/-- CALL: the group goes to the target and the address after the CALL is kept (R80). -/
def execCall (g : Nat) (f : BForm) (s : State) : Out :=
  .next (
    match s.mayIssue g with
    | none => s
    | some x =>
      if x.executing f.pneg f.pred = 0 then s.setGroup g (x.advance 1)
      else s.setGroup g (Group.goto { x with calls := (x.pc + 1) :: x.calls } (jump x.pc f.target)))

/-- RET: the group goes to the address that the innermost CALL kept (R80). -/
def execRet (g : Nat) (f : BForm) (s : State) : Out :=
  .next (
    match s.mayIssue g with
    | none => s
    | some x =>
      let e := x.executing f.pneg f.pred
      if e = 0 then s.setGroup g (x.advance 1) else
      match x.calls with
      | [] => s.trap x 1 (lowest e)
      | a :: rest => s.setGroup g (Group.goto { x with calls := rest } a))

/-! ### Barriers -/

/-- The live groups of a block with their keys. -/
def State.liveGroups (s : State) (b : Nat) : List (Nat × Group) :=
  s.groups.filter (fun g => g.2.block == b && !g.2.retired)

/-- The state with a block replaced. -/
def State.setBlock (s : State) (b : Nat) (x : Block) : State := { s with blocks := s.blocks.set b x }

/-- The waiting groups of a list go on. -/
def State.wakeGroups (s : State) (gs : List Nat) : State :=
  { s with groups := s.groups.mapVals (fun k g => if gs.contains k then { g with wait := .none } else g) }

/-- Every block of a suspending PARKABLE kernel that has not retired is parked: the node has stopped and gives up its
cores (R282, R283). -/
def State.parkDone (s : State) (j : Nat) : State :=
  let bs := s.blocks.filter (fun b => b.2.job == j && !b.2.retired)
  if bs.all (fun b => b.2.parked) then
    s.updJob j (fun v =>
      if v.suspending && v.parkable && v.kind = 1 && v.st = .running &&
          (!bs.isEmpty || decide (v.nextBlock < gridBlocks v.payload)) then { v with st := .suspended, suspending := false, cores := 0 } else v)
  else s

/-- A block parks: its groups hold the register values of the block's start (R283). -/
def State.park (s : State) (b : Nat) (x : Block) : State :=
  match s.jobs.find x.job with
  | none => s
  | some v =>
    let s := s.setBlock b { x with parked := true }
    let s := { s with groups := s.groups.mapVals (fun _ g =>
      if g.block == b && !g.retired then { g with regs := [], uregs := startUregs v, preds := [] } else g) }
    s.parkDone x.job

/-- A completed barrier b15 parks its block: the node is PARKABLE and being suspended, every live group waited
at it, and every reconvergence stack is empty (R283). -/
def State.parks (s : State) (b n : Nat) (x : Block) (waiting : List Nat) : Bool :=
  n == 15 && (s.liveGroups b).all (fun g => waiting.contains g.1 && g.2.stack.isEmpty) &&
    (match s.jobs.find x.job with
     | none => false
     | some v => v.parkable && v.suspending)

/-- Barrier `n` of block `b` completes when its arrivals equal its expected count, and the groups that wait go
on (R71). -/
def State.settleBarrier (s : State) (b n : Nat) : State :=
  match s.blocks.find b with
  | none => s
  | some x =>
    match x.barriers.find n with
    | none => s
    | some y =>
      if y.arrived ≠ y.expected.getD (s.liveGroups b).length then s
      else
        let x := { x with barriers := x.barriers.del n }
        let t := (s.setBlock b x).wakeGroups y.waiting
        if s.parks b n x y.waiting then t.park b x else t

/-- A group arrives at a barrier, and waits there where the instruction is BAR.SYNC (R71, R73). DESIGN CHOICE: where the
arrivals at one barrier name different expected counts, the last arrival's governs (assumption 107). -/
def State.arrive (s : State) (i : Nat) (f : VForm) (waits : Bool) : State :=
  match s.mayIssue i with
  | none => s
  | some g =>
    let e := g.executing f.pneg f.pred
    if e = 0 then s.setGroup i (g.advance (vWords f))
    else if f.sel = 3 || f.sel = 2 || (f.sel == 1 && decide (64 ≤ f.sb.toNat)) then s.trap g 1 (lowest e)
    else if e ≠ g.live then s.trapAt g (.divergence false) (lowest e)
    else
      match s.blocks.find g.block with
      | none => s
      | some x =>
        let n := f.sa.toNat % 16
        let y := x.barriers.get {} n
        let y := { arrived := y.arrived + 1,
                   expected := if f.sel = 1 then some (g.ureg f.sb.toNat).toNat else none,
                   waiting := if waits then i :: y.waiting else y.waiting }
        let g := g.advance (vWords f)
        ((s.setBlock g.block { x with barriers := x.barriers.set n y }).setGroup i
          (if waits then { g with wait := .barrier n } else g)).settleBarrier g.block n

def execBarSync (g : Nat) (f : VForm) (s : State) : Out := .next (s.arrive g f true)

def execBarArrive (g : Nat) (f : VForm) (s : State) : Out := .next (s.arrive g f false)

/-- The blocks of block `b`'s cluster that have not retired. -/
def State.clusterBlocks (s : State) (x : Block) : List (Nat × Block) :=
  s.blocks.filter (fun e => e.2.job == x.job && e.2.cluster == x.cluster && !e.2.retired)

/-- The cluster barrier completes when all live groups of every block of the cluster that has not retired have
executed CBAR (R72). -/
def State.settleCbar (s : State) (b : Nat) : State :=
  match s.blocks.find b with
  | none => s
  | some x =>
    let bs := s.clusterBlocks x
    if bs.any (fun e => !e.2.cbar.isEmpty) &&
        bs.all (fun e => (s.liveGroups e.1).all (fun g => e.2.cbar.contains g.1)) then
      let s := bs.foldl (fun (s : State) e => s.wakeGroups e.2.cbar) s
      bs.foldl (fun (s : State) e => s.setBlock e.1 { e.2 with cbar := [] }) s
    else s

/-- CBAR (R72, R73). -/
def execCbar (g : Nat) (f : VForm) (s : State) : Out :=
  .next (
    match s.mayIssue g with
    | none => s
    | some x =>
      let e := x.executing f.pneg f.pred
      if e = 0 then s.setGroup g (x.advance (vWords f))
      else if f.sel = 3 then s.trap x 1 (lowest e)
      else if e ≠ x.live then s.trapAt x (.divergence false) (lowest e)
      else
        match s.blocks.find x.block with
        | none => s
        | some b =>
          ((s.setBlock x.block { b with cbar := g :: b.cbar }).setGroup g
            { x.advance (vWords f) with wait := .cbar }).settleCbar x.block)

/-! ### Fences -/

/-- The hardware cluster on which a group runs. -/
def State.clusterOf (s : State) (g : Group) : Nat := (s.blocks.find g.block).elim 0 (fun b => b.core / 8)

/-- A release of a group at a scope: at die scope or wider the anchored deltas that its cluster holds are added
at their homes, those of lines that the sibling die homes at package scope or wider; dirty bytes of such lines go there
too (R74, R145, R205). -/
def State.release (s : State) (g : Group) (scope : Nat) : State :=
  let c := s.clusterOf g
  if scope < 4 then s
  else
    let s := s.flushDeltas (fun d => d.cluster == c && (decide (5 ≤ scope) || target d.pa != 1))
    if scope < 5 then s else s.l2Flush c

/-- An acquire of a group at a scope: at cluster scope or wider the L1 of its core is invalidated, and at package scope or
wider the lines of its L2 that the sibling die homes (R74, R205, R206). -/
def State.acquire (s : State) (g : Group) (scope : Nat) : State :=
  if scope < 3 then s else
  let s := s.l1Clear ((s.blocks.find g.block).elim 0 Block.core)
  if scope < 5 then s else
  let c := s.clusterOf g
  s.l2Clear (fun cl l => cl == c && target (l.tag * 128) == 1)

/-- FENCE orders what a release and an acquire at its scope order (R74, R78). -/
def execFence (g : Nat) (f : VForm) (s : State) : Out :=
  .next (
    match s.mayIssue g with
    | none => s
    | some x =>
      let e := x.executing f.pneg f.pred
      if e = 0 then s.setGroup g (x.advance (vWords f))
      else if f.sel = 3 || f.sub.toNat % 8 = 7 then s.trap x 1 (lowest e)
      else ((s.release x (f.sub.toNat % 8)).acquire x (f.sub.toNat % 8)).setGroup g (x.advance (vWords f)))

/-! ### Undefined encodings -/

/-- An instruction that the manual does not define traps, unless its executing set is empty (R61, R77, R81). DESIGN CHOICE:
with an empty executing set the group goes on after one word, also where bits of the word read as a form V source
selector of 2 (assumption 111). -/
def execUndefinedEncoding (g : Nat) (word : U64) (s : State) : Out :=
  .next (
    match s.mayIssue g with
    | none => s
    | some x =>
      let e := x.executing (bit word 63) ((word >>> 60).truncate 3)
      if e = 0 then s.setGroup g (x.advance 1) else s.trap x 1 (lowest e))

end Sys2Proof.Machine
end

