-- ==== Sys2Proof/Machine/Lms.lean ====
section
/-! DEFINITION. The verification of an LMS signature with the types of R452 and R463: LMS_SHA256_M32_H15 over
LMOTS_SHA256_N32_W8. The manual names RFC 8554 for it; the steps and constants below are that document's (PRESUMED). -/

namespace Sys2Proof.Machine

open Sys2Proof

/-- A number as `n` bytes, most significant first. -/
def bigBytes (n v : Nat) : List U8 := (toBytes n v).reverse

/-- The number in `n` bytes from an offset, most significant first. -/
def bigField (bs : List U8) (off n : Nat) : Nat := ofBytes ((bs.drop off).take n).reverse

/-- The `i`-th 32-byte string of a list of bytes. -/
def chunk (bs : List U8) (i : Nat) : List U8 := (bs.drop (32 * i)).take 32

/-- A one-time chain from step `j` on, `n` steps long: identifier, leaf, chain. -/
def otsChain (id : List U8) (q i : Nat) : (n j : Nat) → List U8 → List U8
  | 0, _, x => x
  | n + 1, j, x => otsChain id q i n (j + 1) (sha256 (id ++ bigBytes 4 q ++ bigBytes 2 i ++ bigBytes 1 j ++ x))

/-- The one-time public key that a signature of 1,124 bytes implies for a message. -/
def otsKey (id : List U8) (q : Nat) (msg sig : List U8) : List U8 :=
  let h := sha256 (id ++ bigBytes 4 q ++ bigBytes 2 0x8181 ++ (sig.drop 4).take 32 ++ msg)
  let sum := (h.map (fun b => 255 - b.toNat)).sum
  let coef := (h ++ bigBytes 2 sum).map BitVec.toNat
  let y := sig.drop 36
  let z := (List.range 34).flatMap (fun i =>
    let a := (coef[i]?).getD 0
    otsChain id q i (255 - a) a (chunk y i))
  sha256 (id ++ bigBytes 4 q ++ bigBytes 2 0x8080 ++ z)

/-- The root that a path of `n` nodes gives from a node and its number. -/
def treeRoot (id path : List U8) : (n i num : Nat) → List U8 → List U8
  | 0, _, _, x => x
  | n + 1, i, num, x =>
    let p := chunk path i
    let pair := if num % 2 = 1 then p ++ x else x ++ p
    treeRoot id path n (i + 1) (num / 2) (sha256 (id ++ bigBytes 4 (num / 2) ++ bigBytes 2 0x8383 ++ pair))

/-- A 1,612-byte signature of a message verifies under a 56-byte public key. -/
def lmsVerifies (pub msg sig : List U8) : Bool :=
  let id := (pub.drop 8).take 16
  let q := bigField sig 0 4
  let ots := (sig.drop 4).take 1124
  let num := 2 ^ 15 + q
  let leaf := sha256 (id ++ bigBytes 4 num ++ bigBytes 2 0x8282 ++ otsKey id q msg ots)
  pub.length == 56 && bigField pub 0 4 == 7 && bigField pub 4 4 == 4 && sig.length == 1612 &&
    bigField ots 0 4 == 4 && bigField sig 1128 4 == 7 && decide (q < 2 ^ 15) &&
    treeRoot id (sig.drop 1132) 15 0 num leaf == (pub.drop 24).take 32

end Sys2Proof.Machine
end

