-- ==== Sys2Proof/Machine/Firmware.lean ====
section
/-! DEFINITION. Flash: its layout, images and their verification, the activation record and the attestation state, and
the programming of uploaded blocks (R449 to R455, R459, R462). -/

namespace Sys2Proof.Machine

open Sys2Proof

/-! ### Layout (R451) -/

def slotA : Nat := 0x100000
def slotB : Nat := 0x1D00000
def slotSize : Nat := 28 * 2 ^ 20

/-- What an erased sector reads as (PRESUMED, NOR flash). -/
def erased : List U8 := List.replicate 4096 0xFF

/-- Bytes are programmed at a flash offset. -/
def State.program (s : State) (a : Nat) (bs : List U8) : State := { s with flash := s.flash.putBytes a bs }

/-! ### Images and manifests (R452, R453) -/

/-- The first 4 KiB of a slot: its manifest. -/
def manifest (flash : Mem) (base : Nat) : List U8 := flash.bytes base 4096

def imgEpoch (m : List U8) : Nat := field m 8 4
def imgDies (m : List U8) : Nat := field m 6 1
def imgLength (m : List U8) : Nat := field m 12 4
def imgPub (m : List U8) : List U8 := (m.drop 0x440).take 56
def imgSig (m : List U8) : List U8 := (m.drop 0x480).take 1612
def imgSigned (m : List U8) : List U8 := m.take 0x480

/-- The manifest digest. -/
def imgDigest (m : List U8) : List U8 := sha256 (imgSigned m)

/-- The part entries. -/
def imgEntries (m : List U8) : List (List U8) :=
  (List.range (field m 5 1)).map (fun i => (m.drop (0x40 + 64 * i)).take 64)

def entKind (e : List U8) : Nat := field e 0 1
def entDie (e : List U8) (d : Nat) : Bool := field e 1 1 / 2 ^ d % 2 == 1
def entOffset (e : List U8) : Nat := field e 4 4
def entLength (e : List U8) : Nat := field e 8 4

/-- Every byte of a range is zero. -/
def zeroRange (b : List U8) (off n : Nat) : Bool := ((b.drop off).take n).all (· == 0)

/-- An entry's own layout. -/
def entOk (len : Nat) (e : List U8) : Bool :=
  decide (1 ≤ entKind e) && decide (entKind e ≤ 6) && decide (field e 1 1 < 4) && zeroRange e 2 2 && zeroRange e 12 4 &&
    zeroRange e 52 12 && entOffset e % 4096 == 0 && decide (0x1000 ≤ entOffset e) &&
    decide (entOffset e + entLength e ≤ len)

/-- No two parts of a list overlap. -/
def partsApart : List (List U8) → Bool
  | [] => true
  | e :: es =>
    es.all (fun f => decide (entOffset e + entLength e ≤ entOffset f) || decide (entOffset f + entLength f ≤ entOffset e)) &&
      partsApart es

/-- Every kind is covered by exactly one entry for every die. -/
def kindsCovered (dies : Nat) (es : List (List U8)) : Bool :=
  (List.range dies).all (fun d => (List.range 6).all (fun k =>
    (es.filter (fun e => entKind e == k + 1 && entDie e d)).length == 1))

/-- Reason 1: the manifest's layout; the length equals the uploaded one where there is one. -/
def layoutOk (m : List U8) (uploaded : Option Nat) : Bool :=
  let n := field m 5 1
  let es := imgEntries m
  let len := imgLength m
  field m 0 4 == 0x464E4D4C && field m 4 1 == 1 && decide (6 ≤ n) && decide (n ≤ 16) &&
    (imgDies m == 1 || imgDies m == 2) && decide (field m 7 1 < 8) && decide (1 ≤ imgEpoch m) &&
    len % 4096 == 0 && decide (len ≤ slotSize) && uploaded.all (· == len) &&
    zeroRange m 0x12 46 && zeroRange m (0x40 + 64 * n) (64 * (16 - n)) && zeroRange m 0x478 8 &&
    zeroRange m 0xACC (0x1000 - 0xACC) && es.all (entOk len) && partsApart es && kindsCovered (imgDies m) es

/-- The bytes of a part. -/
def partBytes (flash : Mem) (base : Nat) (e : List U8) : List U8 := flash.bytes (base + entOffset e) (entLength e)

/-- A part's digest matches its entry. -/
def partMatches (flash : Mem) (base : Nat) (e : List U8) : Bool :=
  sha256 (partBytes flash base e) == (e.drop 16).take 32

/-- A default-pattern part is a complete stream of format level 3 whose header declares the dies (R454). -/
def patternOk (dies : Nat) (bs : List U8) : Bool :=
  let r := parseRecs (bs.length / 4 + 1) 0 bs
  let flags := field (r.1.headD { off := 0, type := 0, body := [] }).body 2 2
  (formFault bs r.1 r.2).isNone && flags % 2 == 0 && (flags / 2 % 2 == 1) == (dies == 2)

/-- The root key digest in mask ROM. -/
def rootDigest : List U8 := (List.range 32).map Config.rootKeyDigest

/-- The verification of a slot for a package of `dies` dies (R455): 0, or the number of the first check that fails. -/
def State.verifySlot (s : State) (base dies : Nat) (uploaded : Option Nat) : Nat :=
  let m := manifest s.flash base
  let es := imgEntries m
  if !layoutOk m uploaded then 1
  else if sha256 (imgPub m) ≠ rootDigest || bigField (imgPub m) 0 4 ≠ 7 || bigField (imgPub m) 4 4 ≠ 4 then 2
  else if !lmsVerifies (imgPub m) (imgSigned m) (imgSig m) then 3
  else if field m 7 1 / 2 ^ (s.die.part.code - 1) % 2 = 0 || s.die.stepping.code < field m 0x11 1 || field m 0x10 1 ≠ 5 ||
      imgDies m ≠ dies then 4
  else if !es.all (partMatches s.flash base) then 5
  else if !(es.filter (fun e => entKind e == 5)).all (fun e => patternOk dies (partBytes s.flash base e)) then 6
  else 0

/-- The kinds of part that a unit owns: T0, T1, T2 and T4 in the order of the acknowledgement mask. -/
def unitKinds : Nat → List Nat
  | 0 => [1]
  | 1 => [2, 5]
  | 2 => [3, 6]
  | _ => [4]

/-- An owning unit of this die acknowledges slot B: the digests of its parts and their own form (R457). -/
def State.unitAccepts (s : State) (u : Nat) : Bool :=
  let m := manifest s.flash slotB
  ((imgEntries m).filter (fun e => entDie e s.dieNo && (unitKinds u).contains (entKind e))).all (fun e =>
    partMatches s.flash slotB e && (entKind e != 5 || patternOk (imgDies m) (partBytes s.flash slotB e)))

/-! ### The activation record (R451, R459) -/

/-- A copy of the activation record. -/
structure ActRec where
  seq : Nat := 0
  active : Nat := 0
  armed : Nat := 0
  dies : Nat := 1
  state : Nat := 0
  digest : List U8 := []
deriving DecidableEq, Repr

/-- The 52 bytes that the check covers. -/
def ActRec.body (r : ActRec) : List U8 :=
  toBytes 4 0x5443414C ++ toBytes 4 r.seq ++ toBytes 4 r.active ++ toBytes 4 r.armed ++ toBytes 1 r.dies ++
    toBytes 1 r.state ++ [0, 0] ++ (r.digest ++ List.replicate 32 0).take 32

/-- The valid record at a flash offset. -/
def actAt (flash : Mem) (a : Nat) : Option ActRec :=
  let b := flash.bytes a 56
  if field b 0 4 ≠ 0x5443414C || (crc32c (b.take 52)).toNat ≠ field b 52 4 then none
  else some
    { seq := field b 4 4, active := field b 8 4, armed := field b 12 4, dies := field b 16 1, state := field b 17 1,
      digest := (b.drop 20).take 32 }

/-- The copy with the higher of two sequences, and whether it is the second. -/
def newerOf {α : Type} (x y : Option α) (seq : α → Nat) : Option (α × Bool) :=
  match x, y with
  | some a, some b => if seq a < seq b then some (b, true) else some (a, false)
  | some a, none => some (a, false)
  | none, some b => some (b, true)
  | none, none => none

/-- The record that stands, and the offset of the other copy. -/
def State.actRec (s : State) : ActRec × Nat :=
  match newerOf (actAt s.flash 0) (actAt s.flash 0x8000) ActRec.seq with
  | some (r, true) => (r, 0)
  | some (r, false) => (r, 0x8000)
  | none => ({}, 0)

/-- A new record goes to the copy that does not stand, with the sequence increased by one. -/
def State.writeAct (s : State) (r : ActRec) : State :=
  let (old, a) := s.actRec
  let r := { r with seq := old.seq + 1 }
  s.program a (r.body ++ toBytes 4 (crc32c r.body).toNat)

/-! ### The attestation state (R451, R462) -/

/-- The reserved limit in a copy: its number and a CRC-32C of it (DESIGN CHOICE: R451 gives the copies' places alone). -/
def limitAt (flash : Mem) (a : Nat) : Option Nat :=
  let b := flash.bytes a 8
  if (crc32c (b.take 4)).toNat ≠ field b 4 4 then none else some (field b 0 4)

/-- The higher valid limit, and the offset of the older copy. -/
def State.limitCopy (s : State) : Nat × Nat :=
  match newerOf (limitAt s.flash 0x30000) (limitAt s.flash 0x38000) id with
  | some (n, true) => (n, 0x30000)
  | some (n, false) => (n, 0x38000)
  | none => (0, 0x30000)

/-- A new limit goes to the older copy. -/
def State.writeLimit (s : State) (n : Nat) : State :=
  (s.program s.limitCopy.2 (toBytes 4 n ++ toBytes 4 (crc32c (toBytes 4 n)).toNat))

/-! ### Uploaded blocks (R449) -/

/-- T0 erases and programs the sector of the block that has waited longest. -/
def State.programNext (s : State) : State :=
  match s.svc.buffer with
  | [] => s
  | (i, bs) :: rest =>
    let s := s.program (slotB + 4096 * i) bs
    { s with svc := { s.svc with buffer := rest } }

/-- Every buffered block is programmed. -/
def State.programAll (s : State) : State := (List.range s.svc.buffer.length).foldl (fun (s : State) _ => s.programNext) s

end Sys2Proof.Machine
end

