-- ==== Sys2Proof/Machine/MemoryInstr.lean ====
section
/-! DEFINITION. Loads, stores and atomic operations (R68, R69, R74, R75, R79, R81, R142 to R146, R177, R179). -/

namespace Sys2Proof.Machine

open Sys2Proof

/-! ### Operands -/

/-- The bytes of an access (R79). -/
def sizeBytes (f : MForm) : Nat := 2 ^ f.size.toNat

/-- The registers of a value of `n` bytes are defined: one, an aligned pair, or four (R56, R57). DESIGN CHOICE: the first
of the four registers of a 16-byte value need not be even (assumption 109). -/
def Group.okData (g : Group) (r n : Nat) : Bool :=
  if n ≤ 4 then g.names r 1 else if n = 8 then g.namesPair r else g.names r 4

/-- The address register is defined: a pair for global addresses. -/
def Group.okAddr (g : Group) (f : MForm) : Bool :=
  if f.space = 0 then g.namesPair f.addr.toNat else g.names f.addr.toNat 1

/-- SIZE, SEM and SCOPE have defined values (R79). -/
def okForm (f : MForm) : Bool := decide (f.size.toNat ≤ 4) && f.sem != 3 && f.scope != 7

/-- The address of thread `t` at an offset. -/
def Group.addrAt (g : Group) (f : MForm) (off : Int) (t : Nat) : Nat :=
  if f.space = 0 then (((g.pair f.addr.toNat t).toNat + off) % (2 ^ 64 : Int)).toNat
  else (((g.reg f.addr.toNat t).toNat + off) % (2 ^ 32 : Int)).toNat

/-- The `n`-byte value that registers from `r` on hold. -/
def Group.data (g : Group) (r t n : Nat) : Nat :=
  if n ≤ 4 then (g.reg r t).toNat % 2 ^ (8 * n)
  else if n = 8 then (g.pair r t).toNat
  else (g.pair r t).toNat + 2 ^ 64 * (g.pair (r + 2) t).toNat

/-- The registers from `r` on take an `n`-byte value. -/
def Group.setData (g : Group) (r t n v : Nat) : Group :=
  if n < 4 then
    let x := BitVec.ofNat 32 (v % 2 ^ (8 * n))
    g.setReg r t (x ||| (Config.aboveLoad n x >>> (8 * n)) <<< (8 * n))
  else if n = 4 then g.setReg r t (BitVec.ofNat 32 v)
  else if n = 8 then g.setPair r t (BitVec.ofNat 64 v)
  else (g.setPair r t (BitVec.ofNat 64 v)).setPair (r + 2) t (BitVec.ofNat 64 (v / 2 ^ 64))

/-! ### The checks of an access -/

/-- The context and partition of a group. -/
def State.ctxOf (s : State) (g : Group) : Nat := (s.jobs.find g.job).elim 0 Job.ctx
def State.partOfGroup (s : State) (g : Group) : Nat := (s.ctx (s.ctxOf g)).partition

/-- The trap of one thread's access (R68, R81). -/
def State.threadTrap (s : State) (g : Group) (space a n : Nat) : Option Nat :=
  if a % n ≠ 0 then some 3 else s.rangeTrap (s.partOfGroup g) g.block space a n

/-- The trap of the lowest thread whose access has one. -/
def State.accessTrap (s : State) (g : Group) (space n : Nat) (as : List (Nat × Nat)) : Option (Nat × Nat) :=
  as.findSome? (fun e => (s.threadTrap g space e.2 n).map (fun k => (e.1, k)))

/-- The physical address of a byte of SPACE 0 or 3. -/
def State.physIn (s : State) (g : Group) (space a : Nat) (acc : Access) : Nat :=
  if space = 0 then s.physOf (s.ctxOf g) a acc else (s.spool3 (s.partOfGroup g) a).getD 0

/-- A thread writes to a PACK granule (R179). -/
def State.packWrite (s : State) (g : Group) (space : Nat) (as : List (Nat × Nat)) : Option Nat :=
  if space ≠ 3 then none else
  as.findSome? (fun e =>
    let pa := s.physIn g 3 e.2 .write
    match s.spoolPlace pa with
    | some (d, b, o) =>
      if d = s.dieNo && (s.spl.grans.get {} (256 * b + o / 0x10000)).st == .pack then some pa else none
    | none => none)

/-- An access meets an error at the address of its lowest thread. -/
def State.meetsAt (s : State) (g : Group) (space a : Nat) (acc : Access) (e : MemEvent) : State × Bool :=
  if space = 0 || space = 3 then s.meets g.job (s.physIn g space a acc) e
  else
    match s.localPlace g.block space a with
    | none => (s, false)
    | some (b, o) =>
      match s.blocks.find b with
      | none => (s, false)
      | some x => s.meetsLocal g.job x.core (x.base + o) e

/-- A memory instruction of group `i`: an empty executing set has no effect, an undefined encoding or a thread's
trap ends the command (R61, R81), every page of a global access is probed (R228), its accesses wait while the partition
holds no credit and go through the core's caches (R23, R197), and the continuation gets the state, the group and the
address of each executing thread. -/
def State.runM (s : State) (i : Nat) (f : MForm) (off : Int) (ok : Group → Bool) (acc : Access) (e : MemEvent)
    (k : State → Group → List (Nat × Nat) → State) : State :=
  match s.mayIssue i with
  | none => s
  | some g =>
    let ex := g.executing f.pneg f.pred
    if ex = 0 then s.setGroup i (g.advance 1)
    else if !(okForm f && g.okAddr f && ok g) then s.trap g 1 (lowest ex)
    else
      let n := sizeBytes f
      let space := f.space.toNat
      let as := (threads ex).map (fun t => (t, g.addrAt f off t))
      match s.accessTrap g space n as with
      | some (t, kind) => s.trap g kind t
      | none =>
        let go := fun (s : State) =>
          match if acc = .read then none else s.packWrite g space as with
          | some pa => s.loseJob g.job (.selvedge acc 0 (BitVec.ofNat 64 pa))
          | none =>
            let m := s.meetsAt g space ((as.map Prod.snd).headD 0) acc e
            if m.2 then m.1 else k m.1 g as
        if space = 0 then (s.onGroup g).probedAs true g.job 0 (as.map (fun e => (e.2, n, acc))) go
        else go (if space = 3 then s.spoolAccess (s.partOfGroup g) acc (as.map (fun e => (e.2, n))) else s)

/-- The offset field of LD, ST and the atomics other than AFADD. -/
def offsetOf (f : MForm) : Int := f.offset.toInt

/-- A helper thread of a fragment group: it has no coverage, and it writes nothing (R319). -/
def Group.helper (g : Group) (t : Nat) : Bool :=
  match g.role with
  | .fragment _ fs => (fs[t]?).elim false (fun f => !f.covered)
  | _ => false

/-- The accesses, by thread, of the threads that are not helpers. -/
def Group.writers {α : Type} (g : Group) (as : List (Nat × α)) : List (Nat × α) := as.filter (fun a => !g.helper a.1)

/-! ### LD and ST -/

/-- Anchored deltas that the group's own cluster holds against the lines of an access are added first (R145). -/
def State.mergeDeltas (s : State) (g : Group) (space : Nat) (as : List (Nat × Nat)) : State :=
  if space ≠ 0 then s else
  let c := s.clusterOf g
  as.foldl (fun s e =>
    s.mergeLine c (s.partOfGroup g) (s.physIn g 0 e.2 .read)) s

/-- The acquire of a load, and of an atomic operation, whose SEM is 2 (R74, R79). -/
def State.acquires (s : State) (x : Group) (f : MForm) : State := if f.sem = 2 then s.acquire x f.scope.toNat else s

/-- LD: every thread's bytes are read, and then the registers take them (R79); an acquire orders what comes after it
(R74). -/
def execLd (g : Nat) (f : MForm) (e : MemEvent) (s : State) : Out :=
  let n := sizeBytes f
  .next (s.runM g f (offsetOf f) (fun x => x.okData f.data.toNat n) .read e (fun s x as =>
    let s := s.mergeDeltas x f.space.toNat as
    let y := as.foldl (fun y a =>
      y.setData f.data.toNat a.1 n (ofBytes (s.spaceRead (s.ctxOf x) x.block f.space.toNat a.2 n))) x
    (s.acquires x f).setGroup g (y.advance 1)))

/-- One thread's bytes go to memory. -/
def State.storeAt (s : State) (g : Group) (space a n v : Nat) : State :=
  (s.spaceWrite (s.ctxOf g) g.block space a (toBytes n v) false).noteSpace g.job (s.ctxOf g) space a n

/-- ST: threads write in ascending order, so the highest thread's value stands where several write one word (R69);
a release orders what came before it (R74). -/
def execSt (g : Nat) (f : MForm) (e : MemEvent) (s : State) : Out :=
  let n := sizeBytes f
  .next (s.runM g f (offsetOf f) (fun x => x.okData f.data.toNat n) .write e (fun s x as =>
    let s := if f.sem = 2 then s.release x f.scope.toNat else s
    let s := (x.writers as).foldl (fun s a => s.storeAt x f.space.toNat a.2 n (x.data f.data.toNat a.1 n)) s
    s.setGroup g (x.advance 1)))

/-! ### Atomic operations -/

/-- The operation returns the old value. -/
def atomReturns : AtomOp → Bool
  | .iadd r => r | .and r => r | .or r => r | .xor r => r
  | .imin r _ => r | .imax r _ => r
  | .exch => true
  | .fadd r => r

/-- The operation's outcome depends on timing (R75). -/
def atomLoose (op : AtomOp) : Bool :=
  atomReturns op || (match op with
    | .fadd _ => true
    | _ => false)

/-- The new value of `n` bytes from the old one and the operand. -/
def atomResult (op : AtomOp) (n old v : Nat) : Nat :=
  let w := 8 * n
  let less := fun (signed : Bool) => if signed then decide (signedOf w old < signedOf w v) else decide (old < v)
  match op with
  | .iadd _ => (old + v) % 2 ^ w
  | .and _ => Nat.land old v
  | .or _ => Nat.lor old v
  | .xor _ => Nat.xor old v
  | .imin _ signed => if less signed then old else v
  | .imax _ signed => if less signed then v else old
  | .exch => v
  | .fadd _ =>
    let f := if n = 4 then Fmt.fp32 else Fmt.fp64
    f.encode .rne false (FVal.addWith .rne (f.decode old) (f.decode v))

/-- The atomic operations of the executing threads, one at a time in ascending order (R69): each computes a new
value from the old one, and old values go to DATA where the instruction returns them; a helper writes nothing (R319). -/
def State.atomics (s : State) (i : Nat) (x : Group) (f : MForm) (as : List (Nat × Nat)) (returns : Bool)
    (new : Nat → Nat → Nat) : State :=
  let n := sizeBytes f
  let space := f.space.toNat
  let r := as.foldl (fun (st : State × Group) a =>
    let old := ofBytes (st.1.spaceRead (st.1.ctxOf x) x.block space a.2 n)
    (if x.helper a.1 then st.1 else st.1.storeAt x space a.2 n (new a.1 old),
      if returns then st.2.setData f.data.toNat a.1 n old else st.2)) (s, x)
  (r.1.acquires x f).setGroup i (r.2.advance 1)

/-- The release of an atomic operation whose SEM is 2, which is acquire-release at its scope (R79). -/
def State.atomOrder (s : State) (x : Group) (f : MForm) : State :=
  if f.sem = 2 then s.release x f.scope.toNat else s

/-- ATOM: the operand is in DATA+1 (R79); a floating-point add without an anchor is an undefined encoding in a
strict context (R75). DESIGN CHOICE: an 8-byte operation that returns the old value would need pairs at both DATA and
DATA+1, of which one is odd: it is an undefined encoding (R57, assumption 108). FADD takes operands of 4 and of 8 bytes,
FP32 and FP64, and no other size (assumption 110). -/
def execAtom (g : Nat) (op : AtomOp) (f : MForm) (e : MemEvent) (s : State) : Out :=
  let n := sizeBytes f
  .next (s.runM g f (offsetOf f)
    (fun x => x.okData (f.data.toNat + 1) n && (!atomReturns op || x.okData f.data.toNat n) &&
      (match op with
       | .fadd _ => !s.strictGroup x && (n == 4 || n == 8)
       | _ => true))
    .atomic e (fun s x as =>
      let s := s.mergeDeltas x f.space.toNat as
      let s := if atomLoose op then s.loosen x.job else s
      (s.atomOrder x f).atomics g x f as (atomReturns op)
        (fun t old => atomResult op n old (x.data (f.data.toNat + 1) t n))))

/-- ATOM.CAS: memory that equals DATA takes DATA+1, and DATA takes the old value (R75, R79). -/
def execAtomCas (g : Nat) (f : MForm) (e : MemEvent) (s : State) : Out :=
  let n := sizeBytes f
  .next (s.runM g f (offsetOf f) (fun x => x.okData f.data.toNat n && x.okData (f.data.toNat + 1) n) .atomic e
    (fun s x as =>
      let s := s.mergeDeltas x f.space.toNat as
      ((s.loosen x.job).atomOrder x f).atomics g x f as true (fun t old =>
        if old = x.data f.data.toNat t n then x.data (f.data.toNat + 1) t n else old)))

/-! ### ATOM.AFADD -/

/-- The uniform register of the anchor and format (R142). -/
def afaddU (f : MForm) : Nat := f.offset.toNat % 256

/-- The operand format that the uniform register names, none where R142 forbids its value. -/
def afaddFmt (u : U32) : Option Fmt :=
  if u.toNat / 2 ^ 16 = 0x0E then some .fp32 else if u.toNat / 2 ^ 16 = 0x0F then some .fp64 else none

/-- The fields of ATOM.AFADD are as R142 gives. -/
def okAfadd (f : MForm) (g : Group) : Bool :=
  (f.size == 3 || f.size == 4) && f.data.toNat % 2 == 1 && f.sem != 2 && decide (afaddU f < 64) &&
    (match afaddFmt (g.ureg (afaddU f)) with
     | some .fp64 => g.namesPair (f.data.toNat + 1)
     | some _ => g.names (f.data.toNat + 1) 1
     | none => false)

/-- The operand of a thread. -/
def afaddOperand (f : MForm) (g : Group) (t : Nat) : FVal :=
  match afaddFmt (g.ureg (afaddU f)) with
  | some .fp64 => Fmt.fp64.decode (g.pair (f.data.toNat + 1) t).toNat
  | _ => Fmt.fp32.decode (g.reg (f.data.toNat + 1) t).toNat

/-- The largest integer not above a value times a power of two (R143). -/
def floorScaled (v : FVal) (k : Int) : Int :=
  match v with
  | .fin neg m e =>
    let q : Int := (roundMag .rdn neg m (e + k) : Nat)
    if neg then -q else q
  | _ => 0

/-- The bits of a slot below the anchor. -/
def afaddBelow (f : MForm) : Int := if f.size = 3 then 48 else 104

/-- An operand enters a slot: it is finite and below 2^A in magnitude (R144). -/
def afaddEnters (v : FVal) (anchor : Int) : Bool :=
  match v with
  | .fin _ m _ => m == 0 || FVal.lt v.abs (.fin false 1 anchor)
  | _ => false

/-- An anchored add to a global slot is held against its line in the L2 of the issuing cluster; where that L2 does not
hold the line it is added at the home at once, and host memory and Spool are updated in place (R145). -/
def State.addDelta (s : State) (g : Group) (a n v : Nat) : State :=
  let pa := s.physIn g 0 a .atomic
  if target pa = 0 || target pa = 1 then
    let c := s.clusterOf g
    let x := s.ctxOf g
    let s := s.note g.job pa n
    let mine := fun (d : Delta) => d.cluster == c && d.ctx == x && d.pa == pa && d.bytes == n
    if !(s.holders pa).contains c then
      s.poke pa (toBytes n ((s.mem.num pa n + v) % 2 ^ (8 * n)))
    else if s.deltas.any mine then
      { s with deltas := s.deltas.map (fun d => if mine d then { d with value := (d.value + v) % 2 ^ (8 * n) } else d) }
    else { s with deltas := s.deltas ++ [{ cluster := c, ctx := x, pa := pa, bytes := n, value := v }] }
  else s.storeAt g 0 a n ((ofBytes (s.vread (s.ctxOf g) a n) + v) % 2 ^ (8 * n))

/-- ATOM.AFADD: floors each thread's operand into the slot's fixed point and adds it (R142 to R145). The rules give
no trap kind for R144. -/
def execAtomAfadd (g : Nat) (f : MForm) (e : MemEvent) (s : State) : Out :=
  let n := sizeBytes f
  .next (s.runM g f ((f.offset.toNat / 256 : Nat) : Int) (okAfadd f) .atomic e (fun s x as =>
    let anchor := signedOf 16 (x.ureg (afaddU f)).toNat
    match as.find? (fun a => !afaddEnters (afaddOperand f x a.1) anchor) with
    | some a =>
      let (k, s) := s.free
      s.trap x (k % 256) a.1
    | none =>
      let s := (x.writers as).foldl (fun s a =>
        let v := wrapTo (8 * n) (floorScaled (afaddOperand f x a.1) (afaddBelow f - anchor))
        if f.space = 0 then s.addDelta x a.2 n v
        else
          let old := ofBytes (s.spaceRead (s.ctxOf x) x.block f.space.toNat a.2 n)
          s.storeAt x f.space.toNat a.2 n ((old + v) % 2 ^ (8 * n))) s
      s.setGroup g (x.advance 1)))

end Sys2Proof.Machine
end

