-- ==== Sys2Proof/Machine/Surface.lean ====
section
/-! DEFINITION. Surface formats, their components and blending, the fast-clear flags, and texture instructions
(R318, R320, R324, R332 to R335). -/

namespace Sys2Proof.Machine

open Sys2Proof

/-! ### Exact values -/

/-- A finite value as a rational number. -/
def FVal.rat : FVal → Option Rat
  | .fin neg m e =>
    let x : Rat := if 0 ≤ e then (m * 2 ^ e.toNat : Nat) else mkRat m (2 ^ (-e).toNat)
    some (if neg then -x else x)
  | _ => none

/-- A rational number as a value that rounds as it does: its quotient with a sticky lowest bit. -/
def ratVal (r : Rat) : FVal :=
  let n := r.num.natAbs
  let k := 400 + Nat.log2 r.den
  let q := n * 2 ^ k / r.den
  let sticky := if q * r.den = n * 2 ^ k then 0 else 1
  .fin (decide (r.num < 0)) (2 * q + sticky) (-(k : Int) - 1)

/-- A rational number rounded once to FP32. -/
def roundFp32 (r : Rat) : U32 := BitVec.ofNat 32 (Fmt.fp32.encode .rne false (ratVal r))

/-- The rational number that an FP32 code stands for. -/
def ratOf (c : U32) : Option Rat := (Fmt.fp32.decode c.toNat).rat

/-! ### Formats -/

/-- What a component of a surface holds (R320). -/
inductive CompKind where
  | unorm | srgb | small (exp frac : Nat) | half | single | uint
deriving DecidableEq, Repr

/-- A component: its lowest bit, its width, its kind, and the channel 0 red to 3 alpha. -/
structure Comp where
  lo : Nat
  bits : Nat
  kind : CompKind
  chan : Nat
deriving DecidableEq, Repr

/-- `n` components of equal width, red first. -/
def evenComps (n bits : Nat) (k : CompKind) : List Comp := (List.range n).map (fun i => ⟨bits * i, bits, k, i⟩)

/-- The components of a colour format (R320); the order of the channels is that of the format's name from the lowest
bit up. -/
def compsOf (f : Nat) : List Comp :=
  match f with
  | 0x01 => evenComps 1 8 .unorm
  | 0x02 => evenComps 2 8 .unorm
  | 0x03 => evenComps 4 8 .unorm
  | 0x04 => evenComps 3 8 .srgb ++ [⟨24, 8, .unorm, 3⟩]
  | 0x05 => [⟨0, 8, .unorm, 2⟩, ⟨8, 8, .unorm, 1⟩, ⟨16, 8, .unorm, 0⟩, ⟨24, 8, .unorm, 3⟩]
  | 0x06 => evenComps 3 10 .unorm ++ [⟨30, 2, .unorm, 3⟩]
  | 0x07 => [⟨0, 11, .small 5 6, 0⟩, ⟨11, 11, .small 5 6, 1⟩, ⟨22, 10, .small 5 5, 2⟩]
  | 0x08 => evenComps 1 16 .half
  | 0x09 => evenComps 2 16 .half
  | 0x0A => evenComps 4 16 .half
  | 0x0B => evenComps 1 32 .single
  | 0x0C => evenComps 2 32 .single
  | 0x0D => evenComps 4 32 .single
  | 0x0E => evenComps 1 32 .uint
  | 0x0F => evenComps 4 16 .uint
  | 0x20 => [⟨0, 16, .unorm, 0⟩]
  | 0x21 => [⟨0, 32, .single, 0⟩]
  | 0x22 => [⟨0, 32, .single, 0⟩]
  | _ => []

/-- Bytes of a pixel sample, the stencil plane of 0x22 included (R320). -/
def pixelBytes (f : Nat) : Nat :=
  match f with
  | 0x01 => 1 | 0x02 => 2 | 0x08 => 2 | 0x09 => 4 | 0x0A => 8 | 0x0B => 4 | 0x0C => 8 | 0x0D => 16 | 0x0E => 4
  | 0x0F => 8 | 0x20 => 2 | 0x21 => 4 | 0x22 => 5
  | n => if 0x03 ≤ n && n ≤ 0x07 then 4 else 0

/-- Bytes of a sample in the surface itself: the stencil of 0x22 lies in its own plane. -/
def surfaceBytes (f : Nat) : Nat := if f = 0x22 then 4 else pixelBytes f

def colourFormat (f : Nat) : Bool := decide (1 ≤ f) && decide (f ≤ 0x0F)
def depthFormat (f : Nat) : Bool := decide (0x20 ≤ f) && decide (f ≤ 0x22)
def blendable (f : Nat) : Bool := decide (1 ≤ f) && decide (f ≤ 0x0D)
def blockFormat (f : Nat) : Bool := (decide (0x40 ≤ f) && decide (f ≤ 0x46)) || f == 0x48 || f == 0x49

/-- The number with which Config.surfaceUp names a kind and width of component. -/
def compCode (c : Comp) : Nat :=
  match c.kind with
  | .unorm => c.bits | .srgb => 64 | .small .. => 64 + c.bits | .half => 96 | .single => 97 | .uint => 98

/-- The code of a component in a sample's bits. -/
def Comp.code (c : Comp) (v : Nat) : Nat := v / 2 ^ c.lo % 2 ^ c.bits

/-- A small unsigned float: IEEE's layout without a sign. -/
def smallVal (exp frac c : Nat) : FVal := FloatParams.decode ⟨exp, frac, 15, .ieee⟩ c

/-- The value of a component's code, none for an infinity or a NaN. -/
def Comp.value (c : Comp) (code : Nat) : Option Rat :=
  match c.kind with
  | .unorm => some (mkRat code (2 ^ c.bits - 1))
  | .srgb => let r := Config.srgb code; some (mkRat r.1 r.2)
  | .small e f => (smallVal e f code).rat
  | .half => (Fmt.fp16.decode code).rat
  | .single => (Fmt.fp32.decode code).rat
  | .uint => some (code : Nat)

/-- The FP32 word of a component's code: UINT gives its integer, floats are exact, others are rounded once. -/
def Comp.word (c : Comp) (code : Nat) : U32 :=
  match c.kind with
  | .uint => BitVec.ofNat 32 code
  | .single => BitVec.ofNat 32 code
  | .half => BitVec.ofNat 32 (Fmt.fp32.encode .rne false (Fmt.fp16.decode code))
  | .small e f => BitVec.ofNat 32 (Fmt.fp32.encode .rne false (smallVal e f code))
  | _ => ((c.value code).map roundFp32).getD 0

/-- The direction in which a component's code rounds a value that it does not hold: R320 and R324 state none. -/
def Comp.way (c : Comp) (r : Rat) : Rnd := if Config.surfaceUp (compCode c) r.num r.den then .rup else .rdn

/-- The code of the 8-bit sRGB component whose value a number is; the rules give no rounding between codes. -/
def toSrgb (r : Rat) : Nat :=
  ((List.range 256).find? (fun k => mkRat (Config.srgb k).1 (Config.srgb k).2 == r)).getD (Config.srgbCode r.num r.den % 256)

/-- The code that a component takes for an exact value: its own code where it holds the value, and otherwise one
of the two codes around it (R324). -/
def Comp.ofRat (c : Comp) (r : Rat) : Nat :=
  (match c.kind with
   | .unorm =>
     let x := max 0 (min 1 r) * (2 ^ c.bits - 1 : Nat)
     x.floor.toNat + (if x.den ≠ 1 && c.way r == .rup then 1 else 0)
   | .srgb => toSrgb r
   | .small e f => if r < 0 then 0 else FloatParams.encode ⟨e, f, 15, .ieee⟩ (c.way r) false (ratVal r)
   | .half => Fmt.fp16.encode (c.way r) false (ratVal r)
   | .single => (roundFp32 r).toNat
   | .uint => r.floor.toNat) % 2 ^ c.bits

/-- The code that a component takes for an FP32 word of a shader (R324). -/
def Comp.ofWord (c : Comp) (w : U32) : Nat :=
  match c.kind, Fmt.fp32.decode w.toNat with
  | .uint, _ => w.toNat % 2 ^ c.bits
  | .single, _ => w.toNat
  | .half, .inf neg => Fmt.fp16.encode .rne false (.inf neg)
  | .half, .fin neg 0 e => Fmt.fp16.encode .rne false (.fin neg 0 e)
  | .small e f, .inf false => FloatParams.encode ⟨e, f, 15, .ieee⟩ .rne false (.inf false)
  | _, v =>
    match v.rat with
    | some r => c.ofRat r
    | none => Config.specialColour (compCode c) w.toNat % 2 ^ c.bits

/-- The default of a channel that a format lacks: 0, and 1 for alpha. -/
def missing (uint : Bool) (chan : Nat) : U32 :=
  if chan = 3 then (if uint then 1 else 0x3F800000) else 0

/-- The four words of a sample of given components. -/
def wordsBy (cs : List Comp) (v : Nat) : List U32 :=
  let uint := cs.any (fun c => c.kind == .uint)
  (List.range 4).map (fun i => match cs.find? (fun c => c.chan == i) with
    | some c => c.word (c.code v)
    | none => missing uint i)

/-- The four words of a sample of a format. -/
def wordsOf (f v : Nat) : List U32 := wordsBy (compsOf f) v

/-- A component that a descriptor with SRGB decodes: an 8-bit UNORM one other than alpha (R334). -/
def Comp.decodeSrgb (c : Comp) : Comp :=
  if c.kind = .unorm && c.bits == 8 && c.chan != 3 then { c with kind := .srgb } else c

/-- The bits of a sample whose components take codes, other bits 0. -/
def pack (cs : List (Comp × Nat)) : Nat := cs.foldl (fun n e => n + e.2 * 2 ^ e.1.lo) 0

/-- The sample that an image store of four words writes (R335). -/
def storeSample (f : Nat) (ws : List U32) : Nat := pack ((compsOf f).map (fun c => (c, c.ofWord ((ws[c.chan]?).getD 0))))

/-! ### Blending -/

/-- A blend word's fields for one channel: enable, source and destination factor, and operation (R319). -/
structure BlendSel where
  src : Nat
  dst : Nat
  op : Nat
deriving DecidableEq, Repr

def blendOn (w : U32) : Bool := bit w 0
def blendWrites (w : U32) (chan : Nat) : Bool := bit w (27 + chan)

def blendSel (w : U32) (chan : Nat) : BlendSel :=
  let n := w.toNat
  if chan = 3 then { src := n / 2 ^ 14 % 32, dst := n / 2 ^ 19 % 32, op := n / 2 ^ 24 % 8 }
  else { src := n / 2 % 32, dst := n / 2 ^ 6 % 32, op := n / 2 ^ 11 % 8 }

/-- A blend factor as VkBlendFactor numbers it, from the source, destination and constant colours; factors of a second
source do not exist. -/
def blendFactor (f chan : Nat) (s d k : List Rat) : Option Rat :=
  let at_ := fun (v : List Rat) i => (v[i]?).getD 0
  let one : Rat := 1
  match f with
  | 0 => some 0
  | 1 => some 1
  | 2 => some (at_ s chan)
  | 3 => some (one - at_ s chan)
  | 4 => some (at_ d chan)
  | 5 => some (one - at_ d chan)
  | 6 => some (at_ s 3)
  | 7 => some (one - at_ s 3)
  | 8 => some (at_ d 3)
  | 9 => some (one - at_ d 3)
  | 10 => some (at_ k chan)
  | 11 => some (one - at_ k chan)
  | 12 => some (at_ k 3)
  | 13 => some (one - at_ k 3)
  | 14 => some (if chan = 3 then 1 else min (at_ s 3) (one - at_ d 3))
  | _ => none

/-- A blend operation as VkBlendOp numbers it. -/
def blendOp (op : Nat) (s d sf df : Rat) : Rat :=
  match op with
  | 0 => s * sf + d * df
  | 1 => s * sf - d * df
  | 2 => d * df - s * sf
  | 3 => min s d
  | _ => max s d

/-- Four words as exact values, none where one is an infinity or a NaN. -/
def ratsOf (ws : List U32) : Option (List Rat) := ws.mapM ratOf

/-- A sample after a fragment's colour is written: blended where the word enables it, each component rounded to the
format, channels outside the mask unchanged (R319, R324). -/
def blendSample (f : Nat) (w : U32) (src : List U32) (const : List U32) (old : Nat) : Nat :=
  let cs := compsOf f
  let dstWords := wordsOf f old
  pack (cs.map (fun c =>
    let sw := (src[c.chan]?).getD 0
    let code :=
      if !blendWrites w c.chan then c.code old
      else if !(blendOn w && blendable f) then c.ofWord sw
      else
        let b := blendSel w c.chan
        let odd := Config.specialBlend (compCode c + 256 * c.chan) w.toNat ((src ++ const).map BitVec.toNat) old % 2 ^ c.bits
        match ratsOf src, ratsOf dstWords, ratsOf const, c.value (c.code old) with
        | some s, some d, some k, some dv =>
          if 3 ≤ b.op then c.ofRat (blendOp b.op ((s[c.chan]?).getD 0) dv 0 0) else
          match blendFactor b.src c.chan s d k, blendFactor b.dst c.chan s d k with
          | some sf, some df => c.ofRat (blendOp b.op ((s[c.chan]?).getD 0) dv sf df)
          | _, _ => odd
        | _, _, _, _ => odd
    (c, code)))

/-! ### Fast-clear flags (R332) -/

/-- The address of the flag word of the surface tile that holds a pixel. -/
def flagWordAt (flags width x y : Nat) : Nat := flags + 4 * (y / 32 * ((width + 31) / 32) + x / 32)

/-- The flag of a pixel's 8×8 block in its tile's word. -/
def flagOf (w x y : Nat) : Nat := w / 4 ^ (4 * (y % 32 / 8) + x % 32 / 8) % 4

/-- The bytes of a sample that a flag gives, none for DATA. -/
def flagBytes (flag n : Nat) (a b : List U8) : Option (List U8) :=
  match flag with
  | 0 => none
  | 1 => some (a.take n)
  | 2 => some (b.take n)
  | _ => some (List.replicate n 0)

/-! ### Textures -/

/-- A texture descriptor (R334). -/
structure Tex where
  base : Nat
  width : Nat
  height : Nat
  layers : Nat
  levels : Nat
  sfmt : Nat
  pitch : Nat
  astc : Nat
  kind : Nat
  srgb : Bool
  flags : Nat
  clearA : List U8
  clearB : List U8
deriving DecidableEq, Repr

/-- The descriptor in 64 bytes, none where a field has no defined value. -/
def Tex.parse (b : List U8) : Option Tex :=
  let f := field b 15 1
  let ok := aligned (field b 0 8) 256 && decide (1 ≤ field b 14 1) && decide (field b 14 1 ≤ 15) &&
    (colourFormat f || depthFormat f || blockFormat f) && aligned (field b 16 4) 256 && decide (field b 21 1 ≤ 3) &&
    (decide (f < 0x48) || (decide (4 ≤ field b 20 1 % 16) && decide (field b 20 1 % 16 ≤ 12) &&
      decide (4 ≤ field b 20 1 / 16) && decide (field b 20 1 / 16 ≤ 12)))
  if !ok then none else
  some { base := field b 0 8, width := field b 8 2 + 1, height := field b 10 2 + 1, layers := field b 12 2 + 1,
         levels := field b 14 1, sfmt := f, pitch := field b 16 4, astc := field b 20 1, kind := field b 21 1,
         srgb := field b 22 1 % 2 == 1, flags := field b 24 8, clearA := (b.drop 32).take 16,
         clearB := (b.drop 48).take 16 }

/-- The texels of a block, across and down, and its bytes (R320). -/
def Tex.block (t : Tex) : Nat × Nat × Nat :=
  if 0x48 ≤ t.sfmt then (t.astc % 16, t.astc / 16, 16)
  else if 0x40 ≤ t.sfmt then (4, 4, if t.sfmt = 0x40 || t.sfmt = 0x43 then 8 else 16)
  else (1, 1, surfaceBytes t.sfmt)

/-- A level's pitch: max(256, PITCH ÷ 2^l rounded up to 256) (R334). -/
def Tex.levelPitch (t : Tex) (l : Nat) : Nat := max 256 ((t.pitch / 2 ^ l + 255) / 256 * 256)

/-- A level's width, height and layers. -/
def Tex.levelSize (t : Tex) (l : Nat) : Nat × Nat × Nat :=
  (max 1 (t.width / 2 ^ l), max 1 (t.height / 2 ^ l), if t.kind = 3 then max 1 (t.layers / 2 ^ l) else t.layers)

/-- The bytes of one layer of a level: its pitch times its rows of pixels or blocks. -/
def Tex.layerBytes (t : Tex) (l : Nat) : Nat :=
  t.levelPitch l * (((t.levelSize l).2.1 + t.block.2.1 - 1) / t.block.2.1)

/-- The offset of level `l` from the base. -/
def Tex.levelOff (t : Tex) : Nat → Nat
  | 0 => 0
  | l + 1 => (t.levelOff l + t.layerBytes l * (t.levelSize l).2.2 + 255) / 256 * 256

/-- The address of the texel or block that holds a place. -/
def Tex.addr (t : Tex) (l layer x y : Nat) : Nat :=
  let b := t.block
  t.base + t.levelOff l + layer * t.layerBytes l + y / b.2.1 * t.levelPitch l + x / b.1 * b.2.2

/-- The place lies in its level. -/
def Tex.inside (t : Tex) (l layer x y : Nat) : Bool :=
  let z := t.levelSize l
  decide (l < t.levels) && decide (layer < z.2.2) && decide (x < z.1) && decide (y < z.2.1)

/-- The flag word of a texel: level 0 of a texture that names an array. -/
def Tex.flagAddr (t : Tex) (l x y : Nat) : Option Nat :=
  if t.flags = 0 || l ≠ 0 || 0x40 ≤ t.sfmt then none
  else some (flagWordAt t.flags (t.pitch / max 1 (pixelBytes t.sfmt)) x y)

/-- A texel: level, layer, x and y. -/
abbrev Place := Nat × Nat × Nat × Nat

/-- The bytes of a texel that its flag gives; none where they stand at BASE (R333). -/
def State.texelFlag (s : State) (c : Nat) (t : Tex) (p : Place) : Option (List U8) :=
  match t.flagAddr p.1 p.2.2.1 p.2.2.2 with
  | none => none
  | some a =>
    flagBytes (flagOf (ofBytes (s.vread c a 4)) p.2.2.1 p.2.2.2) (surfaceBytes t.sfmt) t.clearA t.clearB

/-- The texels are integers. -/
def Tex.integer (t : Tex) : Bool := t.sfmt == 0x0E || t.sfmt == 0x0F

/-- The four words of a texel's bits in a format that is not of blocks. -/
def Tex.words (t : Tex) (v : Nat) : List U32 :=
  wordsBy (if t.srgb then (compsOf t.sfmt).map Comp.decodeSrgb else compsOf t.sfmt) v

/-- The four words of a texel. -/
def State.texel (s : State) (c : Nat) (t : Tex) (p : Place) : List U32 :=
  let b := t.block
  match s.texelFlag c t p with
  | some bs => t.words (ofBytes bs)
  | none =>
    let bs := s.vread c (t.addr p.1 p.2.1 p.2.2.1 p.2.2.2) b.2.2
    if blockFormat t.sfmt then
      (Config.blockTexel (t.sfmt + 256 * t.srgb.toNat) t.astc (bs.map BitVec.toNat) (p.2.2.1 % b.1) (p.2.2.2 % b.2.1)).map (BitVec.ofNat 32)
    else t.words (ofBytes bs)

/-- The words of the border colour (R334). -/
def borderWords (sampler : List U8) : List U32 :=
  match field sampler 3 1 / 16 % 4 with
  | 0 => [0, 0, 0, 0]
  | 1 => [0, 0, 0, 0x3F800000]
  | _ => [0x3F800000, 0x3F800000, 0x3F800000, 0x3F800000]

/-- Texels are read once their flag words, and then the bytes that no flag replaces, pass the probe. -/
def State.withTexels (s : State) (g : Group) (t : Tex) (ps : List Place) (k : State → State) : State :=
  let c := s.ctxOf g
  s.probedAs true g.job 0 (ps.filterMap (fun p => (t.flagAddr p.1 p.2.2.1 p.2.2.2).map (fun a => (a, 4, Access.read))))
    (fun s =>
      let rs := (ps.filter (fun p => (s.texelFlag c t p).isNone)).map (fun p =>
        (t.addr p.1 p.2.1 p.2.2.1 p.2.2.2, t.block.2.2, Access.read))
      s.probedAs true g.job 0 rs k)

/-! ### Samplers -/

/-- A sampler (R334). -/
structure Sampler where
  magLinear : Bool
  minLinear : Bool
  mip : Nat
  limit : Nat
  modes : Nat
  bias : Rat
  low : Rat
  high : Rat
deriving DecidableEq, Repr

/-- The sampler in 16 bytes, none where a field has no stated meaning: mip mode 3, an anisotropy limit outside 1 to 16,
or a LOD field that is no number. -/
def Sampler.parse (b : List U8) : Option Sampler :=
  let m := field b 0 1
  let limit := field b 1 1
  let num := fun at_ => ratOf (BitVec.ofNat 32 (field b at_ 4))
  match num 4, num 8, num 12 with
  | some bias, some low, some high =>
    if m / 4 % 4 = 3 || limit = 0 || 16 < limit then none else
    some { magLinear := m % 2 == 1, minLinear := m / 2 % 2 == 1, mip := m / 4 % 4, limit := limit, modes := field b 2 1,
           bias := bias, low := low, high := high }
  | _, _, _ => none

/-- The address mode of axis 0 u, 1 v or 2 w. -/
def Sampler.mode (p : Sampler) (axis : Nat) : Nat := p.modes / 4 ^ axis % 4

/-- A texel that a filter reads: its level, layer, x and y (none for the border colour), and its weight as an integer
and a count of fraction bits. -/
abbrev Tap := Nat × Nat × Option (Nat × Nat) × Int × Nat

/-- A number of 1/256 units as one of the two integers around it; R335 states no direction. -/
def quantised (y : Rat) : Int := if y.den = 1 then y.num else y.floor + (if Config.filterUp y.num y.den then 1 else 0)

/-- The texel that an address mode reads for place `i` of `n`, none for the border (R334). -/
def wrapped (mode n : Nat) (i : Int) : Option Nat :=
  match mode with
  | 0 => some (i % n).toNat
  | 1 =>
    let k := (i % (2 * n : Nat)).toNat
    some (if k < n then k else 2 * n - 1 - k)
  | 2 => some (min (n - 1) i.toNat)
  | _ => if 0 ≤ i ∧ i < n then some i.toNat else none

/-- The texels along an axis of `n` texels that a normalised coordinate reads, with weights in 1/256. -/
def axisTaps (linear : Bool) (mode n : Nat) (x : Rat) : List (Option Nat × Nat) :=
  if linear then
    let k := quantised ((x * (n : Rat) - mkRat 1 2) * 256)
    [(wrapped mode n (k / 256), 256 - (k % 256).toNat), (wrapped mode n (k / 256 + 1), (k % 256).toNat)]
  else [(wrapped mode n (x * (n : Rat)).floor, 256)]

/-- The texels of one level, all weights times `share` in 1/256. -/
def Tex.levelTaps (t : Tex) (p : Sampler) (linear : Bool) (l layer : Nat) (u v w : Rat) (share : Nat) : List Tap :=
  let z := t.levelSize l
  let deep := if t.kind = 3 then axisTaps linear (p.mode 2) z.2.2 w else [(some layer, 256)]
  deep.flatMap (fun d => (axisTaps linear (p.mode 1) z.2.1 v).flatMap (fun r =>
    (axisTaps linear (p.mode 0) z.1 u).map (fun c =>
      let place := match d.1, r.1, c.1 with
        | some _, some y, some x => some (x, y)
        | _, _, _ => none
      (l, d.1.getD 0, place, ((share * d.2 * r.2 * c.2 : Nat) : Int), 32))))

/-- The base-2 logarithm of the square root of a positive number, in 1/256 units as `quantised` rounds. -/
def halfLog (q : Rat) : Rat :=
  let a := q.num.natAbs ^ 128
  let b := q.den ^ 128
  let m := (b + a - 1) / max 1 a
  let k : Int := if b ≤ a then Nat.log2 (a / b) else if m ≤ 1 then 0 else -(Nat.log2 (m - 1) + 1 : Nat)
  let exact := if 0 ≤ k then 2 ^ k.toNat * b = a else 2 ^ (-k).toNat * a = b
  mkRat (k + (if exact then 0 else if Config.filterUp q.num q.den then 1 else 0)) 256

/-- The probes of an anisotropic sample: the ratio of the axes, whose squares are given, rounded up to an even number
and limited (R336). -/
def probeCount (major minor : Rat) (limit : Nat) : Nat :=
  min limit (((List.range 8).find? (fun i => decide (major ≤ minor * ((2 * i + 2) ^ 2 : Nat)))).elim 16 (fun i => 2 * i + 2))

/-- The coordinate registers of an operation: two, or three for a cube sample and a 3D texture. -/
def coordCount (kind : Nat) (integer : Bool) : Nat := if kind = 3 || (kind == 2 && !integer) then 3 else 2

/-- A descriptor as the fields on which a place in the texture depends. -/
def Tex.desc (t : Tex) : List Nat := [t.width, t.height, t.layers, t.levels, t.sfmt, t.kind]

/-- The texels that a sample reads, from a thread's mode, coordinates and LOD or layer register, and the quad's
coordinates, of which there are none for an explicit LOD. The filter is the magnification filter for a LOD of 0 or
below; the mip mode takes one level or two; with an anisotropy limit above 1 the level comes from the minor axis of
the footprint and bilinear probes alternate between the two levels (R334 to R336). PRESUMED: coordinates are normalised,
and modes, bias and clamps act as in Vulkan 1.3 (assumption 114). The footprint's axes, the places and weights of
probes and the place of a cube coordinate are not stated: they are free values. -/
def Tex.taps (t : Tex) (sm : List U8) (cs quad : List Nat) : List Tap :=
  let n := coordCount t.kind false
  let sc := (cs[n + 1]?).getD 0
  let free := (Config.taps t.desc (sm.map BitVec.toNat) cs quad).map (fun a => (a.1, a.2.1, a.2.2.1, a.2.2.2.1, 8))
  let at_ := (((cs.drop 1).take n).mapM (fun w => ratOf (BitVec.ofNat 32 w)))
  let given := if quad.isEmpty then ratOf (BitVec.ofNat 32 sc) else some 0
  match Sampler.parse sm, at_, given with
  | some p, some xs, some given =>
    let axes := Config.footprint t.desc quad
    let minor := if 1 < p.limit then axes.2.1 else axes.2.2
    let lod := if quad.isEmpty then given + p.bias else if minor ≤ 0 then p.low else halfLog minor + p.bias
    let lod := max p.low (min p.high lod)
    let linear := if lod ≤ 0 then p.magLinear else p.minLinear
    let k : Int := match p.mip with
      | 0 => 0
      | 1 => 256 * (lod + mkRat 1 2).floor
      | _ => quantised (lod * 256)
    let level := fun (i : Int) => min (t.levels - 1) i.toNat
    let cube := Config.cubePlace t.desc cs
    let u := if t.kind = 2 then cube.2.1 else (xs[0]?).getD 0
    let v := if t.kind = 2 then cube.2.2 else (xs[1]?).getD 0
    let w := (xs[2]?).getD 0
    let layer :=
      if t.kind = 0 then 0
      else if t.kind = 1 && !quad.isEmpty && sc < t.layers then sc
      else cube.1 % t.layers
    if !quad.isEmpty && 1 < p.limit then
      (List.range (probeCount axes.1 axes.2.1 p.limit)).flatMap (fun i =>
        let q := Config.probe t.desc (cs ++ quad) (probeCount axes.1 axes.2.1 p.limit) i
        t.levelTaps p true (level (k / 256 + (if p.mip = 2 then i % 2 else 0 : Nat))) layer q.1 q.2.1 w (q.2.2 % 257))
    else
      let f := (k % 256).toNat
      t.levelTaps p linear (level (k / 256)) layer u v w (256 - f) ++
        (if f = 0 then [] else t.levelTaps p linear (level (k / 256 + 1)) layer u v w f)
  | _, _, _ => free

/-- A sample's weighted sum of one channel, formed exactly from the texels of non-zero weight and rounded once to FP32
(R335). A single texel of an integer format is its integer; the rules give no sum of several. -/
def filtered (uint : Bool) (vs : List (List U32 × Int × Nat)) (chan : Nat) : U32 :=
  let ws := vs.filter (fun e => e.2.1 ≠ 0)
  if uint then
    match ws with
    | [e] => (e.1[chan]?).getD 0
    | _ => BitVec.ofNat 32 (Config.filteredUint (ws.map (fun e => ((e.1[chan]?).getD 0).toNat)) (ws.map (fun e => e.2.1)))
  else
    let terms := ws.map (fun e =>
      FVal.mul (Fmt.fp32.decode ((e.1[chan]?).getD 0).toNat) (.fin (decide (e.2.1 < 0)) e.2.1.natAbs (-(e.2.2 : Int))))
    BitVec.ofNat 32 (Fmt.fp32.encode .rne false
      (match terms with
       | [] => .fin false 0 0
       | v :: vs => vs.foldl (FVal.addWith .rne) v))

/-- A TEX instruction: SEL must be 1 and SB name an aligned uniform quadruple; the descriptor and sampler are read and
the continuation gets them with the group and its executing threads (R335). -/
def State.runT (s : State) (i : Nat) (f : VForm) (ok : State → Group → Bool)
    (k : State → Group → U64 → Tex → List U8 → State) : State :=
  match s.mayIssue i with
  | none => s
  | some g =>
    let e := g.executing f.pneg f.pred
    let u := f.sb.toNat
    if e = 0 then s.setGroup i (g.advance (vWords f))
    else if f.sel ≠ 1 || u % 4 ≠ 0 || 64 ≤ u || !ok s g then s.trap g 1 (lowest e)
    else
      let d := (g.upair u).toNat
      let m := (g.upair (u + 2)).toNat
      let c := s.ctxOf g
      (s.onGroup g).probedAs true g.job 0 [(d, 64, .read), (m, 16, .read)] (fun s =>
        match if aligned d 64 then Tex.parse (s.vread c d 64) else none with
        | none => s.trap g 1 (lowest e)
        | some t => k s g e t (s.vread c m 16))

/-- The words that a thread hands to a filter: mode, coordinates and the LOD or layer register. -/
def coords (g : Group) (f : VForm) (t : Nat) (n : Nat) : List Nat :=
  f.sub.toNat % 4 :: (List.range n).map (fun i => (g.reg (f.sa.toNat + i) t).toNat) ++ [(g.reg f.sc.toNat t).toNat]

/-- The group with a result in the four registers of a thread. -/
def Group.setFour (g : Group) (r t : Nat) (ws : List U32) : Group :=
  (List.range 4).foldl (fun (g : Group) i => g.setReg (r + i) t ((ws[i]?).getD 0)) g

/-- The coordinates of the quad of a thread, from which the derivatives come. -/
def quadCoords (g : Group) (f : VForm) (t n : Nat) : List Nat :=
  (List.range 4).flatMap (fun i => (List.range n).map (fun j => (g.reg (f.sa.toNat + j) (t / 4 * 4 + i)).toNat))

/-- A filtered sample, by the LOD of quad derivatives or that in SC (R335). -/
def State.sample (s : State) (i : Nat) (f : VForm) (explicit : Bool) : State :=
  s.runT i f (fun _ g => g.names f.dst.toNat 4 && g.names f.sc.toNat 1 && g.names f.sa.toNat 2)
    (fun s g e t sm =>
      let n := coordCount t.kind false
      if !g.names f.sa.toNat n then s.trap g 1 (lowest e) else
      let taps := (threads e).map (fun th =>
        (th, t.taps sm (coords g f th n) (if explicit then [] else quadCoords g f th n)))
      let places := taps.flatMap (fun a => a.2.filterMap (fun p => p.2.2.1.map (fun q =>
        (p.1 % t.levels, p.2.1 % (t.levelSize (p.1 % t.levels)).2.2, q.1 % (t.levelSize (p.1 % t.levels)).1,
          q.2 % (t.levelSize (p.1 % t.levels)).2.1))))
      s.withTexels g t places (fun s =>
        let c := s.ctxOf g
        let y := taps.foldl (fun (y : Group) a =>
          let vs := a.2.map (fun p => (match p.2.2.1 with
            | none => borderWords sm
            | some q =>
              let l := p.1 % t.levels
              s.texel c t (l, p.2.1 % (t.levelSize l).2.2, q.1 % (t.levelSize l).1, q.2 % (t.levelSize l).2.1),
            p.2.2.2))
          if field sm 3 1 / 8 % 2 = 1 then
            y.setReg f.dst.toNat a.1 (BitVec.ofNat 32
              (Config.compared t.desc (sm.map BitVec.toNat)
                (coords g f a.1 n ++ vs.flatMap (fun v => v.1.map BitVec.toNat))))
          else y.setFour f.dst.toNat a.1 ((List.range 4).map (filtered t.integer vs))) g
        s.setGroup i (y.advance (vWords f))))

def execTexSample (g : Nat) (f : VForm) (s : State) : Out := .next (s.sample g f false)

def execTexSampleLod (g : Nat) (f : VForm) (s : State) : Out := .next (s.sample g f true)

/-- The place that integer coordinates name: layers of an array or cube come from SC, those of a 3D texture from the
third coordinate. -/
def fetchPlace (g : Group) (f : VForm) (kind t layer : Nat) : Place :=
  let z := if kind = 3 then (g.reg (f.sa.toNat + 2) t).toNat else if kind = 0 then 0 else layer
  (0, z, (g.reg f.sa.toNat t).toNat, (g.reg (f.sa.toNat + 1) t).toNat)

def Tex.holds (t : Tex) (p : Place) : Bool := t.inside p.1 p.2.1 p.2.2.1 p.2.2.2

/-- TEX mode 2: one texel of level 0, no filtering (R335). -/
def execTexFetch (g : Nat) (f : VForm) (s : State) : Out :=
  .next (s.runT g f (fun _ x => x.names f.dst.toNat 4 && x.names f.sc.toNat 1 && x.names f.sa.toNat 2)
    (fun s x e t sm =>
      if !x.names f.sa.toNat (coordCount t.kind true) then s.trap x 1 (lowest e) else
      let ps := (threads e).map (fun th => (th, fetchPlace x f t.kind th (x.reg f.sc.toNat th).toNat))
      s.withTexels x t ((ps.map Prod.snd).filter t.holds) (fun s =>
        let c := s.ctxOf x
        let x := ps.foldl (fun (x : Group) p =>
          x.setFour f.dst.toNat p.1 (if t.holds p.2 then s.texel c t p.2
            else (Config.outsideTexel (sm.map BitVec.toNat) [p.2.2.1, p.2.2.2.1, p.2.2.2.2]).map (BitVec.ofNat 32)))
          x
        s.setGroup g (x.advance (vWords f)))))

/-- An image store: the texel of each thread takes the format's code of its four words, in ascending thread order; a
place outside the image is not written. UNORDERED is an undefined encoding in a strict context and counted in a
relaxed one (R75, R335). -/
def execImageStore (g : Nat) (f : VForm) (s : State) : Out :=
  .next (s.runT g f
    (fun s x => x.names f.dst.toNat 4 && x.names f.sa.toNat 2 && !(bit f.sub 2 && s.strictGroup x))
    (fun s x e t _ =>
      if !x.names f.sa.toNat (coordCount t.kind true) || !colourFormat t.sfmt then s.trap x 1 (lowest e) else
      let layer := fun th => (Config.cubePlace t.desc (coords x f th (coordCount t.kind true))).1 % max 1 t.layers
      let ps := ((threads e).map (fun th => (th, fetchPlace x f t.kind th (layer th)))).filter
        (fun p => t.holds p.2 && !x.helper p.1)
      let z := surfaceBytes t.sfmt
      let at_ := fun (p : Place) => t.addr p.1 p.2.1 p.2.2.1 p.2.2.2
      s.probedAs true x.job 0 (ps.map (fun p => (at_ p.2, z, .write))) (fun s =>
        let s := if bit f.sub 2 then s.loosen x.job else s
        let s := ps.foldl (fun s p =>
          let v := storeSample t.sfmt ((List.range 4).map (fun i => x.reg (f.dst.toNat + i) p.1))
          s.storeAt x 0 (at_ p.2) z v) s
        s.setGroup g (x.advance (vWords f)))))

end Sys2Proof.Machine
end

