-- ==== Sys2Proof/Machine/Render.lean ====
section
/-! DEFINITION. Render passes: descriptors, geometry and binning, tiles and fragments, the order of retirement, tile
stores, and the phases of the state block (R29, R190, R317 to R333, R342). -/

namespace Sys2Proof.Machine

open Sys2Proof

/-! ### The pass descriptor (R318) -/

/-- An attachment entry: its index is 0 to 7 for colour and 8 for depth/stencil. -/
structure Att where
  index : Nat
  surface : Nat
  pitch : Nat
  sfmt : Nat
  load : Nat
  store : Nat
  flags : Nat
  resolve : Nat
  clearA : List U8
  clearB : List U8
deriving DecidableEq, Repr

structure PassDesc where
  x0 : Nat
  y0 : Nat
  width : Nat
  height : Nat
  samples : Nat
  colours : Nat
  ds : Bool
  draws : Nat
  drawList : Nat
  atts : List Att
deriving DecidableEq, Repr

def attOf (b : List U8) (i : Nat) : Att :=
  let e := (b.drop (64 + 64 * i)).take 64
  { index := i, surface := field e 0 8, pitch := field e 8 4, sfmt := field e 12 1, load := field e 13 1,
    store := field e 14 1, flags := field e 16 8, resolve := field e 24 8, clearA := (e.drop 32).take 16,
    clearB := (e.drop 48).take 16 }

def PassDesc.of (b : List U8) : PassDesc :=
  let ds := field b 10 1 == 1
  { x0 := field b 0 2, y0 := field b 2 2, width := field b 4 2, height := field b 6 2, samples := field b 8 1,
    colours := field b 9 1, ds := ds, draws := field b 12 4, drawList := field b 16 8,
    atts := (List.range (min 8 (field b 9 1)) ++ (if ds then [8] else [])).map (attOf b) }

/-- Tiles across the render area, and all of them. -/
def PassDesc.across (d : PassDesc) : Nat := (d.width + 31) / 32
def PassDesc.tiles (d : PassDesc) : Nat := d.across * ((d.height + 31) / 32)

/-- Bytes per pixel of every attachment in use, times the samples (R320). -/
def PassDesc.footprint (d : PassDesc) : Nat := (d.atts.map (fun a => pixelBytes a.sfmt)).sum * d.samples

/-- The descriptor is defined (R318, R320). -/
def PassDesc.ok (d : PassDesc) (b : List U8) : Bool :=
  d.x0 % 32 == 0 && d.y0 % 32 == 0 && decide (1 ≤ d.width) && decide (d.width ≤ 8192) && decide (1 ≤ d.height) &&
    decide (d.height ≤ 8192) && decide (d.tiles ≤ 65535) && [1, 2, 4, 8].contains d.samples &&
    decide (d.colours ≤ 8) && decide (field b 10 1 ≤ 1) && decide (1 ≤ d.draws) && decide (d.draws ≤ 2 ^ 20) &&
    aligned d.drawList 64 && decide (d.footprint ≤ 128) &&
    d.atts.all (fun a => (if a.index = 8 then depthFormat a.sfmt else colourFormat a.sfmt) &&
      aligned a.surface 256 && aligned a.pitch 256 && decide (a.load ≤ 2) && decide (a.store ≤ 2))

/-- The tiles that a core holds at once (R184). -/
def PassDesc.slots (d : PassDesc) : Nat := if d.footprint ≤ 64 then 2 else 1

/-- The pixels of a tile that lie in the render area: its first, and how many across and down. -/
def PassDesc.rect (d : PassDesc) (t : Nat) : Nat × Nat × Nat × Nat :=
  let tx := t % d.across
  let ty := t / d.across
  (d.x0 + 32 * tx, d.y0 + 32 * ty, min 32 (d.width - 32 * tx), min 32 (d.height - 32 * ty))

/-! ### Draw records (R319) -/

structure Draw where
  vs : Nat
  fs : Nat
  index : Nat
  count : Nat
  instances : Nat
  first : Nat
  topo : Nat
  isize : Nat
  depth : Nat
  arg : Nat
  state : Nat
  vsRegs : Nat
  fsRegs : Nat
deriving DecidableEq, Repr

def Draw.of (b : List U8) : Draw :=
  { vs := field b 0 8, fs := field b 8 8, index := field b 16 8, count := field b 24 4, instances := field b 28 4,
    first := field b 32 4, topo := field b 36 1, isize := field b 37 1, depth := field b 38 2, arg := field b 40 8,
    state := field b 48 8, vsRegs := field b 56 2, fsRegs := field b 58 2 }

/-- Bit `i` of DEPTH, and the count A of attribute vectors. -/
def Draw.flag (d : Draw) (i : Nat) : Bool := d.depth / 2 ^ i % 2 == 1
def Draw.attrs (d : Draw) : Nat := d.depth / 2 ^ 9 % 16
def Draw.vertices (d : Draw) : Nat := d.count * d.instances

def regsOk (n : Nat) : Bool := n % 8 == 0 && decide (8 ≤ n) && decide (n ≤ 256)

/-- The blend word of colour attachment `i` in a state block. -/
def blendWord (st : List U8) (i : Nat) : U32 := BitVec.ofNat 32 (field st (64 + 4 * i) 4)

/-- A draw record and its state block are defined; blend operations above 4 and blending an attachment that R320 does
not allow are undefined (R319, R320). -/
def drawOk (p : PassDesc) (d : Draw) (st : List U8) : Bool :=
  decide (d.topo ≤ 3) && decide (d.isize ≤ 2) && decide (1 ≤ d.instances) && regsOk d.vsRegs &&
    (d.fs == 0 || regsOk d.fsRegs) && (d.index == 0 || d.isize != 0) &&
    (p.atts.filter (fun a => a.index != 8)).all (fun a =>
      let w := blendWord st a.index
      !blendOn w || (blendable a.sfmt && decide (w.toNat / 2 ^ 11 % 8 ≤ 4) && decide (w.toNat / 2 ^ 24 % 8 ≤ 4)))

/-! ### The state block (R325) -/

/-- Where a RENDER_PASS payload names its parts (R317). -/
def passVa (v : Job) : Nat := field v.payload 0 8
def stateVa (v : Job) : Nat := field v.payload 8 8
def pbVa (v : Job) : Nat := field v.payload 16 8
def pbBytes (v : Job) : Nat := field v.payload 24 4 * 0x10000

/-- Bytes of each bitmap. -/
def bitmapBytes (tiles : Nat) : Nat := (tiles + 511) / 512 * 64

def storedAt (v : Job) (t : Nat) : Nat := stateVa v + 64 + t / 8
def touchedAt (v : Job) (tiles t : Nat) : Nat := stateVa v + 64 + bitmapBytes tiles + t / 8

/-- The header's 64 bytes. -/
def Pass.header (p : Pass) (tiles : Nat) : List U8 :=
  toBytes 4 p.phase ++ toBytes 4 tiles ++ toBytes 4 p.startDraw ++ toBytes 4 p.startPrim ++ toBytes 4 p.stopDraw ++
    toBytes 4 p.stopPrim ++ toBytes 1 p.stage ++ [0, 0, 0] ++ toBytes 4 p.stored ++
    toBytes 4 (min p.kills 0xFFFFFFFF) ++ List.replicate 28 0

/-- A pass takes up the header that its state block holds. -/
def Pass.resume (p : Pass) (h : List U8) : Pass :=
  { p with
    phase := field h 0 4, startDraw := field h 8 4, startPrim := field h 12 4, stopDraw := field h 16 4,
    stopPrim := field h 20 4, stage := field h 24 1, stored := field h 28 4,
    kills := min (field h 32 4 + 1) 0xFFFFFFFF }

def State.passOf (s : State) (j : Nat) : Pass := (s.jobs.find j).elim {} (fun v => v.pass.getD {})
def Pass.d (p : Pass) : PassDesc := PassDesc.of p.desc
def State.setPass (s : State) (j : Nat) (p : Pass) : State := s.updJob j (fun v => { v with pass := some p })

/-- The pass changes, and its header is written as one 64-byte write. -/
def State.putHeader (s : State) (j : Nat) (v : Job) (p : Pass) (k : State → State) : State :=
  s.probed j 2 [(stateVa v, 64, .write)] (fun s =>
    k ((s.setPass j p).vwrite v.ctx (stateVa v) (p.header p.d.tiles)))

/-- A tile's STORED and TOUCHED bits. -/
def State.tileBit (s : State) (v : Job) (a t : Nat) : Bool := bit (ofBytes (s.vread v.ctx a 1) : U8) (t % 8)

/-! ### Geometry and binning (R321 to R323) -/

/-- A draw's record and state block, as geometry has read them. -/
def Pass.draw_ (p : Pass) (i : Nat) : Draw := Draw.of (p.recs.get ([], []) i).1
def Pass.state_ (p : Pass) (i : Nat) : List U8 := (p.recs.get ([], []) i).2

/-- What a vertex group declares: one group a block, with registers and nothing else. -/
def soloShape (regs : Nat) : Shape :=
  { groups := 1, cluster := 1, regs := regs, bytes := 0, engines := 0, faithful0 := false, faithful1 := false }

/-- A block of one group starts on core `k` with a role, a live mask and first registers. -/
def State.startSolo (s : State) (j : Nat) (v : Job) (arg regs linear k : Nat) (role : Role) (live : U64)
    (init : TMap U32) : State :=
  match s.room k (soloShape regs) with
  | none => s
  | some base =>
    let b := freshKey s.blocks
    let g := freshKey s.groups
    let s := s.startBlock j { v with arg := BitVec.ofNat 64 arg } (soloShape regs) linear b 0 1 k base
    match s.groups.find g with
    | none => s
    | some x => s.setGroup g { x with role := role, live := live, active := live, first := init }

/-- The cores on which a pass may place work now. -/
def State.passCores (s : State) (v : Job) : List Nat := bitsOf (v.cores &&& s.liveCores (s.ctx v.ctx).partition)

/-- The first core with room for a group. -/
def State.soloCore (s : State) (v : Job) (regs : Nat) : Option Nat :=
  (s.passCores v).find? (fun k => (s.room k (soloShape regs)).isSome)

/-- The mask of the first `n` threads. -/
def firstThreads (n : Nat) : U64 := BitVec.ofNat 64 (2 ^ min n 64 - 1)

/-- The address and size of the index of position `i`, where the draw has an index buffer. -/
def Draw.indexAt (d : Draw) (i : Nat) : Nat × Nat :=
  if d.isize = 1 then (d.index + 2 * i, 2) else (d.index + 4 * i, 4)

/-- The vertices from a linear index on start in one group (R319, R321). -/
def State.startVertices (s : State) (j : Nat) (v : Job) (di : Nat) (d : Draw) (base k : Nat) : State :=
  let n := min 64 (d.vertices - base)
  let pos := fun t => (base + t) % d.count
  let ranges := if d.index = 0 then [] else
    (List.range n).map (fun t => ((d.indexAt (pos t)).1, (d.indexAt (pos t)).2, Access.read))
  ((s.setTile j 0xFFFF).on (some k)).probedAs true j 0 ranges (fun s =>
    let init : TMap U32 := (List.range n).foldl (fun (m : TMap U32) t =>
      let i := if d.index = 0 then pos t
        else ofBytes (s.vread v.ctx (d.indexAt (pos t)).1 (d.indexAt (pos t)).2)
      (m.set t (BitVec.ofNat 32 (d.first + i))).set (64 + t) (BitVec.ofNat 32 ((base + t) / d.count))) []
    (s.setPass j { s.passOf j with next := base + 64 }).startSolo j v d.arg d.vsRegs base k (.vertex di base)
      (firstThreads n) init)

/-- The vertices of primitive `k` of a draw, as linear indices, in assembly order (R321). -/
def Draw.prims (d : Draw) : List (List Nat) :=
  (List.range d.instances).flatMap (fun i =>
    let b := i * d.count
    match d.topo with
    | 0 => (List.range (d.count / 3)).map (fun k => [b + 3 * k, b + 3 * k + 1, b + 3 * k + 2])
    | 1 => (List.range (d.count - 2)).map (fun k =>
      if k % 2 = 0 then [b + k, b + k + 1, b + k + 2] else [b + k + 1, b + k, b + k + 2])
    | 2 => (List.range (d.count / 2)).map (fun k => [b + 2 * k, b + 2 * k + 1])
    | _ => (List.range d.count).map (fun k => [b + k]))

/-- Twice the signed area of a polygon, positive where it turns clockwise on the screen. -/
def area2 (p : List (Int × Int)) : Int :=
  ((p.zip (p.drop 1 ++ p.take 1)).map (fun e => e.1.1 * e.2.2 - e.2.1 * e.1.2)).sum

/-- The edges of a polygon. -/
def edges (p : List (Int × Int)) : List ((Int × Int) × (Int × Int)) := p.zip (p.drop 1 ++ p.take 1)

/-- The side of an edge on which a point lies, positive within. -/
def sideOf (e : (Int × Int) × (Int × Int)) (x y : Int) : Int :=
  (e.2.1 - e.1.1) * (y - e.1.2) - (e.2.2 - e.1.2) * (x - e.1.1)

/-- A point on an edge belongs to a top or a left edge. -/
def topLeft (e : (Int × Int) × (Int × Int)) : Bool :=
  (e.1.2 == e.2.2 && decide (e.1.1 < e.2.1)) || decide (e.2.2 < e.1.2)

/-- A sample lies in a primitive: the top-left fill rule for a triangle (R321). -/
def covers (area : Bool) (poly : List (Int × Int)) (x y samples i : Nat) : Bool :=
  if !area then Config.thinCover poly x y (16 * samples + i) else
  let o := Config.samplePos samples i
  let px : Int := 256 * x + o.1 % 256
  let py : Int := 256 * y + o.2 % 256
  !poly.isEmpty && (edges poly).all (fun e => decide (0 < sideOf e px py) || (sideOf e px py == 0 && topLeft e))

/-- A polygon and the open rectangle of a tile's pixels meet: no edge of either separates them. -/
def meetsRect (p : List (Int × Int)) (x0 y0 x1 y1 : Int) : Bool :=
  let corners := [(x0, y0), (x1, y0), (x0, y1), (x1, y1)]
  p.any (fun q => decide (x0 < q.1)) && p.any (fun q => decide (q.1 < x1)) && p.any (fun q => decide (y0 < q.2)) &&
    p.any (fun q => decide (q.2 < y1)) && (edges p).all (fun e => corners.any (fun c => decide (0 < sideOf e c.1 c.2)))

/-- The primitive itself touches a tile (R321). -/
def touches (d : PassDesc) (area : Bool) (poly : List (Int × Int)) (t : Nat) : Bool :=
  let r := d.rect t
  if area then
    meetsRect poly (256 * r.1 : Nat) (256 * r.2.1 : Nat) (256 * (r.1 + r.2.2.1) : Nat) (256 * (r.2.1 + r.2.2.2) : Nat)
  else (List.range r.2.2.2).any (fun y => (List.range r.2.2.1).any (fun x =>
    (List.range d.samples).any (fun i => covers false poly (r.1 + x) (r.2.1 + y) d.samples i)))

/-- The viewport's words in a state block. -/
def viewport (st : List U8) : List Nat := (List.range 6).map (fun i => field st (4 * i) 4)

/-- A primitive that survives clipping and culling, without its ordinal; none where it does not (R321). -/
def survivor (p : PassDesc) (di : Nat) (d : Draw) (st : List U8) (ws : List (List U32)) : Option Prim :=
  let poly := Config.clipSnap (ws.map (fun w => (w.take 4).map BitVec.toNat)) (viewport st)
  let area := decide (d.topo ≤ 1)
  let a := area2 poly
  let front := if area then decide (a < 0) == d.flag 7 else true
  if poly.isEmpty || (area && (a == 0 || (d.flag 5 && !front) || (d.flag 6 && front))) then none else
  let poly := if area && decide (a < 0) then poly.reverse else poly
  some { ord := 0, draw := di, front := front, area := area, poly := poly, verts := ws,
         tiles := (List.range p.tiles).filter (touches p area poly) }

/-- The primitives already binned to a tile. -/
def Pass.binOf (p : Pass) (t : Nat) : List Prim := p.bins.filter (fun q => q.tiles.contains t)

/-- The heap bytes that a primitive takes: records of vertices without one in this phase, and the bin chunks that it
opens (R322, R323). -/
def Pass.needs (p : Pass) (d : Draw) (vs : List Nat) (q : Prim) : Nat :=
  ((vs.eraseDups.filter (fun v => !p.verts.contains (q.draw, v))).length) * (16 + 16 * d.attrs) +
    256 * (q.tiles.filter (fun t => (p.binOf t).length % 62 == 0)).length

/-- How binning a draw ends: whole, or before a primitive that the heap cannot hold. -/
inductive BinEnd where
  | whole (p : Pass)
  | full (p : Pass)
deriving DecidableEq, Repr

/-- The survivors of a draw are binned in order, those before START_PRIM or already binned being passed over. -/
def binPrims (pd : PassDesc) (di : Nat) (d : Draw) (st : List U8) (heap done : Nat) :
    List (List Nat) → (i : Nat) → Pass → BinEnd
  | [], _, p => .whole p
  | vs :: rest, i, p =>
    match survivor pd di d st (vs.map (fun v => p.shaded.get [] v)) with
    | none => binPrims pd di d st heap done rest i p
    | some q =>
      if i < done then binPrims pd di d st heap done rest (i + 1) p
      else if i < p.startPrim && di = p.startDraw then
        binPrims pd di d st heap done rest (i + 1) { p with prim := i + 1, ord := p.ord + 1 }
      else
        let n := p.needs d vs q
        if heap < p.heap + n then .full p
        else
          binPrims pd di d st heap done rest (i + 1)
            { p with
              heap := p.heap + n, prim := i + 1, ord := p.ord + 1
              verts := p.verts ++ (vs.eraseDups.filter (fun v => !p.verts.contains (di, v))).map (fun v => (di, v))
              bins := p.bins ++ [{ q with ord := p.ord }] }

/-- A draw's record and state block are read and checked. -/
def State.readDraw (s : State) (j : Nat) (v : Job) (i : Nat) (k : State → State) : State :=
  let p := s.passOf j
  if (p.recs.find i).isSome then k s else
  let a := p.d.drawList + 64 * i
  s.probed j 2 [(a, 64, .read)] (fun s =>
    let b := s.vread v.ctx a 64
    let d := Draw.of b
    s.probed j 2 [(d.state, 128, .read)] (fun s =>
      let st := s.vread v.ctx d.state 128
      if !drawOk p.d d st then s.loseJob j (.trap 1 0 0 0 0)
      else k (s.setPass j { p with recs := p.recs.set i (b, st) })))

/-- What a turn of the pass's engines did. -/
inductive Turn where
  /-- something changed and there may be more to do -/
  | again (s : State)
  /-- the engines wait, or the command ended -/
  | rest (s : State)

/-- A turn whose state has lost or killed the command, or that has left the pass as it was, is its last. -/
def turnOf (p : Pass) (s : State) (j : Nat) : Turn :=
  match s.jobs.find j with
  | some v => if v.st = .running && v.pass != some p then .again s else .rest s
  | none => .rest s

/-- What geometry bins goes to the parameter buffer at PB: the headers of the bins, and the part of the heap that the
phase has taken since (R322). -/
def State.writeBins (s : State) (j : Nat) (v : Job) (p q : Pass) (k : State → State) : State :=
  if q.heap = p.heap then k s else
  let head := 16 * p.d.tiles
  let ranges := [(pbVa v, head, Access.write), (pbVa v + head + p.heap, q.heap - p.heap, .write)]
  let bytes := fun (of n : Nat) =>
    (List.range n).map (fun i => (BitVec.ofNat 8 (Config.binByte [q.ord, q.draw, q.prim, of] i) : U8))
  s.probedAs true j 2 ranges (fun s =>
    let s := s.traffic j v.ctx ranges
    k ((s.vwrite v.ctx (pbVa v) (bytes 0 head)).vwrite v.ctx (pbVa v + head + p.heap) (bytes (p.heap + 1) (q.heap - p.heap))))

/-- A turn of geometry (R321 to R323): a vertex group starts, or a shaded draw is binned, or the stage ends. -/
def State.geometry (s : State) (j : Nat) (v : Job) (p : Pass) : Turn :=
  let s := s.setTile j 0
  if p.d.draws ≤ p.draw then turnOf p (s.putHeader j v { p with stage := 2, stored := 0 } id) j
  else if (p.recs.find p.draw).isNone then turnOf p (s.readDraw j v p.draw id) j
  else
    let d := p.draw_ p.draw
    if p.next < d.vertices then
      match s.soloCore v d.vsRegs with
      | none => .rest s
      | some k => turnOf p (s.startVertices j v p.draw d p.next k) j
    else if p.shaded.length < d.vertices then .rest s
    else
      let heap := pbBytes v - 16 * p.d.tiles
      match binPrims p.d p.draw d (p.state_ p.draw) heap p.prim d.prims 0 p with
      | .whole q =>
        turnOf p (s.writeBins j v p q (fun s =>
          s.setPass j { q with draw := q.draw + 1, next := 0, prim := 0, shaded := [] })) j
      | .full q =>
        if q.bins.isEmpty then .rest (s.loseJob j (.trap 1 0 0 0 0))
        else
          turnOf p (s.writeBins j v p q (fun s =>
            s.putHeader j v { q with stage := 1, stored := 0, stopDraw := q.draw, stopPrim := q.prim } id)) j

/-! ### Tiles (R323, R329, R333) -/

/-- The value of an attachment in a sample place, the stencil of 0x22 above its depth. -/
def TileBuf.val (b : TileBuf) (a : Att) (place : Nat) : Nat :=
  b.px.get 0 (16 * place + a.index) + (if a.sfmt = 0x22 then 2 ^ 32 * b.px.get 0 (16 * place + 9) else 0)

/-- The place of a sample within its tile. -/
def placeOf (samples x y i : Nat) : Nat := ((y % 32) * 32 + x % 32) * samples + i

/-- The address of a pixel of an attachment, and that of its stencil. -/
def Att.at (a : Att) (samples x y : Nat) : Nat := a.surface + y * a.pitch + x * samples * surfaceBytes a.sfmt
def Att.stencilAt (a : Att) (samples x y : Nat) : Nat := a.resolve + y * ((a.pitch / 4 + 255) / 256 * 256) + x * samples

/-- The width in pixels of an attachment's surface (R332). -/
def Att.widthOf (a : Att) (samples : Nat) : Nat := a.pitch / max 1 (pixelBytes a.sfmt * samples)

/-- The 8×8 blocks of a tile's pixels in the render area: index, first pixel, and pixels across and down. -/
def PassDesc.blocks (d : PassDesc) (t : Nat) : List (Nat × Nat × Nat × Nat × Nat) :=
  let r := d.rect t
  (List.range 16).filterMap (fun b =>
    let bx := b % 4 * 8
    let by_ := b / 4 * 8
    if r.2.2.1 ≤ bx || r.2.2.2 ≤ by_ then none
    else some (b, r.1 + bx, r.2.1 + by_, min 8 (r.2.2.1 - bx), min 8 (r.2.2.2 - by_)))

/-- The rows of bytes of a block of an attachment, its stencil rows among them. -/
def Att.rows (a : Att) (samples : Nat) (b : Nat × Nat × Nat × Nat × Nat) : List (Nat × Nat) :=
  (List.range b.2.2.2.2).flatMap (fun r =>
    (a.at samples b.2.1 (b.2.2.1 + r), b.2.2.2.1 * samples * surfaceBytes a.sfmt) ::
      (if a.sfmt = 0x22 then [(a.stencilAt samples b.2.1 (b.2.2.1 + r), b.2.2.2.1 * samples)] else []))

/-- The flag word of a tile in an attachment's array. -/
def Att.flagAt (a : Att) (d : PassDesc) (t : Nat) : Nat :=
  flagWordAt a.flags (a.widthOf d.samples) (d.rect t).1 (d.rect t).2.1

/-- The flag of a block in memory: DATA where the attachment has no array. -/
def State.blockFlag (s : State) (c : Nat) (d : PassDesc) (t : Nat) (a : Att) (b : Nat) : Nat :=
  if a.flags = 0 then 0 else ofBytes (s.vread c (a.flagAt d t) 4) / 4 ^ b % 4

/-- A tile comes from memory for an attachment: it is TOUCHED, or the operation is LOAD. -/
def Att.fromMemory (a : Att) (touched : Bool) : Bool := touched || a.load == 0

/-- A sample of an attachment as a tile load takes it (R323, R333). -/
def State.loadSample (s : State) (c : Nat) (d : PassDesc) (t : Nat) (touched : Bool) (a : Att) (x y i : Nat) : Nat :=
  let n := pixelBytes a.sfmt
  if !a.fromMemory touched then (if a.load = 1 then ofBytes (a.clearA.take n) else 0)
  else
    let b := y % 32 / 8 * 4 + x % 32 / 8
    match flagBytes (s.blockFlag c d t a b) n a.clearA a.clearB with
    | some bs => ofBytes bs
    | none =>
      let z := surfaceBytes a.sfmt
      ofBytes (s.vread c (a.at d.samples x y + i * z) z) +
        (if a.sfmt = 0x22 then 2 ^ 32 * ofBytes (s.vread c (a.stencilAt d.samples x y + i) 1) else 0)

/-- The pixels of a tile in the render area, in ascending place. -/
def PassDesc.pixels (d : PassDesc) (t : Nat) : List (Nat × Nat) :=
  let r := d.rect t
  (List.range r.2.2.2).flatMap (fun y => (List.range r.2.2.1).map (fun x => (r.1 + x, r.2.1 + y)))

/-- The ranges of a tile load: the flag words of the attachments that come from memory, the rows of their blocks with
flag 0, and the tile's bin in the parameter buffer. -/
def State.tileReads (s : State) (v : Job) (p : Pass) (t : Nat) : List (Nat × Nat × Access) :=
  let d := p.d
  let mem := d.atts.filter (fun a => a.fromMemory (s.tileBit v (touchedAt v d.tiles t) t))
  let chunks := ((p.binOf t).length + 61) / 62
  let heap := pbVa v + 16 * d.tiles
  (mem.filter (fun a => a.flags != 0)).map (fun a => (a.flagAt d t, 4, Access.read)) ++
    mem.flatMap (fun a => (d.blocks t).flatMap (fun b =>
      if s.blockFlag v.ctx d t a b.1 = 0 then (a.rows d.samples b).map (fun r => (r.1, r.2, Access.read)) else [])) ++
    (pbVa v + 16 * t, 16, Access.read) :: (List.range chunks).map (fun i =>
      (heap + 256 * (Config.binChunk p.heap t i % max 1 (p.heap / 256)), 256, Access.read))

/-- The accesses of a tile's load or store on core `k` and those of the Shuttle with them, in one probe: no byte moves where
a page of any of them fails (R229). The Shuttle's own are control traffic, which no regulator counts. -/
def State.probedTile (s : State) (j : Nat) (v : Job) (k : Nat) (tile own : List (Nat × Nat × Access))
    (go : State → State) : State :=
  match (s.on (some k)).probe v.ctx (tile ++ own) with
  | (some f, s) => s.failJob j f 0
  | (none, s) => s.passed true j v (tile ++ own) (fun s => go (s.traffic j v.ctx tile))

/-- A tile is loaded and begins on a core, whose island is not gated (R21, R229). -/
def State.startTile (s : State) (j : Nat) (v : Job) (p : Pass) (t k : Nat) : State :=
  let d := p.d
  let c := v.ctx
  (s.setTile j t).probedTile j v k (s.tileReads v p t) [(touchedAt v d.tiles t, 1, .read)] (fun s =>
    let touched := s.tileBit v (touchedAt v d.tiles t) t
    let px : TMap Nat := (d.pixels t).flatMap (fun q => (List.range d.samples).flatMap (fun i =>
      d.atts.flatMap (fun a =>
        let w := s.loadSample c d t touched a q.1 q.2 i
        let key := 16 * placeOf d.samples q.1 q.2 i
        if a.sfmt = 0x22 then [(key + 8, w % 2 ^ 32), (key + 9, w / 2 ^ 32)] else [(key + a.index, w)])))
    let b : TileBuf := { core := k, px := px }
    (s.ungate k).setPass j { p with tiles := p.tiles.set t b })

/-! ### Fragments (R319, R321, R330) -/

/-- The scissor of a state block holds a pixel. -/
def inScissor (st : List U8) (x y : Nat) : Bool :=
  decide (field st 24 2 ≤ x) && decide (x < field st 24 2 + field st 28 2) && decide (field st 26 2 ≤ y) &&
    decide (y < field st 26 2 + field st 30 2)

/-- An interpolated word of a primitive under a state block. -/
def Prim.word (q : Prim) (st : List U8) (which x y i : Nat) : U32 :=
  BitVec.ofNat 32
    (Config.interpolate (q.verts.map (fun w => w.map BitVec.toNat)) (q.area.toNat :: viewport st) which x y i)

/-- The fragments of a primitive in a tile, quad by quad, four positions each. -/
def fragsOf (d : PassDesc) (st : List U8) (t : Nat) (q : Prim) : List Frag :=
  let r := d.rect t
  (List.range 16).flatMap (fun qy => (List.range 16).flatMap (fun qx => (List.range d.samples).flatMap (fun i =>
    let four := [(0, 0), (1, 0), (0, 1), (1, 1)].map (fun (o : Nat × Nat) =>
      let dx := 2 * qx + o.1
      let dy := 2 * qy + o.2
      let x := r.1 + dx
      let y := r.2.1 + dy
      let f : Frag :=
        { ord := q.ord, x := x, y := y, sample := i, depth := q.word st 0 x y i,
          covered := decide (dx < r.2.2.1) && decide (dy < r.2.2.2) && inScissor st x y &&
            covers q.area q.poly x y d.samples i }
      f)
    if four.any Frag.covered then four else [])))

def sameSample (a b : Frag) : Bool := a.x == b.x && a.y == b.y && a.sample == b.sample

/-- The registers with which the fragments of a group start (R319). -/
def fragRegs (attrs : Nat) (q : Prim) (st : List U8) (fs : List Frag) : TMap U32 :=
  let word := fun (f : Frag) r => match r with
    | 0 => BitVec.ofNat 32 f.x
    | 1 => BitVec.ofNat 32 f.y
    | 2 => BitVec.ofNat 32 f.sample
    | 3 => f.depth
    | r => q.word st (r - 3) f.x f.y f.sample
  (List.range (4 + 4 * attrs)).flatMap (fun r => ((List.range fs.length).zip fs).map (fun e => (64 * r + e.1, word e.2 r)))

/-! ### Tests and retirement (R319, R330, R331) -/

/-- A comparison as VkCompareOp numbers it. -/
def vkCompare (op : Nat) (lt eq : Bool) : Bool :=
  match op with
  | 0 => false | 1 => lt | 2 => eq | 3 => lt || eq | 4 => !(lt || eq) | 5 => !eq | 6 => !lt | _ => true

/-- A stencil operation as VkStencilOp numbers it. -/
def vkStencil (op old ref : Nat) : Nat :=
  match op with
  | 0 => old | 1 => 0 | 2 => ref | 3 => min (old + 1) 255 | 4 => old - 1 | 5 => 255 - old
  | 6 => (old + 1) % 256 | _ => (old + 255) % 256

/-- The depth code of a fragment in the attachment's format. -/
def depthCode (f : Nat) (w : U32) : Nat := ((compsOf f).map (fun c => c.ofWord w)).headD 0

/-- The order of two depth codes: below, and equal. -/
def depthOrder (f a b : Nat) : Bool × Bool :=
  if f = 0x20 then (decide (a < b), a == b)
  else
    let x := Fmt.fp32.decode a
    let y := Fmt.fp32.decode b
    (FVal.lt x y, !x.isNan && !y.isNan && !FVal.lt x y && !FVal.lt y x)

/-- A sample place's depth and stencil after their tests, and whether the fragment passes (R319). -/
def testDepth (d : Draw) (st : List U8) (a : Att) (front : Bool) (depth : U32) (old stencil : Nat) :
    Nat × Nat × Bool :=
  let o := if front then 32 else 40
  let ops := field st (o + 4) 4
  let ref := field st (o + 2) 1
  let cm := field st o 1
  let wm := field st (o + 1) 1
  let new := depthCode a.sfmt depth
  let order := depthOrder a.sfmt new old
  let sOn := d.flag 8 && a.sfmt == 0x22
  let rs := Nat.land ref cm
  let ss := Nat.land stencil cm
  let sPass := !sOn || vkCompare (ops / 2 ^ 9 % 8) (decide (rs < ss)) (rs == ss)
  let dPass := !d.flag 0 || vkCompare (d.depth / 4 % 8) order.1 order.2
  let op := if !sPass then ops % 8 else if !dPass then ops / 2 ^ 6 % 8 else ops / 2 ^ 3 % 8
  let merged := Nat.lor (Nat.land stencil (255 - wm)) (Nat.land (vkStencil op stencil ref) wm)
  (if sPass && dPass && d.flag 1 then new else old, if sOn then merged else stencil, sPass && dPass)

/-- A tile after the depth and stencil tests of a sample, and whether it passes. -/
def TileBuf.tested (b : TileBuf) (p : Pass) (draw : Nat) (front : Bool) (f : Frag) (depth : U32) : TileBuf × Bool :=
  let key := 16 * placeOf p.d.samples f.x f.y f.sample
  match p.d.atts.find? (fun a => a.index == 8) with
  | none => (b, true)
  | some a =>
    let t := testDepth (p.draw_ draw) (p.state_ draw) a front depth (b.px.get 0 (key + 8)) (b.px.get 0 (key + 9))
    let px := b.px.set (key + 8) t.1
    ({ b with px := if a.sfmt = 0x22 then px.set (key + 9) t.2.1 else px }, t.2.2)

/-- The tile after a fragment retires: its tests, where they were not made before, and where it passes its depth, stencil
and blended colours. -/
def TileBuf.retire (b : TileBuf) (p : Pass) (k : Ticket) (o : FragOut) : TileBuf :=
  if !o.keep && !k.tested then b else
  let pd := p.d
  let st := p.state_ k.draw
  let key := 16 * placeOf pd.samples k.frag.x k.frag.y k.frag.sample
  let r := if k.tested then (b, true) else b.tested p k.draw k.front k.frag o.depth
  if !r.2 || o.colours.isEmpty then r.1 else
  let const : List U32 := (List.range 4).map (fun i => BitVec.ofNat 32 (field st (48 + 4 * i) 4))
  let px := (pd.atts.filter (fun a => a.index != 8)).foldl (fun (px : TMap Nat) a =>
    px.set (key + a.index)
      (blendSample a.sfmt (blendWord st a.index) ((o.colours.drop (4 * a.index)).take 4) const
        (px.get 0 (key + a.index)))) r.1.px
  { r.1 with px := px }

/-- Depth and stencil of a draw are tested before shading: its fragment kernel writes neither depth nor discards (R331). -/
def Pass.early (p : Pass) (draw : Nat) : Bool :=
  (p.draw_ draw).fs != 0 && Config.plainShader ((p.recs.get ([], []) draw).1.map BitVec.toNat)

/-- A sample is held back: four of its fragments are in flight, an earlier one is held, or, where it is to be tested before
shading, one in flight is not tested yet (R330, R331). -/
def TileBuf.blocks (b : TileBuf) (early : Bool) (held : List (Nat × List Frag)) (f : Frag) : Bool :=
  let inFlight := b.tickets.filter (fun k => sameSample k.frag f)
  decide (4 ≤ inFlight.length) || held.any (fun h => h.2.any (fun g => g.covered && sameSample g f)) ||
    (early && inFlight.any (fun k => !k.tested))

/-- The quads of a list of fragments. -/
def quads : List Frag → List (List Frag)
  | a :: b :: c :: d :: l => [a, b, c, d] :: quads l
  | _ => []

/-- A quad as the rasteriser sends it, and what of it is held back: a fragment is held where its sample is. -/
def TileBuf.split (b : TileBuf) (early : Bool) (held : List (Nat × List Frag)) (q : List Frag) : List Frag × List Frag :=
  (q.map (fun f => { f with covered := f.covered && !b.blocks early held f }),
    q.map (fun f => { f with covered := f.covered && b.blocks early held f }))

/-- The fragments of sent quads take their tickets; where they are tested before shading, one that fails is done. -/
def TileBuf.take (b : TileBuf) (p : Pass) (q : Prim) (early shaded : Bool) : List Frag → (sent : List Frag) → TileBuf × List Frag
  | [], sent => (b, sent)
  | f :: fs, sent =>
    if !f.covered then TileBuf.take b p q early shaded fs (sent ++ [f]) else
    let r := if early then b.tested p q.draw q.front f f.depth else (b, true)
    if !r.2 then TileBuf.take r.1 p q early shaded fs (sent ++ [{ f with covered := false }]) else
    let k : Ticket :=
      { frag := f, draw := q.draw, front := q.front, tested := early,
        out := if shaded then none else some { keep := true, depth := f.depth, colours := [] } }
    TileBuf.take { r.1 with tickets := r.1.tickets ++ [k] } p q early shaded fs (sent ++ [f])

/-- Quads go to shading: their fragments take tickets, and a group of the draw's fragment kernel starts where one has
fragments left and there is such a kernel; none while the core has no room for it. -/
def State.send (s : State) (j : Nat) (v : Job) (p : Pass) (t : Nat) (b : TileBuf) (q : Prim) (fs : List Frag) :
    Option State :=
  let d := p.draw_ q.draw
  if d.fs ≠ 0 && fs.any Frag.covered && (s.room b.core (soloShape d.fsRegs)).isNone then none else
  let r := b.take p q (p.early q.draw) (d.fs != 0) fs []
  let s := s.setPass j { p with tiles := p.tiles.set t r.1 }
  let live := (quads r.2).filter (fun l => l.any Frag.covered)
  some (if d.fs = 0 || live.isEmpty then s
    else s.startSolo j v d.arg d.fsRegs q.ord b.core (.fragment t live.flatten) (firstThreads live.flatten.length)
      (fragRegs d.attrs q (p.state_ q.draw) live.flatten))

/-- The first held quad with a fragment whose sample is free again, what is sent of it and what stays held. -/
def TileBuf.freed (b : TileBuf) (early : Nat → Bool) : (before : List (Nat × List Frag)) → List (Nat × List Frag) →
    Option (Nat × List Frag × List (Nat × List Frag))
  | _, [] => none
  | before, h :: hs =>
    let r := b.split (early h.1) before h.2
    if r.1.any Frag.covered then
      some (h.1, r.1, before ++ (if r.2.any Frag.covered then [(h.1, r.2)] else []) ++ hs)
    else TileBuf.freed b early (before ++ [h]) hs

/-- A turn of a tile's rasteriser: a quad that was held back goes on, or the next fragments of its bin do, in ordinal
order; a sample with four fragments in flight holds back its own fragments alone (R330). -/
def State.raster (s : State) (j : Nat) (v : Job) (p : Pass) (t : Nat) (b : TileBuf) : Turn :=
  let bin := p.binOf t
  let early := fun i => (bin[i]?).elim false (fun q => p.early q.draw)
  match (b.freed early [] b.held).bind (fun h => (bin[h.1]?).bind (fun q =>
      s.send j v p t { b with held := h.2.2 } q h.2.1)) with
  | some s => .again s
  | none =>
    match bin[b.next]? with
    | none => .rest s
    | some q =>
      let fs := ((fragsOf p.d (p.state_ q.draw) t q).drop b.sent).take 64
      if fs.isEmpty then .again (s.setPass j { p with tiles := p.tiles.set t { b with next := b.next + 1, sent := 0 } })
      else
        let parts := (quads fs).map (b.split (early b.next) b.held)
        let back := ((parts.map Prod.snd).filter (fun l => l.any Frag.covered)).map (fun l => (b.next, l))
        let b := { b with sent := b.sent + fs.length, held := b.held ++ back }
        match s.send j v p t b q (parts.map Prod.fst).flatten with
        | some s => .again s
        | none => .rest s

/-- Every ticket whose fragment has its output and no earlier ticket of its sample retires, in ticket order. -/
def retireAll (p : Pass) : List Ticket → (kept : List Ticket) → TileBuf → TileBuf
  | [], kept, b => { b with tickets := kept }
  | k :: ks, kept, b =>
    match k.out with
    | some o =>
      if kept.any (fun e => sameSample e.frag k.frag) then retireAll p ks (kept ++ [k]) b
      else retireAll p ks kept (b.retire p k o)
    | none => retireAll p ks (kept ++ [k]) b

/-- What a fragment thread holds at EXIT: p6, a depth where the kernel has written g32, and its colours (R319). -/
def fragOut (g : Group) (t colours : Nat) (f : Frag) : FragOut :=
  { keep := bit (g.pred 6) t, depth := (g.regs.find (64 * 32 + t)).getD f.depth,
    colours := (List.range (4 * colours)).map (fun r => g.reg r t) }

/-- The outputs of a fragment group reach its tile's tickets. -/
def State.fragmentsOut (s : State) (g : Group) (t : Nat) (fs : List Frag) : State :=
  let p := s.passOf g.job
  match p.tiles.find t with
  | none => s
  | some b =>
    let tk := b.tickets.map (fun k =>
      match fs.findIdx? (fun f => f == k.frag) with
      | some i => if k.out.isNone then { k with out := some (fragOut g i p.d.colours k.frag) } else k
      | none => k)
    s.setPass g.job { p with tiles := p.tiles.set t (retireAll p tk [] b) }

/-- The outputs of a vertex group are kept for assembly. -/
def State.verticesOut (s : State) (g : Group) (di base : Nat) : State :=
  let p := s.passOf g.job
  let d := p.draw_ di
  let n := min 64 (d.vertices - base)
  s.setPass g.job { p with
    shaded := (List.range n).foldl (fun (m : TMap (List U32)) t =>
      m.set (base + t) ((List.range (4 + 4 * d.attrs)).map (fun r => g.reg r t))) p.shaded }

/-! ### Progress -/

/-- The tiles that a stage still has to render: not STORED, and in stage 1 with a bin that is not empty (R323, R327). -/
def State.tilesLeft (s : State) (v : Job) (p : Pass) : List Nat :=
  (List.range p.d.tiles).filter (fun t =>
    !s.tileBit v (storedAt v t) t && (p.stage == 2 || !(p.binOf t).isEmpty))

/-- A phase ends: STORED is ORed into TOUCHED and cleared, the bins are emptied, and geometry resumes (R323). -/
def State.endPhase (s : State) (j : Nat) (v : Job) (p : Pass) : State :=
  let m := bitmapBytes p.d.tiles
  let a := stateVa v + 64
  (s.setTile j 0).probed j 2 [(a, 2 * m, .write), (stateVa v, 64, .write)] (fun s =>
    let st := s.vread v.ctx a m
    let touched := s.vread v.ctx (a + m) m
    let s := s.vwrite v.ctx a (List.replicate m 0 ++ (st.zip touched).map (fun e => e.1 ||| e.2))
    let redo := p.shaded.isEmpty
    let q := { p with
      phase := p.phase + 1, stage := 0, startDraw := p.stopDraw, startPrim := p.stopPrim, startOrd := p.ord, stored := 0
      stopDraw := 0, stopPrim := 0, bins := [], verts := [], heap := 0, spoilt := []
      next := if redo then 0 else p.next
      prim := if redo then 0 else p.prim
      ord := if redo then p.ord - p.stopPrim else p.ord }
    s.putHeader j v q id)

/-- A turn of the tile stages: a tile starts on the lowest core with a free slot, or one that has started goes on, or the
stage ends. -/
def State.tiling (s : State) (j : Nat) (v : Job) (p : Pass) : Turn :=
  match ((s.on none).probe v.ctx [(stateVa v + 64, bitmapBytes p.d.tiles, .read)]) with
  | (some f, s) => .rest ((s.setTile j 0).failJob j f 2)
  | (none, s) =>
    let left := s.tilesLeft v p
    if left.isEmpty then
      if p.stage = 1 then turnOf p (s.endPhase j v p) j
      else .rest ((s.setTile j 0).putHeader j v { p with stage := 3 } (fun s => s.jobDone j))
    else
      let core := (s.passCores v).find? (fun k =>
        decide ((p.tiles.filter (fun e => e.2.core == k)).length < p.d.slots))
      match left.find? (fun t => (p.tiles.find t).isNone), core with
      | some t, some k => turnOf p (s.startTile j v p t k) j
      | _, _ =>
        match p.tiles.findSome? (fun e => match s.raster j v p e.1 e.2 with
          | .again s => some s
          | .rest _ => none) with
        | some s => .again ((s.passOf j).tiles.foldl (fun (s : State) e =>
            let q := s.passOf j
            s.setPass j { q with tiles := q.tiles.set e.1 (retireAll q e.2.tickets [] e.2) }) s)
        | none => .rest s

/-- The engines of a pass go on until they wait. -/
def State.passStep (s : State) (j : Nat) : (fuel : Nat) → State
  | 0 => s
  | fuel + 1 =>
    match s.jobs.find j with
    | none => s
    | some v =>
      match v.pass with
      | none => s
      | some p =>
        if v.kind ≠ 3 || v.st ≠ .running then s else
        match (if p.stage = 0 then s.geometry j v p else s.tiling j v p) with
        | .rest s => s
        | .again s => State.passStep s j fuel

/-- Turns that a pass takes for one command. -/
def passFuel : Nat := 0x100000

/-- A pass starts, or resumes from its state block (R325, R327, R342). -/
def State.startPass (s : State) (j : Nat) : State :=
  match s.jobs.find j with
  | none => s
  | some v =>
    s.zeroFill j (field v.payload 32 8) (field v.payload 40 2) (fun s =>
      match v.pass with
      | some p =>
        s.probed j 2 [(stateVa v, 64, .read)] (fun s =>
          s.putHeader j v (p.resume (s.vread v.ctx (stateVa v) 64)) (fun s => s.passStep j passFuel))
      | none =>
        s.probed j 2 [(passVa v, 640, .read)] (fun s =>
          let b := s.vread v.ctx (passVa v) 640
          let d := PassDesc.of b
          if !d.ok b then s.loseJob j (.trap 1 0 0 0 0)
          else
            s.probed j 2 [(stateVa v, 64 + 2 * bitmapBytes d.tiles, .write)] (fun s =>
              let s := s.vwrite v.ctx (stateVa v + 64) (List.replicate (2 * bitmapBytes d.tiles) 0)
              s.putHeader j v { desc := b } (fun s => s.passStep j passFuel))))

/-! ### The tile store (R29, R190, R323, R326, R333) -/

/-- A tile has nothing left to rasterise or retire. -/
def Pass.tileReady (p : Pass) (t : Nat) (b : TileBuf) : Bool :=
  b.tickets.isEmpty && b.held.isEmpty && decide ((p.binOf t).length ≤ b.next)

/-- The render area holds a pixel. -/
def PassDesc.holds (d : PassDesc) (x y : Nat) : Bool :=
  decide (x < d.x0 + d.width) && decide (y < d.y0 + d.height)

/-- The pixels of block `k` of a tile, those outside the render area among them. -/
def PassDesc.blockPixels (d : PassDesc) (t k : Nat) : List (Nat × Nat) :=
  let r := d.rect t
  (List.range 8).flatMap (fun y => (List.range 8).map (fun x => (r.1 + k % 4 * 8 + x, r.2.1 + k / 4 * 8 + y)))

/-- A sample of the surface that lies outside the render area: its value in memory, none where the surface has none there
or no page holds it. -/
def State.outside (s : State) (c : Nat) (d : PassDesc) (t : Nat) (a : Att) (x y i : Nat) : Option Nat :=
  let z := surfaceBytes a.sfmt
  let there := (s.reachOf c (a.at d.samples x y + i * z) z .read).isSome &&
    (a.sfmt ≠ 0x22 || (s.reachOf c (a.stencilAt d.samples x y + i) 1 .read).isSome)
  if a.widthOf d.samples ≤ x || !there then none
  else some (s.loadSample c d t true a x y i)

/-- A sample of a block as it stands when its tile is stored (R333). -/
def State.stands (s : State) (c : Nat) (d : PassDesc) (t : Nat) (a : Att) (b : TileBuf) (x y i : Nat) : Option Nat :=
  if d.holds x y then some (b.val a (placeOf d.samples x y i)) else s.outside c d t a x y i

/-- The flag with which block `k` is stored: 1, 2 or 3 where every sample equals that value, checked in that order. -/
def State.storeFlag (s : State) (c : Nat) (d : PassDesc) (t : Nat) (a : Att) (b : TileBuf) (k : Nat) : Nat :=
  let n := pixelBytes a.sfmt
  let vals := (d.blockPixels t k).flatMap (fun q => (List.range d.samples).filterMap (s.stands c d t a b q.1 q.2))
  if vals.all (· == ofBytes (a.clearA.take n)) then 1
  else if vals.all (· == ofBytes (a.clearB.take n)) then 2
  else if vals.all (· == 0) then 3 else 0

/-- The operation by which an attachment is stored: in stage 1 in full. -/
def Att.storeOp (a : Att) (stage : Nat) : Nat := if stage = 1 then 1 else a.store

/-- The flag that block `k` of a tile has after its store. A block with no pixel in the render area keeps its flag, unless
the store expands it. -/
def State.flagFor (s : State) (c : Nat) (d : PassDesc) (stage t : Nat) (a : Att) (b : TileBuf) (k : Nat) : Nat :=
  if a.storeOp stage ≠ 0 || a.flags = 0 then 0
  else if (d.blocks t).any (fun e => e.1 == k) then s.storeFlag c d t a b k
  else s.blockFlag c d t a k

/-- The bytes of samples of an attachment at a pixel: the surface's, and the stencil plane's. -/
def Att.put (a : Att) (d : PassDesc) (x y : Nat) (smp : List Nat) : List (Nat × List U8) :=
  (a.at d.samples x y, smp.flatMap (fun v => toBytes (surfaceBytes a.sfmt) v)) ::
    (if a.sfmt = 0x22 then [(a.stencilAt d.samples x y, smp.map (fun v => BitVec.ofNat 8 (v / 2 ^ 32)))] else [])

/-- The bytes of a tile's data in an attachment: the blocks with flag 0, row by row in the render area, and outside it the
samples that a flag gave before, which can be written. -/
def State.dataOf (s : State) (c : Nat) (d : PassDesc) (stage t : Nat) (a : Att) (b : TileBuf) : List (Nat × List U8) :=
  if a.storeOp stage = 2 then [] else
  let inner := ((d.blocks t).filter (fun k => s.flagFor c d stage t a b k.1 == 0)).flatMap (fun k =>
    (List.range k.2.2.2.2).flatMap (fun r =>
      a.put d k.2.1 (k.2.2.1 + r) ((List.range k.2.2.2.1).flatMap (fun x => (List.range d.samples).map (fun i =>
        b.val a (placeOf d.samples (k.2.1 + x) (k.2.2.1 + r) i))))))
  let outer := ((List.range 16).filter (fun k => s.flagFor c d stage t a b k == 0 && s.blockFlag c d t a k != 0)).flatMap
    (fun k => ((d.blockPixels t k).filter (fun q => !d.holds q.1 q.2)).flatMap (fun q =>
      match (List.range d.samples).mapM (s.outside c d t a q.1 q.2) with
      | some smp => (a.put d q.1 q.2 smp).filter (fun w => (s.reachOf c w.1 w.2.length .write).isSome)
      | none => []))
  inner ++ outer

/-- The resolved pixels of a colour attachment, written with the final tiles. -/
def Att.resolveOf (a : Att) (d : PassDesc) (stage t : Nat) (b : TileBuf) : List (Nat × List U8) :=
  if stage ≠ 2 || a.index = 8 || a.resolve = 0 then [] else
  let r := d.rect t
  let n := pixelBytes a.sfmt
  (List.range r.2.2.2).map (fun dy =>
    let y := r.2.1 + dy
    (a.resolve + y * (a.pitch / d.samples) + r.1 * n,
      (List.range r.2.2.1).flatMap (fun dx =>
        let vs := (List.range d.samples).map (fun i => b.val a (placeOf d.samples (r.1 + dx) y i))
        toBytes n (if d.samples = 1 then vs.headD 0 else Config.resolve a.sfmt vs))))

/-- The flag word of a store. -/
def State.flagWord (s : State) (c : Nat) (d : PassDesc) (stage t : Nat) (a : Att) (b : TileBuf) : Nat :=
  ((List.range 16).map (fun k => s.flagFor c d stage t a b k * 4 ^ k)).sum

/-- Every write of a tile store: data first, then flag words (R326). -/
def State.tileWrites (s : State) (c : Nat) (d : PassDesc) (stage t : Nat) (b : TileBuf) : List (Nat × List U8) :=
  d.atts.flatMap (fun a => s.dataOf c d stage t a b ++ a.resolveOf d stage t b) ++
    (d.atts.filter (fun a => a.flags != 0 && a.storeOp stage != 2)).map (fun a =>
      (a.flagAt d t, toBytes 4 (s.flagWord c d stage t a b)))

/-- A tile buffer's corrected error is counted (R189, R196); which row it lies in is a free value. -/
def State.tileCorrected (s : State) (k : Nat) : State :=
  let (row, s) := s.free
  let s := s.updCore k (fun x => { x with tbRows := x.tbRows.set row (x.tbRows.get 0 row + 1) })
  (s.updCluster (k / 8) (fun x => { x with tbCe := satAdd32 x.tbCe 1 })).fltEvent 6

/-- An uncorrectable error of a tile buffer kills the pass, whose tiles in progress are discarded and rendered again; a
second one in the same tile of the pass, or one of a pass that may not be restarted, loses the context (R190, R342). R170
gives the kill no cause and R189 no place within the buffer: free values. -/
def State.tileLost (s : State) (j : Nat) (v : Job) (p : Pass) (t : Nat) (b : TileBuf) : State :=
  let s := s.updCluster (b.core / 8) (fun x => { x with tbUe := satAdd32 x.tbUe 1 })
  let (off, s) := s.free
  let off := off % 0x20000
  if v.nonRestart || p.spoilt.contains t then s.loseJob j (.sram 2 (BitVec.ofNat 8 b.core) (BitVec.ofNat 64 off))
  else
    let (n, s) := s.free
    let s := s.killAs j (n % 256) false .rerun
    let s := s.setPass j { s.passOf j with spoilt := t :: p.spoilt }
    (s.partRecord (s.ctx v.ctx).partition
      { status := 0, source := 0x08, context := 0xFFFF, stitch := v.stitch64, addr := BitVec.ofNat 64 off,
        info := BitVec.ofNat 32 (2 + 16 * b.core), die := s.dieNo == 1 }).settle

/-- TILE_STORE_COMMIT: the probe covers every line of the store and of the state block; the data and flag words are
written, and the OR of the STORED bit commits the tile (R326). -/
def execTileStoreCommit (job tile : Nat) (e : MemEvent) (s : State) : Out :=
  .next (s.withJob job 3 (fun s v =>
    let p := s.passOf job
    match p.tiles.find tile with
    | none => s
    | some b =>
      if !p.tileReady tile b then s
      else
        let s := s.setTile job tile
        let v := { v with tile := tile }
        if e = .sramUncorrectable then s.tileLost job v p tile b
        else
          let s := if e = .sramCorrected then s.tileCorrected b.core else s
          let ws := s.tileWrites v.ctx p.d p.stage tile b
          let a := storedAt v tile
          s.probedTile job v b.core (ws.map (fun w => (w.1, w.2.length, Access.write)))
            [(a, 1, .atomic), (stateVa v, 64, .write)] (fun s =>
            let s := ws.foldl (fun s w => s.vwrite v.ctx w.1 w.2) s
            let s := s.vwrite v.ctx a ((s.vread v.ctx a 1).map (fun x => setBit x (tile % 8) true))
            s.putHeader job v { p with tiles := p.tiles.del tile, stored := p.stored + 1 } (fun s => s.passStep job passFuel))))

end Sys2Proof.Machine
end

