-- ==== Sys2Proof/Machine/Exit.lean ====
section
/-! DEFINITION. EXIT: threads leave a group, groups and blocks retire, and what waited for them goes on (R61 to R63,
R66, R71 to R73, R319). -/

namespace Sys2Proof.Machine

open Sys2Proof

/-- The group without the threads of a mask: they leave the live and active sets and every stack entry (R63). -/
def Group.leave (g : Group) (e : U64) : Group :=
  { g with
    live := g.live &&& ~~~e
    active := g.active &&& ~~~e
    stack := g.stack.map (fun x => (x.1, x.2.1, x.2.2 &&& ~~~e)) }

/-- What a retired group of a render pass leaves to its engines (R319). -/
def State.capture (s : State) (g : Group) : State :=
  match g.role with
  | .kernel => s
  | .vertex d base => s.verticesOut g d base
  | .fragment t fs => s.fragmentsOut g t fs

/-- The barriers of a block are checked against its live groups. -/
def State.settleBlock (s : State) (b : Nat) : State :=
  ((List.range 16).foldl (fun (s : State) n => s.settleBarrier b n) s).settleCbar b

/-- A block all of whose groups have retired retires; the blocks of a cluster leave their cores together, since each
may reach the others' local memory until then (R67). -/
def State.retireBlock (s : State) (b : Nat) : State :=
  match s.blocks.find b with
  | none => s
  | some x =>
    if !(s.liveGroups b).isEmpty then s else
    let x := { x with retired := true }
    let s := s.setBlock b x
    let mates := s.blocks.filter (fun e => e.2.job == x.job && e.2.cluster == x.cluster)
    if mates.any (fun e => !e.2.retired) then s.settleCbar b
    else
      let gone := mates.map Prod.fst
      { s with
        blocks := s.blocks.filter (fun e => !gone.contains e.1)
        groups := s.groups.filter (fun e => !gone.contains e.2.block) }

/-- What a command does once room has come on its cores: blocks start, a pass goes on, or the command is done. -/
def State.jobProgress (s : State) (j : Nat) : State :=
  match s.jobs.find j with
  | none => s
  | some v =>
    if v.kind = 3 then s.passStep j passFuel
    else (((s.unpark j v).startBlocks j 1024).kernelDone j).parkDone j

/-- EXIT: the executing threads end; a group with none left retires (R61, R63, R71). -/
def execExit (g : Nat) (f : BForm) (s : State) : Out :=
  .next (
    match s.mayIssue g with
    | none => s
    | some x =>
      let e := x.executing f.pneg f.pred
      if e = 0 then s.setGroup g (x.advance 1)
      else
        let y := x.leave e
        if y.live ≠ 0 then s.setGroup g (y.advance 1)
        else
          let s := (s.setGroup g { y with retired := true }).capture y
          ((s.settleBlock y.block).retireBlock y.block).jobProgress y.job)

end Sys2Proof.Machine
end

