-- ==== Sys2Proof/Machine/Matrix.lean ====
section
/-! DEFINITION. The matrix engines: operand chunks, anchors, the Bolt, the pleated products, the fused epilogue and
the matrix-layer node (R91, R97 to R102, R104 to R125, R133 to R138). -/

namespace Sys2Proof.Machine

open Sys2Proof

/-! ### Products -/

/-- The balanced digits of N below the top one, radix 2^b (R133). -/
def pleat (b : Nat) (n : Int) : Int := (n + (2 ^ (b - 1) : Nat)) % ((2 ^ b : Nat) : Int) - (2 ^ (b - 1) : Nat)

/-- The pleats of an integer: `n` digits of radix 2^b, lowest first, the last taking what remains (R133). -/
def pleats (b : Nat) : (n : Nat) → Int → List Int
  | 0, _ => []
  | 1, v => [v]
  | n + 2, v => pleat b v :: pleats b (n + 1) ((v - pleat b v) / ((2 ^ b : Nat) : Int))

/-- The integer product of two significands under the faithful option: the passes that R135 keeps. -/
def faithfulProduct (f : Fmt) (m n : Nat) : Int :=
  let prod := fun (b k least : Nat) =>
    let ps := pleats b k (-(m : Int))
    let qs := pleats b k (-(n : Int))
    ((List.range k).flatMap (fun i => (List.range k).map (fun j =>
      if i + j < least then 0 else ps.getD i 0 * qs.getD j 0 * (2 ^ (b * (i + j)) : Nat)))).foldl (· + ·) 0
  match f with
  | .fp32 => prod 12 2 1
  | .fp64 => prod 18 3 2
  | _ => (m * n : Nat)

/-- The product of two finite elements under a pleat mode (R135, R138). -/
def productOf (f : Fmt) (faithful : Bool) (x y : FVal) : FVal :=
  match x, y with
  | .fin a m e, .fin b n k =>
    if faithful && (f == .fp32 || f == .fp64) then
      let p := faithfulProduct f m n
      FVal.ofScaled (if a != b then -p else p) (e + k)
    else .fin (a != b) (m * n) (e + k)
  | _, _ => FVal.mul x y

/-- An addend joins a Bolt's register, and its residue modulo 3 the shadow (R117, R130). -/
def Bolt.add (b : Bolt) (q : Int) : Bolt :=
  { b with v := b.v + BitVec.ofInt 232 q, shadow := BitVec.ofNat 2 ((b.shadow.toNat + (q % 3).toNat) % 3) }

/-- The register agrees with the shadow (R130). -/
def Bolt.agrees (b : Bolt) : Bool := (b.v.toInt % 3).toNat == b.shadow.toNat

/-- A product enters a Bolt of anchor `a` (R98, R117). -/
def Bolt.enter (b : Bolt) (a : Option Int) (p : FVal) : Bolt :=
  match p with
  | .nan => { b with nan := true }
  | .inf neg => if neg then { b with negInf := true } else { b with posInf := true }
  | .fin .. => b.add (floorScaled p (200 - a.getD 0))

/-- The elements of two lines in pairs; what lies beyond the shorter one's extent counts as zero (R113). -/
def paired : List FVal → List FVal → List (FVal × FVal)
  | [], ys => ys.map (fun y => (.fin false 0 0, y))
  | xs, [] => xs.map (fun x => (x, .fin false 0 0))
  | x :: xs, y :: ys => (x, y) :: paired xs ys

/-- The products of a row and a column of elements enter a Bolt. -/
def Bolt.dot (b : Bolt) (a : Option Int) (f : Fmt) (faithful : Bool) (xs ys : List FVal) : Bolt :=
  (paired xs ys).foldl (fun b e => b.enter a (productOf f faithful e.1 e.2)) b

/-- A pair of formats that a matrix instruction may multiply (R97, R138). -/
def pairAllowed (a b : Fmt) (faithful : Bool) : Bool :=
  let wide := fun (f : Fmt) => f == .fp32 || f == .i32 || f == .fp64
  let never := fun (f : Fmt) => f == .tw32 || f == .bolt
  !never a && !never b && (if wide a || wide b then a == b else true) && !(faithful && a == .i32)

/-- The anchor of an element, none where its row or column has no exponent (R116). -/
def anchorOf (e f : Option Int) : Option Int :=
  match e, f with
  | some x, some y => some (x + y + 2)
  | _, _ => none

/-- An element's exponent exceeds its anchor term (R125). -/
def staleElem (term : Option Int) (v : FVal) : Bool :=
  match v.expo, term with
  | none, _ => false
  | some _, none => true
  | some e, some t => decide (t < e)

/-! ### The Bolt's sum and its spill -/

/-- The Bolt's own sum leaves the 224-bit range above or below (R115). -/
def Bolt.over (b : Bolt) : Bool := decide ((2 ^ 223 : Int) ≤ b.v.toInt)
def Bolt.under (b : Bolt) : Bool := decide (b.v.toInt < -(2 ^ 223 : Int))

/-- The Bolt holds an infinity or an overflow of a sign (R91, R101, R115). -/
def Bolt.up (b : Bolt) : Bool := b.posInf || b.ovfPos || b.over
def Bolt.down (b : Bolt) : Bool := b.negInf || b.ovfNeg || b.under

/-- The value that enters the epilogue (R99, R101). -/
def Bolt.value (b : Bolt) (a : Option Int) : FVal :=
  if b.nan || (b.up && b.down) then .nan
  else if b.up then .inf false
  else if b.down then .inf true
  else FVal.ofScaled b.v.toInt (a.getD 0 - 200)

/-- The 32-byte spill of a Bolt (R91, R115, R116). DESIGN CHOICE: where it holds overflows of both signs, for each of which
R91 gives a VALUE of its own, VALUE is 2^223 - 1 (assumption 112). -/
def Bolt.spill (b : Bolt) (a : Option Int) : List U8 :=
  let hi := b.ovfPos || b.over
  let lo := b.ovfNeg || b.under
  let nan := b.nan || (hi && lo) || ((hi || lo) && b.up && b.down)
  let v : Nat := if hi then 2 ^ 223 - 1 else if lo then 2 ^ 223 else b.v.toNat % 2 ^ 224
  toBytes 28 v ++ toBytes 2 (a.elim 0x8000 (fun x => wrapTo 16 x)) ++
    toBytes 1 (nan.toNat + 2 * b.posInf.toNat + 4 * b.negInf.toNat + 8 * (hi || lo).toNat) ++ [0]

/-- A spill enters a Bolt; none where a value meets another anchor (R114, R115). -/
def Bolt.addSpill (b : Bolt) (a : Option Int) (s : List U8) : Option Bolt :=
  let v := field s 0 28
  let fl := field s 30 1
  let b := { b with
    nan := b.nan || fl % 2 == 1, posInf := b.posInf || fl / 2 % 2 == 1, negInf := b.negInf || fl / 4 % 2 == 1 }
  if fl / 8 % 2 = 1 then
    some (if v / 2 ^ 223 % 2 = 1 then { b with ovfNeg := true } else { b with ovfPos := true })
  else if v = 0 then some b
  else if some (signedOf 16 (field s 28 2)) ≠ a then none
  else some (b.add (signedOf 224 v))

/-! ### Descriptors in uniform registers -/

/-- An operand descriptor (R109): the tensor descriptor's address, the origin, the K origin and KC. -/
structure OpDesc where
  td : Nat
  origin : Nat
  k0 : Nat
  kc : Nat
deriving DecidableEq, Repr

/-- The address that uniform registers u and u+1 hold, none where its low bits are set. -/
def Group.descAddr (g : Group) (u : Nat) : Option Nat :=
  let lo := (g.ureg u).toNat
  if lo % 64 ≠ 0 then none else some (lo + (g.ureg (u + 1)).toNat % 2 ^ 17 * 2 ^ 32)

/-- The operand descriptor at uniform register u, none where it breaks R109. -/
def Group.opDesc (g : Group) (u : Nat) : Option OpDesc :=
  let w := (g.ureg (u + 3)).toNat
  let kc := w / 2 ^ 26 % 16
  (g.descAddr u).bind (fun td =>
    if w / 2 ^ 30 ≠ 0 || 8 < kc || w % 32 ≠ 0 then none
    else some { td := td, origin := (g.ureg (u + 2)).toNat % 2 ^ 26, k0 := w % 2 ^ 26, kc := kc })

/-- The flags of R108. -/
def xBank (f : XForm) : Nat := f.flags.toNat % 4
def xAH (f : XForm) : Nat := f.flags.toNat / 4 % 2
def xBH (f : XForm) : Nat := 2 + f.flags.toNat / 8 % 2
def xPair (f : XForm) : Bool := bit f.flags 4
def xSweep (f : XForm) : Bool := bit f.flags 5

/-- A register field that an instruction uses names a multiple of 4 (R108). -/
def xReg (r : U8) : Bool := decide (r.toNat < 64) && r.toNat % 4 == 0

/-! ### Issue -/

/-- The engine's declared pleat mode (R138). -/
def Block.faithful (b : Block) (e : Bool) : Bool := if e then b.faithful1 else b.faithful0

/-- A matrix instruction of group `i` (R73, R108): an empty executing set has no effect, a partial one traps with
MATRIX_DIVERGENT, and an engine that the block did not declare or an undefined flag is an undefined encoding. -/
def State.runX (s : State) (i : Nat) (f : XForm) (uses : Bool) (pairs sweeps : Bool)
    (k : State → Group → Block → State) : State :=
  match s.mayIssue i with
  | none => s
  | some g =>
    let e := g.executing f.pneg f.pred
    if e = 0 then s.setGroup i (g.advance 1)
    else if e ≠ g.live then s.trapAt g (.divergence true) (lowest e)
    else
      match s.blocks.find g.block with
      | none => s
      | some b =>
        let engines := if f.engine then 2 else 1
        let ok := uses && decide (engines ≤ b.engines) && decide (f.flags.toNat < 64) &&
          (!xPair f || (pairs && !f.engine && b.engines == 2)) && (!xSweep f || sweeps)
        if ok then k (s.onGroup g) g b else s.trap g 1 (lowest e)

/-- A trap of a matrix instruction; every thread is live (R73, R114). -/
def State.mxTrap (s : State) (g : Group) (kind : Nat) : State := s.trap g kind (lowest g.live)

/-- The state with a group's block changed. -/
def State.updBlock (s : State) (b : Nat) (f : Block → Block) : State :=
  match s.blocks.find b with
  | none => s
  | some x => s.setBlock b (f x)

/-- The state with a matrix engine of a block changed. -/
def State.updMx (s : State) (b e : Nat) (f : MxEngine → MxEngine) : State :=
  s.updBlock b (fun x => { x with mx := x.mx.set e (f (x.mx.get {} e)) })

/-- The ranges of a tile in a descriptor's space are checked before any byte moves (R68, R177, R179, R229); where they are
to `pay`, they wait while the partition holds no credit (R23). -/
def State.mxRanges (s : State) (pay : Bool) (j p b : Nat) (trap : State → Nat → State) (space : Nat) (rs : List (Nat × Nat))
    (acc : Access) (extra : List (Nat × Nat × Access)) (k : State → State) : State :=
  match if space = 0 then none else rs.findSome? (fun r => if r.2 = 0 then none else s.rangeTrap p b space r.1 r.2) with
  | some n => trap s n
  | none =>
    let pack := if space = 3 && acc = .write then
        rs.findSome? (fun r => (pieces r.1 r.2).findSome? (fun q =>
          (s.spool3 p q.1).bind (fun pa => match s.spoolPlace pa with
            | some (d, w, o) =>
              if d = s.dieNo && (s.spl.grans.get {} (256 * w + o / 0x10000)).st == .pack then some pa else none
            | none => none)))
      else none
    match pack with
    | some pa => s.loseJob j (.selvedge acc 0 (BitVec.ofNat 64 pa))
    | none =>
      let own := if space = 0 then rs.map (fun r => (r.1, r.2, acc)) else []
      s.probedAs pay j 0 (own ++ extra) (fun s => k (if space = 3 then s.spoolAccess p acc rs else s))

/-! ### MLOAD -/

/-- Line `i` of a chunk: for A a row and for B a column, from K origin k0, `n` elements of which `m` lie within the
tensor (R113). -/
def State.chunkLine (s : State) (c b : Nat) (t : Td) (isB : Bool) (line k0 m : Nat) : List Nat × List Nat :=
  let at_ := fun k => if isB then s.elemCode c b t (k0 + k) line else s.elemCode c b t line (k0 + k)
  let sc := fun q => if isB then (s.elemScale c b t (k0 + 32 * q) line).getD 0 else (s.elemScale c b t line (k0 + 32 * q)).getD 0
  ((List.range m).map at_, if t.scaled then (List.range ((m + 31) / 32)).map sc else [])

/-- The kind of the trap that an operand's descriptor causes against the instruction's format code (R97, R114). -/
def operandTrap (t : Td) (fmt : BitVec 5) (isB : Bool) : Option Nat :=
  match Fmt.ofCode fmt.toNat with
  | none => some 1
  | some f =>
    if f ≠ t.fmt then some 5
    else if f = .tw32 || f = .bolt then some 1
    else if t.scaled && t.scaleRows != isB then some 5
    else none

/-- MLOAD of one operand (R109, R113, R229). -/
def State.mload (s : State) (i : Nat) (f : XForm) (isB : Bool) : State :=
  let u := if isB then f.b else f.a
  let fmt := if isB then f.fmtB else f.fmtA
  s.runX i f (xReg u) (!isB) false (fun s g b =>
    match g.opDesc u.toNat with
    | none => s.mxTrap g 5
    | some d =>
      s.withTd g.job d.td true (fun s n => s.mxTrap g n) (fun s t =>
        let n := 32 * 2 ^ d.kc
        match operandTrap t fmt isB with
        | some kind => s.mxTrap g kind
        | none =>
          if 32768 < 32 * n * t.fmt.bits / 8 then s.mxTrap g 5 else
          let lines := if isB then t.cols else t.rows
          let kext := if isB then t.rows else t.cols
          let l := min 32 (lines - d.origin)
          let m := min n (kext - d.k0)
          let rs :=
            if l = 0 || m = 0 then []
            else if isB then
              t.lines d.k0 d.origin (d.k0 + m - 1) (d.origin + l - 1) ++
                t.scaleLines d.k0 d.origin (d.k0 + m - 1) (d.origin + l - 1)
            else
              t.lines d.origin d.k0 (d.origin + l - 1) (d.k0 + m - 1) ++
                t.scaleLines d.origin d.k0 (d.origin + l - 1) (d.k0 + m - 1)
          let c := s.ctxOf g
          s.mxRanges true g.job (s.ctx c).partition g.block (fun s n => s.mxTrap g n) t.space rs .read [] (fun s =>
            let ls := (List.range l).map (fun x => s.chunkLine c g.block t isB (d.origin + x) d.k0 m)
            let h : MxHalf :=
              { td := d.td, fmt := fmt.toNat, kc := d.kc, codes := ls.map Prod.fst, scales := ls.map Prod.snd }
            let half := if isB then xBH f else xAH f
            let put := fun (x : MxEngine) => { x with halves := x.halves.set half h }
            let s := s.updMx g.block f.engine.toNat put
            let s := if xPair f then s.updMx g.block 1 put else s
            let _ := b
            s.setGroup i (g.advance 1))))

def execMloadA (g : Nat) (f : XForm) (s : State) : Out := .next (s.mload g f false)

def execMloadB (g : Nat) (f : XForm) (s : State) : Out := .next (s.mload g f true)

/-! ### MANCHOR -/

/-- The ranges that give the exponents of lines `o` to `o + l - 1` of an operand over its whole K extent: its side
table's entries where summaries serve, else its elements and scales (R121, R124). -/
def Td.termRanges (t : Td) (isB useSummary : Bool) (o l : Nat) : List (Nat × Nat) :=
  if l = 0 then []
  else if useSummary then
    (List.range l).map (fun x =>
      if isB then (t.colEntry (o + x) 0, 2 * t.qr) else (t.rowEntry (o + x) 0, 2 * t.qc))
  else if isB then t.lines 0 o (t.rows - 1) (o + l - 1) ++ t.scaleLines 0 o (t.rows - 1) (o + l - 1)
  else t.lines o 0 (o + l - 1) (t.cols - 1) ++ t.scaleLines o 0 (o + l - 1) (t.cols - 1)

/-- The exponent term of a line, from the side table or by a sweep. -/
def State.term (s : State) (c b : Nat) (t : Td) (isB useSummary : Bool) (line : Nat) : Option Int :=
  if useSummary then
    let q := if isB then t.qr else t.qc
    (List.range q).foldl (fun m i =>
      maxExpo m (entryExpo (ofBytes (s.vread c (if isB then t.colEntry line i else t.rowEntry line i) 2)))) none
  else if isB then largest ((List.range t.rows).map (fun k => s.elem c b t k line))
  else largest ((List.range t.cols).map (fun k => s.elem c b t line k))

/-- A sweep is counted (R124, R132). -/
def State.swept (s : State) (cluster : Nat) (yes : Bool) : State :=
  if yes then s.updCluster cluster (fun x => { x with sweeps := satAdd32 x.sweeps 1 }) else s

/-- The terms of 32 lines of an operand from its origin. -/
def State.terms (s : State) (c b : Nat) (t : Td) (isB useSummary : Bool) (o : Nat) : List (Option Int) :=
  (List.range (min 32 ((if isB then t.cols else t.rows) - o))).map (fun x => s.term c b t isB useSummary (o + x))

/-- The command's run sweeps every operand (R125). -/
def State.mustSweep (s : State) (j : Nat) : Bool := (s.jobs.find j).elim false Job.forceSweep

/-- An operand's side table or elements are probed in its space, and the continuation is told which serves. -/
def State.withTerms (s : State) (g : Group) (t : Td) (isB sweep : Bool) (o : Nat) (k : State → Bool → State) :
    State :=
  let c := s.ctxOf g
  let use := !sweep && !s.mustSweep g.job && s.summariesValid c t
  let rs := t.termRanges isB use o (min 32 ((if isB then t.cols else t.rows) - o))
  s.mxRanges true g.job (s.ctx c).partition g.block (fun s n => s.mxTrap g n) (if use then 0 else t.space) rs .read []
    (fun s => k (s.swept (s.clusterOf g) (!use)) use)

/-- MANCHOR fixes the anchors of a bank and clears its Bolts (R108, R116, R124). -/
def execManchor (g : Nat) (f : XForm) (s : State) : Out :=
  .next (s.runX g f (xReg f.a && xReg f.b) false true (fun s x _ =>
    match x.opDesc f.a.toNat, x.opDesc f.b.toNat with
    | some da, some db =>
      s.withTd x.job da.td true (fun s n => s.mxTrap x n) (fun s ta =>
        s.withTd x.job db.td true (fun s n => s.mxTrap x n) (fun s tb =>
          match operandTrap ta f.fmtA false, operandTrap tb f.fmtB true with
          | some n, _ => s.mxTrap x n
          | none, some n => s.mxTrap x n
          | none, none =>
            s.withTerms x ta false (xSweep f) da.origin (fun s ua =>
              s.withTerms x tb true (xSweep f) db.origin (fun s ub =>
                let c := s.ctxOf x
                let k : MxBank :=
                  { rows := s.terms c x.block ta false ua da.origin, cols := s.terms c x.block tb true ub db.origin }
                (s.updMx x.block f.engine.toNat (fun y => { y with banks := y.banks.set (xBank f) k })).setGroup g
                  (x.advance 1)))))
    | _, _ => s.mxTrap x 5))

/-! ### MMA -/

/-- The values of the lines of a half. -/
def MxHalf.values (h : MxHalf) : List (List FVal) :=
  let f := (Fmt.ofCode h.fmt).getD .fp32
  (h.codes.zip h.scales).map (fun l =>
    (List.range l.1.length).map (fun k => scaledVal f (l.1.getD k 0) (l.2[k / 32]?)))

/-- An anchor term is stale for some element of the lines. -/
def staleLines (terms : List (Option Int)) (ls : List (List FVal)) : Bool :=
  (List.range ls.length).any (fun i => (ls.getD i []).any (staleElem ((terms[i]?).getD none)))

/-- A stale anchor: the command is killed and runs again with every anchor swept, and on that run its context is
lost (R125). -/
def State.staleAnchor (s : State) (j cluster td : Nat) : State :=
  if s.mustSweep j then s.loseJob j (.staleAnchor (BitVec.ofNat 64 td) (s.clusters.get {} cluster).stale)
  else
    let s := s.updCluster cluster (fun x => { x with stale := satAdd32 x.stale 1 })
    ((s.kill j 4 .rerun).updJob j (fun v => { v with forceSweep := true })).settle

/-- The values of a half that is loaded, or the zeros of one that is not (R113). -/
def halfValues (h : Option MxHalf) : List (List FVal) := h.elim [] MxHalf.values

/-- The Bolts of a bank after the products of two halves: every one of the 32 × 32 takes its row's and its column's
elements, lines beyond an extent counting as zeros (R98, R113). -/
def MxBank.addProducts (k : MxBank) (f : Fmt) (faithful : Bool) (la lb : List (List FVal)) : TMap Bolt :=
  (List.range 32).foldl (fun m i => (List.range 32).foldl (fun m j =>
    let v : Bolt := m.get {} (32 * i + j)
    let w := v.dot (anchorOf ((k.rows[i]?).getD none) ((k.cols[j]?).getD none)) f faithful (la.getD i []) (lb.getD j [])
    if w = v then m else m.set (32 * i + j) w) m) k.bolts

/-- MMA adds every product of two halves into a bank (R97, R98, R114, R117, R125, R135). -/
def execMma (g : Nat) (f : XForm) (s : State) : Out :=
  .next (s.runX g f true false false (fun s x b =>
    match Fmt.ofCode f.fmtA.toNat, Fmt.ofCode f.fmtB.toNat with
    | some fa, some fb =>
      let faithful := b.faithful f.engine
      if !pairAllowed fa fb faithful then s.mxTrap x 1 else
      let y : MxEngine := b.mx.get {} f.engine.toNat
      let ha := y.halves.find (xAH f)
      let hb := y.halves.find (xBH f)
      let clash := fun (h : Option MxHalf) (c : BitVec 5) => h.any (fun h => h.fmt != c.toNat)
      match y.banks.find (xBank f) with
      | none => s.mxTrap x 5
      | some k =>
        if clash ha f.fmtA || clash hb f.fmtB then s.mxTrap x 5 else
        if ha.any (fun a => hb.any (fun b => a.kc != b.kc)) then s.mxTrap x 5 else
        let la := halfValues ha
        let lb := halfValues hb
        if staleLines k.rows la then s.staleAnchor x.job (s.clusterOf x) (ha.elim 0 MxHalf.td)
        else if staleLines k.cols lb then s.staleAnchor x.job (s.clusterOf x) (hb.elim 0 MxHalf.td)
        else
          (s.updMx x.block f.engine.toNat (fun y => { y with
            banks := y.banks.set (xBank f) { k with bolts := k.addProducts fa faithful la lb } })).setGroup g (x.advance 1)
    | _, _ => s.mxTrap x 1))

/-! ### The epilogue -/

/-- An epilogue block (R111). -/
structure Epilogue where
  control : Nat
  outTd : Nat
  bias : Nat
  scale : Nat
  rowScale : Nat
  colScale : Nat
  lo : Nat
  hi : Nat
deriving DecidableEq, Repr

/-- The fields of a control word (R100). -/
def Epilogue.fmt (e : Epilogue) : Nat := e.control % 32
def Epilogue.rnd (e : Epilogue) : Rnd := (Rnd.ofField (e.control / 2 ^ 5 % 4)).getD .rne
def Epilogue.satfin (e : Epilogue) : Bool := e.control / 2 ^ 7 % 2 == 1
def Epilogue.scaleMode (e : Epilogue) : Nat := e.control / 2 ^ 8 % 4
def Epilogue.biasMode (e : Epilogue) : Nat := e.control / 2 ^ 10 % 4
def Epilogue.biasFmt (e : Epilogue) : Nat := e.control / 2 ^ 12 % 16
def Epilogue.clipLo (e : Epilogue) : Bool := e.control / 2 ^ 16 % 2 == 1
def Epilogue.clipHi (e : Epilogue) : Bool := e.control / 2 ^ 17 % 2 == 1
def Epilogue.mxOut (e : Epilogue) : Bool := e.control / 2 ^ 18 % 2 == 1
def Epilogue.summary (e : Epilogue) : Bool := e.control / 2 ^ 19 % 2 == 1

/-- An epilogue block's bytes, none where a reserved field is set (R111). -/
def Epilogue.parse (b : List U8) : Option Epilogue :=
  if field b 4 4 ≠ 0 || field b 28 4 ≠ 0 || field b 56 8 ≠ 0 then none else
  some { control := field b 0 4, outTd := field b 8 8, bias := field b 16 8, scale := field b 24 4,
         rowScale := field b 32 8, colScale := field b 40 8, lo := field b 48 4, hi := field b 52 4 }

/-- The formats that MX_OUT takes, and the e_max of each (R100, R102). -/
def mxEmax : Fmt → Option Int
  | .i4 => some 2 | .i8 => some 6 | .u8 => some 7 | .i16 => some 14 | .e2m1 => some 2 | .e3m2 => some 4
  | .e2m3 => some 2 | .e4m3 => some 8 | .e5m2 => some 15
  | .b1 | .i2 | .i32 | .bf16 | .fp16 | .fp32 | .fp64 | .tw32 | .bolt => none

/-- The kind of the trap that an epilogue block and its output descriptor cause (R100, R111, R114). -/
def Epilogue.trap (e : Epilogue) (t : Td) : Option Nat :=
  match Fmt.ofCode e.fmt with
  | none => some 1
  | some .tw32 => some 1
  | some .bolt => if e.control ≠ 0x11 then some 1 else if t.fmt ≠ .bolt || t.scaled then some 5 else none
  | some f =>
    if 2 ^ 20 ≤ e.control || e.biasMode = 3 || 4 < e.biasFmt || (e.mxOut && (mxEmax f).isNone) then some 1
    else if t.fmt ≠ f || t.scaled != e.mxOut || (e.mxOut && t.scaleRows) then some 5
    else none

/-- The format of the bias (R100). -/
def Epilogue.biasFormat (e : Epilogue) : Fmt :=
  match e.biasFmt with
  | 0 => .fp32 | 1 => .fp64 | 2 => .bf16 | 3 => .fp16 | _ => .i32

/-- The vectors that the epilogue reads for output rows i0 on and columns j0 on (R99, R100). -/
def Epilogue.reads (e : Epilogue) (i0 j0 r c : Nat) : List (Nat × Nat × Access) :=
  if e.fmt = 0x11 then [] else
  let w := e.biasFormat.bits / 8
  (match e.biasMode with
   | 1 => [(e.bias + w * j0, w * c, Access.read)]
   | 2 => [(e.bias + w * i0, w * r, .read)]
   | _ => []) ++
  (match e.scaleMode with
   | 2 => [(e.colScale + 4 * j0, 4 * c, .read)]
   | 3 => [(e.rowScale + 4 * i0, 4 * r, .read), (e.colScale + 4 * j0, 4 * c, .read)]
   | _ => [])

/-- The bias and the scale of element (i, j) of the output. -/
def State.biasOf (s : State) (c : Nat) (e : Epilogue) (i j : Nat) : FVal :=
  let w := e.biasFormat.bits / 8
  let at_ := fun k => e.biasFormat.decode (ofBytes (s.vread c (e.bias + w * k) w))
  match e.biasMode with
  | 1 => at_ j
  | 2 => at_ i
  | _ => .fin false 0 0

def State.scaleOf (s : State) (c : Nat) (e : Epilogue) (i j : Nat) : FVal :=
  let at_ := fun a => Fmt.fp32.decode (ofBytes (s.vread c a 4))
  match e.scaleMode with
  | 1 => Fmt.fp32.decode e.scale
  | 2 => at_ (e.colScale + 4 * j)
  | 3 => FVal.mul (at_ (e.rowScale + 4 * i)) (at_ (e.colScale + 4 * j))
  | _ => .fin false 1 0

/-- min(max(v, lo), hi), each bound where it is enabled; a NaN bound gives a NaN (R99, R101). -/
def Epilogue.clip (e : Epilogue) (v : FVal) : FVal :=
  let lo := Fmt.fp32.decode e.lo
  let hi := Fmt.fp32.decode e.hi
  if v.isNan || (e.clipLo && lo.isNan) || (e.clipHi && hi.isNan) then .nan else
  let v := if e.clipLo && FVal.lt v lo then lo else v
  if e.clipHi && FVal.lt hi v then hi else v

/-- The clipped value of an output element before its rounding; an exact zero is +0 (R99, R101). -/
def State.epilogueValue (s : State) (c : Nat) (e : Epilogue) (i j : Nat) (b : Bolt) (a : Option Int) : FVal :=
  let v := FVal.addWith .rne (b.value a) (s.biasOf c e i j)
  let v := e.clip (FVal.mul v (s.scaleOf c e i j))
  if v.isZero then .fin false 0 0 else v

/-- The largest finite value of a format. -/
def Fmt.largest (f : Fmt) : FVal :=
  match f.float with
  | some p => p.decode p.maxMag
  | none => match f.intRange with
    | some (_, hi) => FVal.ofInt hi
    | none => .fin false 1 0

/-- An infinite value stands for the format's largest finite value of its sign (R102). -/
def finiteOf (f : Fmt) : FVal → FVal
  | .inf neg => if neg then f.largest.neg else f.largest
  | v => v

/-- The scale code and the codes of one block of clipped values (R102). -/
def Epilogue.mxBlock (e : Epilogue) (f : Fmt) (vs : List FVal) : Nat × List Nat :=
  if vs.any FVal.isNan then (0xFF, vs.map (fun _ => 0)) else
  let vs := vs.map (finiteOf f)
  let x : Int := match largest vs with
    | none => 0
    | some m => clampInt (-127) 127 (m - (mxEmax f).getD 0)
  ((127 + x).toNat, vs.map (fun v => f.encode e.rnd e.satfin (FVal.mul v (.fin false 1 (-x)))))

/-! ### Writing a tile -/

/-- The code of an element is written, the other bits of its bytes staying. -/
def State.putElem (s : State) (c b : Nat) (t : Td) (i j code : Nat) (tagged : Bool) : State :=
  let (a, sh, n) := t.where_ i j
  let old := ofBytes (s.spaceRead c b t.space a n)
  let w := t.fmt.bits
  let new := old / 2 ^ (sh + w) * 2 ^ (sh + w) + code % 2 ^ w * 2 ^ sh + old % 2 ^ sh
  s.spaceWrite c b t.space a (toBytes n new) tagged

/-- A row of output codes goes to memory, with the maxima for the side table (R122). -/
def State.putRow (s : State) (c b : Nat) (e : Epilogue) (t : Td) (i j0 : Nat) (codes : List Nat)
    (vals : List FVal) : State :=
  let s := (List.range codes.length).foldl (fun s j => s.putElem c b t i (j0 + j) (codes.getD j 0) e.summary) s
  if !e.summary then s else
  (List.range vals.length).foldl (fun s j =>
    let x := (vals.getD j .nan).expo
    let s := s.joinSummary c (t.rowEntry i ((j0 + j) / 256)) x
    s.joinSummary c (t.colEntry (j0 + j) (i / 256)) x) s

/-- Row `i` of a tile runs through the epilogue and is written (R99 to R102, R113). -/
def State.epilogueRow (s : State) (c b : Nat) (e : Epilogue) (t : Td) (i j0 n : Nat)
    (bolt : Nat → Bolt × Option Int) : State :=
  let vs := (List.range n).map (fun j => s.epilogueValue c e i (j0 + j) (bolt j).1 (bolt j).2)
  if e.mxOut then
    -- one block of 32 absolute columns after another
    (List.range ((j0 + n + 31) / 32 - j0 / 32)).foldl (fun s q =>
      let lo := max j0 ((j0 / 32 + q) * 32) - j0
      let hi := min n ((j0 / 32 + q + 1) * 32 - j0)
      let r := e.mxBlock t.fmt ((vs.drop lo).take (hi - lo))
      let s := s.spaceWrite c b t.space (t.scaleAt i (j0 + lo)) (toBytes 1 r.1) e.summary
      s.putRow c b e t i (j0 + lo) r.2 (r.2.map (fun k => scaledVal t.fmt k (some r.1)))) s
  else
    let codes := vs.map (fun v => t.fmt.encode e.rnd e.satfin v)
    s.putRow c b e t i j0 codes (codes.map t.fmt.decode)

/-- The tile at (i0, j0) of `r` rows and `n` columns is written: raw spills, or the epilogue's outputs. -/
def State.writeTile (s : State) (c b : Nat) (e : Epilogue) (t : Td) (i0 j0 r n : Nat)
    (bolt : Nat → Nat → Bolt × Option Int) : State :=
  (List.range r).foldl (fun s i =>
    if e.fmt = 0x11 then
      (List.range n).foldl (fun s j =>
        s.spaceWrite c b t.space (t.where_ (i0 + i) (j0 + j)).1 ((bolt i j).1.spill (bolt i j).2) false) s
    else s.epilogueRow c b e t (i0 + i) j0 n (bolt i)) s

/-- The ranges that a tile's store writes: elements, output scales, and side-table entries (R229). -/
def Epilogue.writes (e : Epilogue) (t : Td) (i0 j0 r n : Nat) : List (Nat × Nat) × List (Nat × Nat × Access) :=
  if r = 0 || n = 0 then ([], []) else
  let side := if !e.summary then [] else
    (List.range r).map (fun i => (t.rowEntry (i0 + i) (j0 / 256), 2 * ((j0 + n - 1) / 256 + 1 - j0 / 256), Access.write)) ++
    (List.range n).map (fun j => (t.colEntry (j0 + j) (i0 / 256), 2 * ((i0 + r - 1) / 256 + 1 - i0 / 256), .write))
  (t.lines i0 j0 (i0 + r - 1) (j0 + n - 1) ++ t.scaleLines i0 j0 (i0 + r - 1) (j0 + n - 1), side)

/-- What a tile's store wrote is noted for its command (R28, R103). -/
def State.noteTile (s : State) (j c space : Nat) (w : List (Nat × Nat) × List (Nat × Nat × Access)) : State :=
  let s := w.1.foldl (fun s r => s.noteSpace j c space r.1 r.2) s
  w.2.foldl (fun s r => s.noteVirtual j c r.1 r.2.1) s

/-- The first epilogue of a run that summarises a tensor presets its side table and clears its frames' bits; the
whole tensor's frames join those that the commit validates (R122, R123). -/
def State.beginSummary (s : State) (j c : Nat) (e : Epilogue) (t : Td) (k : State → State) : State :=
  if e.summary then s.startSummary j c t k else k s

/-- The Bolt check of a bank, before an MSTORE or MADD goes on: a disagreement with a shadow is a failed residue check on
the group's core (R130, R131). -/
def State.boltCheck (s : State) (g : Group) (engine : Nat) (k : MxBank) (go : State → State) : State :=
  if k.bolts.all (fun e => e.2.agrees) then go s
  else s.residueFailed ((s.blocks.find g.block).elim 0 Block.core) engine true g.job

/-- The epilogue block at a virtual address and its output descriptor are read and checked. -/
def State.withEpilogue (s : State) (j va : Nat) (program madd : Bool) (trap : State → Nat → State)
    (k : State → Epilogue → Td → State) : State :=
  match s.jobs.find j with
  | none => s
  | some v =>
    s.probed j 0 [(va, 64, .read)] (fun s =>
      match Epilogue.parse (s.vread v.ctx va 64) with
      | none => trap s 5
      | some e =>
        if e.outTd % 64 ≠ 0 then trap s 5 else
        s.withTd j e.outTd program trap (fun s t =>
          if madd then (if t.fmt ≠ .bolt || t.scaled then trap s 5 else k s e t)
          else match e.trap t with
            | some n => trap s n
            | none => k s e t))

/-- The output tile that uniform registers u+2 and u+3 name (R109). -/
def Group.outTile (g : Group) (u : Nat) : Nat × Nat :=
  ((g.ureg (u + 2)).toNat % 2 ^ 26, (g.ureg (u + 3)).toNat % 2 ^ 26)

/-- MSTORE runs the epilogue on a bank and writes the tile (R99 to R103, R111 to R115). -/
def execMstore (g : Nat) (f : XForm) (s : State) : Out :=
  .next (s.runX g f (xReg f.out) false false (fun s x b =>
    match (b.mx.get {} f.engine.toNat : MxEngine).banks.find (xBank f), x.descAddr f.out.toNat with
    | none, _ => s.mxTrap x 5
    | _, none => s.mxTrap x 5
    | some k, some va =>
      s.boltCheck x f.engine.toNat k (fun s => s.withEpilogue x.job va true false (fun s n => s.mxTrap x n) (fun s e t =>
        let (i0, j0) := x.outTile f.out.toNat
        let r := min 32 (t.rows - i0)
        let n := min 32 (t.cols - j0)
        let w := e.writes t i0 j0 r n
        let c := s.ctxOf x
        s.mxRanges true x.job (s.ctx c).partition x.block (fun s n => s.mxTrap x n) t.space w.1 .write
          (e.reads i0 j0 r n ++ w.2) (fun s =>
            s.beginSummary x.job c e t (fun s =>
              let s := s.writeTile c x.block e t i0 j0 r n (fun i j =>
                (k.bolts.get {} (32 * i + j), anchorOf ((k.rows[i]?).getD none) ((k.cols[j]?).getD none)))
              (s.noteTile x.job c t.space w).setGroup g (x.advance 1)))))))

/-- MADD adds a tile of spills into a bank (R108, R111, R114, R115). -/
def execMadd (g : Nat) (f : XForm) (s : State) : Out :=
  .next (s.runX g f (xReg f.out) false false (fun s x b =>
    match (b.mx.get {} f.engine.toNat : MxEngine).banks.find (xBank f), x.descAddr f.out.toNat with
    | none, _ => s.mxTrap x 5
    | _, none => s.mxTrap x 5
    | some k, some va =>
      s.boltCheck x f.engine.toNat k (fun s => s.withEpilogue x.job va true true (fun s n => s.mxTrap x n) (fun s _ t =>
        let (i0, j0) := x.outTile f.out.toNat
        let r := min 32 (t.rows - i0)
        let n := min 32 (t.cols - j0)
        let rs := if r = 0 || n = 0 then [] else t.lines i0 j0 (i0 + r - 1) (j0 + n - 1)
        let c := s.ctxOf x
        s.mxRanges true x.job (s.ctx c).partition x.block (fun s n => s.mxTrap x n) t.space rs .read [] (fun s =>
          let bolts := (List.range r).foldl (fun m i => (List.range n).foldl (fun (m : Option (TMap Bolt)) j =>
            m.bind (fun m =>
              let a := anchorOf ((k.rows[i]?).getD none) ((k.cols[j]?).getD none)
              let sp := s.spaceRead c x.block t.space (t.where_ (i0 + i) (j0 + j)).1 32
              ((m.get {} (32 * i + j)).addSpill a sp).map (fun y => m.set (32 * i + j) y))) m) (some k.bolts)
          match bolts with
          | none => s.mxTrap x 5
          | some m =>
            (s.updMx x.block f.engine.toNat
              (fun y => { y with banks := y.banks.set (xBank f) { k with bolts := m } })).setGroup g (x.advance 1))))))

/-! ### The matrix-layer node -/

/-- A trap of a matrix-layer node (R114). -/
def State.layerTrap (s : State) (j kind : Nat) : State := s.loseJob j (.trap (BitVec.ofNat 8 kind) 0 0 0 0)

/-- An operand that names a pack slot lies at SPOOL_VA + offset + BASE, with its scales and side table (R290). -/
def State.packed (s : State) (v : Job) (t : Td) (slot : Nat) : Td :=
  if slot = 0xFF then t else
  let base := ((s.graphFor v).elim 0 (fun g => g.spoolVa.toNat)) + (v.packOffs[slot]?).getD 0
  { t with base := t.base + base, scaleAddr := t.scaleAddr + base, summary := t.summary + base }

/-- The kind of the trap that the two operands of a layer cause. -/
def layerPair (a b : Td) (faithful : Bool) : Option Nat :=
  if !pairAllowed a.fmt b.fmt faithful then some 1
  else if (a.scaled && a.scaleRows) || (b.scaled && !b.scaleRows) then some 5
  else none

/-- The whole of an operand and, where summaries serve, its side table are probed (R124, R229). -/
def State.layerOperand (s : State) (j : Nat) (v : Job) (t : Td) (sweep : Bool) (k : State → Bool → State) : State :=
  let use := !sweep && !s.mustSweep j && s.summariesValid v.ctx t
  let extra := if use then [(t.summary, t.summaryBytes, Access.read)] else []
  let cluster := (bitsOf v.cores).headD 0 / 8
  s.mxRanges false j (s.ctx v.ctx).partition 0 (fun s n => s.layerTrap j n) t.space t.whole .read extra
    (fun s => k (s.swept cluster (!use)) use)

/-- The tiles of a layer's output from tile `q` on, in row-major order: each is formed from the whole K extent and
stored (R104, R116 to R118). -/
def State.layerTiles (j : Nat) (v : Job) (e : Epilogue) (ta tb t : Td) (faithful ua ub : Bool) :
    (fuel q : Nat) → State → State
  | 0, _, s => (s.updJob j (fun v => { v with tile := 0 })).jobDone j
  | fuel + 1, q, s =>
    let w := (t.cols + 31) / 32
    let i0 := q / w * 32
    let j0 := q % w * 32
    let r := min 32 (t.rows - i0)
    let n := min 32 (t.cols - j0)
    let c := v.ctx
    let s := s.updJob j (fun v => { v with tile := q })
    let rows := (List.range r).map (fun i => if i0 + i < ta.rows then s.term c 0 ta false ua (i0 + i) else none)
    let cols := (List.range n).map (fun k => if j0 + k < tb.cols then s.term c 0 tb true ub (j0 + k) else none)
    let la := (List.range r).map (fun i =>
      if i0 + i < ta.rows then (List.range ta.cols).map (fun k => s.elem c 0 ta (i0 + i) k) else [])
    let lb := (List.range n).map (fun i =>
      if j0 + i < tb.cols then (List.range tb.rows).map (fun k => s.elem c 0 tb k (j0 + i)) else [])
    let cluster := (bitsOf v.cores).headD 0 / 8
    if staleLines rows la then s.staleAnchor j cluster (field v.payload 0 8)
    else if staleLines cols lb then s.staleAnchor j cluster (field v.payload 8 8)
    else
      let x := e.writes t i0 j0 r n
      let go := fun (s : State) =>
        (s.writeTile c 0 e t i0 j0 r n (fun i k =>
          let a := anchorOf (rows.getD i none) (cols.getD k none)
          (({} : Bolt).dot a ta.fmt faithful (la.getD i []) (lb.getD k []), a))).noteTile j c t.space x
      let s' := s.mxRanges false j (s.ctx c).partition 0 (fun s n => s.layerTrap j n) t.space x.1 .write
        (e.reads i0 j0 r n ++ x.2) (fun s => (go s).updJob j (fun v => { v with tile := q + 1 }))
      -- a tile that did not store has ended the run
      if (s'.jobs.find j).elim false (fun v => v.st == .running && v.tile == q + 1) then
        State.layerTiles j v e ta tb t faithful ua ub fuel (q + 1) s'
      else s'

/-- The cores that a command holds are woken, and its accesses go through the lowest of them (R21). -/
def State.onCores (s : State) (v : Job) : State :=
  let ks := bitsOf v.cores
  (ks.foldl (fun s k => s.ungate k) s).on ks.head?

/-- A MATRIX_LAYER node runs on its cores (R21, R118, R122, R124, R273). -/
def State.runLayer (s : State) (j : Nat) : State :=
  match s.jobs.find j with
  | none => s
  | some v =>
    let p := v.payload
    let trap := fun (s : State) n => s.layerTrap j n
    let faithful := field p 24 1 == 1
    let sweep := field p 25 1 == 1
    s.zeroFill j (field p 32 8) (field p 40 2) (fun s =>
      (s.onCores v).withTd j (field p 0 8) false trap (fun s ta =>
        s.withTd j (field p 8 8) false trap (fun s tb =>
          let ta := s.packed v ta (field p 26 1)
          let tb := s.packed v tb (field p 27 1)
          match layerPair ta tb faithful with
          | some n => trap s n
          | none =>
            if field p 16 8 % 64 ≠ 0 then trap s 5 else
            s.withEpilogue j (field p 16 8) false false trap (fun s e t =>
              s.layerOperand j v ta sweep (fun s ua =>
                s.layerOperand j v tb sweep (fun s ub =>
                  s.beginSummary j v.ctx e t
                    (State.layerTiles j v e ta tb t faithful ua ub
                      ((t.rows + 31) / 32 * ((t.cols + 31) / 32)) 0)))))))

end Sys2Proof.Machine
end

