-- ==== Sys2Proof/Machine/Scheduling.lean ====
section
/-! DEFINITION. Dispatch, commit, pre-emption, timeouts and residue failures (R28 to R32, R157, R161 to R163, R268 to
R270, R278 to R280, R285, R286, R308). -/

namespace Sys2Proof.Machine

open Sys2Proof

/-! ### Starting a command -/

/-- The outputs of a copy, a fill or a stream command, all of which are undefined until it commits (R28, R377, R492). -/
def Job.moves (v : Job) : List (Nat × Nat) :=
  let q := streamCmd v.payload
  match v.kind with
  | 4 => [(field v.payload 8 8, field v.payload 16 8)]
  | 5 => [(field v.payload 0 8, field v.payload 8 8)]
  | 6 => [(q.dst, q.slot * q.blocks + (if q.final then 16 else 0)), (q.result, 32),
      (q.stateOut, if q.save then 4160 else 0)]
  | 7 => [(q.dst, 256 * q.blocks), (q.result, 32), (q.stateOut, if q.save then 4160 else 0)]
  | _ => []

/-- The L1 and the translation buffer of each core that a strict command holds are invalidated at its start (R159, R206). -/
def State.strictStart (s : State) (v : Job) : State := if s.strict v then (bitsOf v.cores).foldl State.strictCore s else s

/-- A command takes its engines and runs. -/
def State.begin (s : State) (j : Nat) (cores : U64) (dma cmp : Option Nat) : State :=
  let s := s.updJob j (fun v => { v with
    st := .running, cores := cores, dma := dma, cmp := cmp, codingSlot := cmp.elim 0 s.slotFor, order := s.fe.dispatches, timerHeld := false, front := 0,
    started := s.writes })
  let s := { s with fe := { s.fe with dispatches := s.fe.dispatches + 1 } }
  match s.jobs.find j with
  | none => s
  | some v =>
    let s := (s.usePacks v).strictStart v
    match v.kind with
    | 1 => if v.nextBlock = 0 then s.startKernel j else s.resumeKernel j
    | 2 => s.runLayer j
    | 3 => s.startPass j
    | 8 => s.startBaste j
    | _ => v.moves.foldl (fun s r => s.noteVirtual j v.ctx r.1 r.2) (s.on none)

/-- What one command's turn in a dispatch opportunity comes to. -/
inductive Offer where
  /-- it cannot be placed now -/
  | waits
  | taken (s : State)

/-- What a command does at its start cannot be done now: its walks would wait for an invalidation, or a matrix layer, which
runs whole, finds its partition without DRAM credit (R23, R226). -/
def State.startWaits (s : State) (v : Job) : Bool :=
  (s.mmu.inval.isSome && (v.compute || v.kind == 8)) ||
    (v.kind == 2 && decide (s.credit (s.ctx v.ctx).partition 0 ≤ 0))

/-- A ready command is placed where its partition's units allow it (R39, R157, R269, R371). -/
def State.place (s : State) (j : Nat) (v : Job) (stamp : U32) : Offer :=
  if s.startWaits v then .waits else
  match v.kind with
  | 6 | 7 =>
    let p := (s.ctx v.ctx).partition
    if s.share p 0 = 0 && s.share p 1 = 0 then
      match v.parent with
      | some l => .taken (s.endLaunch l 0x21 stamp)
      | none =>
        let t := (s.remove j).updQueue v.queue (fun x => { x with owed := x.owed - 1 })
        .taken (t.endSlot v.queue v.slot
          { status := 0x21, opcode := v.opcode, handle := v.handle, strict := s.strict v, memory := true,
            kills := v.kills, stamp := stamp })
    else
      match s.cmpFor v with
      | none => .waits
      | some e => .taken (s.begin j 0 none (some e))
  | 4 | 5 | 8 =>
    match s.dmaFor v with
    | none => .waits
    | some d => .taken (s.begin j 0 (some d) none)
  | _ =>
    match s.coresFor v with
    | none => .waits
    | some ks => .taken (s.begin j (s.coresHeld v ks) none none)

/-- The launch of a node lets it run: its Spool range is ready and it is not suspended (R278, R282, R287). -/
def State.launchLets (s : State) (v : Job) : Bool :=
  match v.parent with
  | none => true
  | some l =>
    match (s.jobs.find l).bind Job.launch with
    | none => false
    | some w => w.spoolReady && !w.suspended

/-- A command in flight may be offered for dispatch. -/
def State.offered (s : State) (v : Job) : Bool :=
  v.launch.isNone && (v.st == .ready || v.st == .rerun) && s.launchLets v && !s.quiet (s.ctx v.ctx).partition &&
    !(v.st == .ready && v.parent.isSome && v.record && (s.queue v.queue).room == 0)

/-- A command in flight is offered; a RECORD node's completion entry is owed from its first dispatch (R251). -/
def State.offer (s : State) (j : Nat) (v : Job) (stamp : U32) : Offer :=
  match s.place j v stamp with
  | .waits => .waits
  | .taken t =>
    if v.st = .ready && v.parent.isSome && v.record && (t.jobs.find j).isSome then
      .taken (t.updQueue v.queue (fun x => { x with owed := x.owed + 1 }))
    else .taken t

/-- The killed commands that run again, in their order of dispatch. -/
def State.reruns (s : State) (f : Job → Bool) : List (Nat × Job) :=
  (s.jobs.filter (fun e => f e.2 && e.2.st == .rerun && s.offered e.2)).mergeSort (fun a b => decide (a.2.order ≤ b.2.order))

/-- The commands of a queue that are offered: its first killed one, before which nothing later of the queue runs, and
otherwise its nodes by launch and ascending node index (R270, R278). -/
def State.offersOf (s : State) (q : Nat) : List (Nat × Job) :=
  match s.reruns (fun v => v.queue == q) with
  | e :: _ => [e]
  | [] =>
    (s.jobs.filter (fun e => e.2.queue == q && e.2.st == .ready && s.offered e.2)).mergeSort (fun a b =>
      decide (a.2.parent.getD a.1 < b.2.parent.getD b.1) ||
        (a.2.parent.getD a.1 == b.2.parent.getD b.1 && decide (a.2.node ≤ b.2.node)))

/-- The command that an engine slot becomes. -/
def slotJob (s : State) (q : Nat) (b : List U8) (kind : Nat) : Job :=
  { queue := q, slot := (s.queue q).sqRead, ctx := (s.queue q).ctx, opcode := BitVec.ofNat 8 (slotOp b), kind := kind,
    handle := slotHandle b, nonRestart := slotNonRestart b, payload := slotPayload b,
    timeout := firstTimeout [slotTimeout b], order := s.fe.dispatches }

/-- The engine slot at a queue's head is offered: it is taken from the ring only where it can be placed. -/
def State.offerHead (s : State) (q : Nat) (stamp : U32) : Offer :=
  match s.head q with
  | .none => .waits
  | .ended t => .taken t
  | .slot b =>
    if slotOp b = 0x01 then
      let t := s.launch q stamp
      if (t.queue q).sqRead = (s.queue q).sqRead && (t.ctx (s.queue q).ctx).state ≠ .lost then .waits else .taken t
    else
    match opKind (slotOp b) with
    | none => .waits
    | some kind =>
      let j := s.fe.nextJob
      let c := (s.queue q).ctx
      let v := slotJob s q b kind
      match s.place j v stamp with
      | .waits => .waits
      | .taken _ =>
        let t := s.take q
        if (t.ctx c).state = .lost then .taken t
        else
          let t := (t.updQueue q (fun x => { x with owed := x.owed + 1 })).addJob v
          match t.place j v stamp with
          | .waits => .taken t
          | .taken u => .taken u

/-- What an offer comes to where it is taken. -/
def Offer.toOption : Offer → Option State
  | .taken t => some t
  | .waits => none

/-- The first of a list of commands that is taken. -/
def State.offerFirst (s : State) (l : List (Nat × Job)) (stamp : U32) : Option (Nat × State) :=
  l.findSome? (fun e => (s.offer e.1 e.2 stamp).toOption.map (fun t => (e.2.queue, t)))

/-- The first offer of a queue that is taken. -/
def State.offerQueue (s : State) (q : Nat) (stamp : U32) : Option (Nat × State) :=
  (s.offerFirst (s.offersOf q) stamp).orElse (fun _ => (s.offerHead q stamp).toOption.map (fun t => (q, t)))

/-- The queues of a class, round-robin after the one last served (R269). -/
def State.roundRobin (s : State) (cls : Nat) : List Nat :=
  let qs := (s.queues.filter (fun e => e.2.cls == cls && e.2.state != .free)).map Prod.fst
  match s.fe.lastServed.find cls with
  | none => qs
  | some l => qs.filter (fun q => decide (l < q)) ++ qs.filter (fun q => decide (q ≤ l))

/-- Commands that have their engines go on as room allows: blocks of kernels, and passes. -/
def State.goOn (s : State) : State :=
  (s.jobs.map Prod.fst).foldl (fun s j =>
    match s.jobs.find j with
    | none => s
    | some v => if v.st = .running then s.jobProgress j else s) s

/-- A control slot is ready at the head of a control queue: it is considered before every other command (R269). -/
def State.controlReady (s : State) : Bool :=
  s.queues.any (fun e => e.2.cls == 4 && (match s.head e.1 with
    | .slot b => slotOp b == 0x20 || slotOp b == 0x21 || slotOp b == 0x22
    | _ => false))

/-- The killed commands that re-run before every other: the one that failed a residue check, and then those of an apply, a
context switch or a residue failure in their original order (R46, R288, R308). -/
def State.frontRuns (s : State) : List (Nat × Job) := s.reruns (fun v => v.front == 2) ++ s.reruns (fun v => v.front == 1)

/-- The queues in the order of one dispatch opportunity: by class, and round-robin within a class. -/
def State.queueOrder (s : State) : List Nat := [0, 1, 2, 3].flatMap s.roundRobin

/-- A queue has been served in its class. -/
def State.serve (s : State) (q : Nat) : State :=
  { s with fe := { s.fe with lastServed := s.fe.lastServed.set (s.queue q).cls q } }

/-- The command that one dispatch opportunity starts, if any, by its queue. -/
def State.opportunity (s : State) (stamp : U32) : Option (Nat × State) :=
  if s.controlReady then none else
  (s.offerFirst s.frontRuns stamp).orElse (fun _ => s.queueOrder.findSome? (fun q => s.offerQueue q stamp))

/-- DISPATCH: one dispatch opportunity of the leader's Shuttle (R269). What waits for room on cores that a command holds
goes on, and then at most one command starts, by class and round-robin. -/
def execDispatch (s : State) : Out :=
  .next (if !s.dispatching then s else
    let s := s.goOn
    let (n, s) := s.free
    match s.opportunity (BitVec.ofNat 32 n) with
    | some (q, t) => t.serve q
    | none => s)

/-- A dispatch opportunity comes to another command before the slot at the head of queue `q` (R269). -/
def State.outranked (s : State) (q : Nat) (stamp : U32) : Bool :=
  s.controlReady || (s.offerFirst s.frontRuns stamp).isSome ||
    (s.queueOrder.takeWhile (· != q)).any (fun r => (s.offerQueue r stamp).isSome) ||
    (s.offerFirst (s.offersOf q) stamp).isSome

/-- LAUNCH: a dispatch opportunity comes to the LAUNCH slot at a queue's head (R269, R278). -/
def execLaunch (q : Nat) (stamp : U32) (s : State) : Out :=
  .next (if s.dispatching && s.outranked q stamp then s else
    let t := s.launch q stamp
    if (t.queue q).sqRead = (s.queue q).sqRead then t else t.serve q)

/-! ### Commit -/

/-- WORK of the record is in memory cycles (R280). -/
def memoryWork (kind : Nat) : Bool := decide (4 ≤ kind) && decide (kind ≤ 7)

/-- The memory cycles of a strict COMPRESS or DECOMPRESS (R372). -/
def streamWork (p : List U8) : Nat :=
  let q := streamCmd p
  64 + 8 * q.blocks + 130 * q.cont.toNat + 130 * q.save.toNat + q.final.toNat

/-- The cycles that a committing command counts: those of a strict stream are fixed. -/
def State.workOf (s : State) (v : Job) (w : WorkCounts) : WorkCounts :=
  if (v.kind == 6 || v.kind == 7) && s.strict v then { w with mem := BitVec.ofNat 48 (streamWork v.payload) } else w

/-- The counters of a committing command join its context's DET window (R174). -/
def State.countWork (s : State) (v : Job) (w : WorkCounts) : State :=
  s.updCtx v.ctx (fun x => { x with
    work := satAdd64 x.work w.work.toNat
    mem := satAdd64 x.mem w.mem.toNat
    link := satAdd64 x.link w.link.toNat
    refresh := satAdd64 x.refresh (w.refresh.toNat + v.refresh.toNat)
    retry := satAdd64 x.retry (w.retry.toNat + v.retry.toNat)
    loose := if x.strict then x.loose else satAdd32 x.loose v.loose.toNat
    hostTimed := if x.strict && v.hostTimed then satAdd32 x.hostTimed 1 else x.hostTimed })

/-- The completion record of a committed command or node (R163, R279, R280). -/
def commitRecord (s : State) (v : Job) (w : WorkCounts) : CompRec :=
  let strict := s.strict v
  { status := v.status, opcode := v.opcode, command := if v.parent.isSome then BitVec.ofNat 16 v.node else 0,
    handle := v.handle, work := if memoryWork v.kind then w.mem else w.work, strict := strict,
    hostTimed := strict && v.hostTimed, memory := memoryWork v.kind, kills := v.kills,
    refresh := satAdd32 v.refresh w.refresh.toNat, retry := satAdd32 v.retry w.retry.toNat,
    loose := if strict then 0 else v.loose, stamp := w.stamp }

/-- A committed node's counters join its launch. -/
def Launch.add (l : Launch) (v : Job) (r : CompRec) (strict : Bool) : Launch :=
  { l with
    committed := v.node :: l.committed
    work := satAdd48 l.work r.work.toNat
    refresh := satAdd32 l.refresh r.refresh.toNat
    retry := satAdd32 l.retry r.retry.toNat
    loose := satAdd32 l.loose r.loose.toNat
    kills := l.kills + r.kills
    hostTimed := l.hostTimed || (strict && v.hostTimed) }

/-- The record of a whole launch (R280). -/
def launchRecord (s : State) (u : Job) (w : Launch) (stamp : U32) : CompRec :=
  { status := u.status, opcode := 0x01, handle := u.handle, work := w.work, strict := s.strict u,
    hostTimed := w.hostTimed, launch := true, kills := w.kills, refresh := w.refresh, retry := w.retry, loose := w.loose,
    stamp := stamp }

/-- A launch commits when its last node has (R278). -/
def State.launchCommit (s : State) (l : Nat) (stamp : U32) : State :=
  match s.jobs.find l with
  | none => s
  | some u =>
    match u.launch with
    | none => s
    | some w =>
      let n := ((s.ctx u.ctx).graphs.find w.graph.toNat).elim 0 Graph.nodes
      if w.committed.length < n then s.readyNodes l
      else
        let s := (s.remove l).updQueue u.queue (fun x => { x with owed := x.owed - 1 })
        s.endSlot u.queue u.slot (launchRecord s u w stamp)

/-- A node commits: its counters and first status other than OK join the launch, and its record is written where it is
a RECORD node. -/
def State.nodeCommit (s : State) (v : Job) (l : Nat) (r : CompRec) (stamp : U32) : State :=
  let s := s.updJob l (fun u => { u with
    status := if u.status = 0 then v.status else u.status
    launch := u.launch.map (fun w => w.add v r (s.strict v)) })
  let s := if v.record then (s.updQueue v.queue (fun x => { x with owed := x.owed - 1 })).record v.queue r else s
  s.launchCommit l stamp

/-- A commit releases and acquires at package scope on the clusters of the command's cores: dirty sibling-homed lines are
written back and leave (R30, R205). -/
def State.commitClean (s : State) (v : Job) : State :=
  ((List.range 8).filter (fun cl => (bitsOf v.cores).any (fun k => k / 8 == cl))).foldl (fun s cl =>
    (s.l2Flush cl).l2Clear (fun d l => d == cl && target (l.tag * 128) == 1)) s

/-- COMMAND_COMMIT: the Shuttle accepts the last engine's done report (R28, R30, R31): outputs are visible, counters and
the completion record follow, and what waited for the command goes on. -/
def execCommandCommit (job : Nat) (w : WorkCounts) (s : State) : Out :=
  .next (match s.jobs.find job with
    | none => s
    | some v =>
      if v.st ≠ .done || v.launch.isSome || s.die.inReset then s else
      let w := s.workOf v w
      let r := commitRecord s v w
      let s := ((s.flushDeltas (fun d => d.ctx == v.ctx)).commitClean v).validate v.sumFrames
      let s := (s.countWork v w).remove job
      let s := match v.parent with
        | some l => s.nodeCommit v l r w.stamp
        | none => (s.updQueue v.queue (fun x => { x with owed := x.owed - 1 })).endSlot v.queue v.slot r
      s.settle)

/-! ### Pre-emption and timeouts -/

/-- The classes that a class pre-empts (R270). -/
def preempts (cls victim : Nat) : Bool := decide (cls < victim) && decide (cls ≤ 2) && decide (victim ≤ 3)

/-- The commands that may be killed for a waiting one: restartable, of a pre-empted class, on engines of the same
partition; lowest class first, and the latest dispatched first within a class (R270). -/
def State.victims (s : State) (v : Job) : List (Nat × Job) :=
  ((s.busyIn (s.ctx v.ctx).partition).filter (fun e =>
      !e.2.nonRestart && !e.2.committed && preempts (s.classOf v) (s.classOf e.2))).mergeSort
    (fun a b => decide (s.classOf b.2 < s.classOf a.2) ||
      (s.classOf a.2 == s.classOf b.2 && decide (b.2.order ≤ a.2.order)))

/-- Victims are killed until the command fits. -/
def preemptFor (v : Job) : List (Nat × Job) → State → State
  | [], s => s
  | e :: es, s => if (s.coresFor v).isSome then s else preemptFor v es (s.kill e.1 1 .rerun)

/-- PREEMPTION: a ready command still waits for cores 30 µs before its grace ends (R270). -/
def execPreemption (job : Nat) (s : State) : Out :=
  .next (match s.jobs.find job with
    | none => s
    | some v =>
      if !s.dispatching || !v.compute || !s.offered v || 2 < s.classOf v then s
      else (preemptFor v (s.victims v) s).settle)

/-- The slots that have a timer of their own while they wait at the head of a queue (R285). -/
def timedSlot (op : Nat) : Bool := [0x11, 0x20, 0x21, 0x22, 0x30, 0x31].contains op

/-- The launch of a command is suspended. -/
def State.launchSuspended (s : State) (v : Job) : Bool :=
  ((v.parent.bind s.jobs.find).bind Job.launch).any (·.suspended)

/-- A command's timer runs: it has been dispatched and has not committed, it is not suspended, and it does not wait
after a kill that stops its timer (R285). -/
def State.timed (s : State) (v : Job) : Bool :=
  v.launch.isNone && !v.timerHeld &&
    (v.onEngines || ((v.st == .faultWait || v.st == .packWait || v.st == .rerun) && !s.launchSuspended v))

/-- COMMAND_TIMEOUT: a timer expires, and the context is lost with TIMEOUT (R285, R286). Timers do not run
in Nap and Hold (R415). -/
def execCommandTimeout (t : TimeoutOf) (s : State) : Out :=
  .next (if s.die.inReset || !(s.pwr.state == .run || s.pwr.state == .doze) then s else
    match t with
    | .job j =>
      match s.jobs.find j with
      | none => s
      | some v => if s.timed v then s.loseJob j (.timeout v.timeout) else s
    | .head q =>
      let x := s.queue q
      let b := s.peek (x.slotAddr x.sqRead) 64
      if !(x.state = .active) || x.sqRead = x.sqWrite || x.oldest ≠ x.sqRead || !timedSlot (slotOp b) ||
          slotTimeout b = 0 then s
      else s.lose x.ctx (lossRecord s x.ctx 0 (.timeout (BitVec.ofNat 32 (slotTimeout b)))))

/-! ### Residue failures -/

/-- RESIDUE_FAILURE: the failing command and every other with blocks on the core are killed, the core is quarantined, and
the killed ones run again first; one that may not be restarted loses its context (R32, R131, R308). -/
def execResidueFailure (core engine : Nat) (bolt : Bool) (job : Nat) (s : State) : Out :=
  .next (if s.die.inReset then s else s.residueFailed core engine bolt job)

end Sys2Proof.Machine
end

