-- ==== Sys2Proof/Machine/ControlSlots.lean ====
section
/-! DEFINITION. Doorbells, event slots, control slots and the empty slot (R250, R251, R253, R254, R265 to R268, R282 to
R284). -/

namespace Sys2Proof.Machine

open Sys2Proof

/-! ### Doorbells -/

/-- SQ_WRITE (R250). -/
def execSqWrite (q : Nat) (v : U32) (s : State) : Out :=
  .next (let s := s.hostWake true
    if s.feUp && decide (q < 1024) then s.ring q v else s)

/-- CQ_READ (R250, R251). -/
def execCqRead (q : Nat) (v : U32) (s : State) : Out :=
  .next (let s := s.hostWake true
    if s.feUp && decide (q < 1024) then s.consume q v else s)

/-! ### Events -/

/-- A slot's event object: its address lies in the context's windows and can be read (R252, R310). -/
def State.withEvent (s : State) (c a : Nat) (wr : Bool) (k : State → State) : State :=
  match s.physFail c a 16 false, if wr then s.physFail c a 16 true else none with
  | some e, _ => s.losePhysical c e .read
  | none, some e => s.losePhysical c e .write
  | none, none => k s

/-- The event's address in a slot; the object is 16-byte aligned (R253). -/
def slotEvent (b : List U8) : Nat := field (slotPayload b) 0 8 / 16 * 16
def slotValue (b : List U8) : Nat := field (slotPayload b) 8 8

/-- EVENT_RECORD: once every earlier command has ended, the event is signalled with the slot's ERROR, or with the sticky
status, which is then cleared (R254, R268). -/
def execEventRecord (q : Nat) (stamp : U32) (s : State) : Out :=
  .next (s.withHead q (fun b => slotOp b == 0x10) (fun b =>
    let c := (s.queue q).ctx
    let a := slotEvent b
    s.withEvent c a true (fun s =>
      let own := field (slotPayload b) 16 1
      let err := if own ≠ 0 then own else (s.queue q).sticky.toNat
      let r := (s.event a).signal (slotValue b) err c
      let s := if r.2 then
          State.updCtx { s with fe := { s.fe with ignoredCount := satAdd32 s.fe.ignoredCount 1 } } c
            (fun x => { x with ignored := satAdd32 x.ignored 1 })
        else s
      let s := s.putEvent a (s.ctx c).partition r.1 (!r.2)
      (s.updQueue q (fun x => { x with sticky := 0 })).endHead q b 0x00 stamp)))

/-- An EVENT_WAIT at a queue's head completes where its event lets it: an error halts the queue (R251, R254). -/
def State.tryWait (s : State) (q : Nat) (b : List U8) (stamp : U32) : State :=
  let c := (s.queue q).ctx
  let a := slotEvent b
  s.withEvent c a false (fun s =>
    let e := s.event a
    if !e.reached (slotValue b) then s.updQueue q (fun x => { x with waiting := true })
    else
      let st : U8 := BitVec.ofNat 8 e.error
      let s := (s.updQueue q (fun x => { x with waiting := false })).endHead q b st stamp
      if st ≠ 0 && (s.queue q).state = .active then s.updQueue q (fun x => { x with state := .halted }) else s)

/-- EVENT_WAIT: the slot at the head completes at once, or waits there (R254, R268). -/
def execEventWait (q : Nat) (stamp : U32) (s : State) : Out :=
  .next (s.withHead q (fun b => slotOp b == 0x11) (fun b => s.tryWait q b stamp))

/-- QUEUE_WAIT_RESUME: a waiting queue resumes after the update that satisfies it, which also ends Doze (R255, R416). -/
def execQueueWaitResume (q : Nat) (stamp : U32) (s : State) : Out :=
  .next (
    let x := s.queue q
    if !x.waiting || x.state ≠ .active || s.fe.halted || s.fe.awaitHost || s.die.inReset || s.pwr.entry.isSome then s else
    let b := s.peek (x.slotAddr x.sqRead) 64
    match s.pwr.state with
    | .run => s.tryWait q b stamp
    | .doze => if (s.event (slotEvent b)).reached (slotValue b) then (s.wakeExit 6).tryWait q b stamp else s
    | _ => s)

/-! ### Control slots -/

/-- What a control slot names. -/
inductive Target where
  | nothing
  | upload
  /-- a command in flight -/
  | job (j : Nat)
  /-- a slot that waits in its ring -/
  | slot (q : Nat) (i : U32)
deriving DecidableEq, Repr

/-- LAUNCH, COMPRESS and DECOMPRESS. -/
def longOp (op : Nat) : Bool := op == 0x01 || op == 0x04 || op == 0x05

/-- The slots of a ring that have not been taken, from an index on. -/
def ringSlots (i : U32) : (n : Nat) → List U32
  | 0 => []
  | n + 1 => i :: ringSlots (i + 1) n

/-- The long operation of context `c` that a target queue and handle name; only contexts of partition 0 reach an image
upload (R266, R282, R284). -/
def State.controlTarget (s : State) (c tq : Nat) (h : U32) : Target :=
  if tq = 0xFFFF then
    if (s.ctx c).partition = 0 && (s.svc.upload = .receiving || s.svc.upload = .suspended) && s.svc.handle = h then .upload else .nothing
  else
    let x := s.queue tq
    if x.ctx ≠ c || x.state = .free || x.state = .destroying then .nothing else
    match s.jobs.find? (fun e => e.2.queue == tq && e.2.ctx == c && e.2.parent.isNone && e.2.handle == h &&
        longOp e.2.opcode.toNat && e.2.st != .done) with
    | some e => .job e.1
    | none =>
      let waiting := fun (i : U32) =>
        let a := x.slotAddr i
        s.windowOk (s.ctx c).partition a 64 false && !s.failing a 64 && !x.cancels.contains i &&
          longOp (slotOp (s.peek a 64)) && slotHandle (s.peek a 64) == h
      match (ringSlots x.sqRead ((x.sqWrite - x.sqRead).toNat % 257)).find? waiting with
      | some i => .slot tq i
      | none => .nothing

/-- The control slot is taken and ends with OK, and with NO_TARGET where it changed nothing (R280, R284). -/
def State.endControl (s : State) (q : Nat) (b : List U8) (hit : Bool) (stamp : U32) : State :=
  let i := (s.queue q).sqRead
  let c := (s.queue q).ctx
  let r := { slotRecord s q b 0x00 stamp with noTarget := !hit }
  let s := s.take q
  if (s.ctx c).state = .lost then s else s.endSlot q i r

/-- What a control slot does: nothing to its target, a change of it, or it waits at its queue's head. -/
inductive ControlEnd where
  | none
  | some (s : State)
  | waits

/-- The meaning of a control opcode on its target. -/
def State.control (s : State) (q : Nat) (stamp : U32) (op : Nat) (k : State → Target → ControlEnd) : State :=
  s.withHead q (fun b => slotOp b == op) (fun b =>
    let p := slotPayload b
    match k s (s.controlTarget (s.queue q).ctx (field p 0 2) (BitVec.ofNat 32 (field p 4 4))) with
    | .some t => (t.endControl q b true stamp).settle
    | .none => s.endControl q b false stamp
    | .waits => s)

/-- SUSPEND reaches the nodes of a launch: a PARKABLE kernel parks at b15, the others stop at their commit, and one that
waits for RESUME leaves the waiting set (R282 to R284). -/
def State.suspendNodes (s : State) (l : Nat) : State :=
  (s.jobs.filter (fun e => e.2.parent == some l)).foldl (fun (s : State) e =>
    match e.2.st with
    | .running => (s.updJob e.1 (fun v => { v with suspending := true })).parkDone e.1
    | .faultWait => s.updJob e.1 (fun v => { v with st := v.again })
    | _ => s) s

/-- SUSPEND of a stream: at a block boundary its state is saved and its slot freed; with STATE_OUT 0, or before its first
block, it is killed (R282, R383). -/
def State.suspendStream (s : State) (j : Nat) (v : Job) : State :=
  match v.st with
  | .running =>
    let q := streamCmd v.payload
    match v.stream with
    | some x =>
      if q.stateOut = 0 then s.kill j 7 .suspended
      else
        let s := (s.on none).saveStream j v.ctx q x (if v.kind = 6 then 0 else 1)
        s.updJob j (fun v => { v with st := .suspended, cmp := none, stream := some { x with saved := true } })
    | none => s.kill j 7 .suspended
  | _ => s.updJob j (fun v => { v with st := .suspended })

/-- SUSPEND (R282, R284). -/
def execSuspend (q : Nat) (stamp : U32) (s : State) : Out :=
  .next (s.control q stamp 0x20 (fun s t =>
    match t with
    | .nothing => .none
    | .upload =>
      if s.svc.upload = .suspended then .none
      else
        let s := s.programAll
        .some { s with svc := { s.svc with upload := .suspended } }
    | .slot tq i =>
      if (s.queue tq).holds.contains i then .none
      else .some (s.updQueue tq (fun x => { x with holds := i :: x.holds }))
    | .job j =>
      match s.jobs.find j with
      | none => .none
      | some v =>
        match v.launch with
        | some w =>
          if w.suspended then .none
          else .some ((s.updJob j (fun v => { v with launch := some { w with suspended := true } })).suspendNodes j)
        | none => if v.st = .suspended then .none else .some (s.suspendStream j v)))

/-- RESUME of a launch: nodes that have not stopped go on, and parked ones are dispatched again (R282, R283). -/
def State.resumeNodes (s : State) (l : Nat) : State :=
  { s with jobs := s.jobs.mapVals (fun _ v =>
      if v.parent == some l then
        let v := { v with suspending := false }
        if v.st = .suspended then { v with st := .rerun } else v
      else v) }

/-- RESUME (R282, R284). -/
def execResume (q : Nat) (stamp : U32) (s : State) : Out :=
  .next (s.control q stamp 0x21 (fun s t =>
    match t with
    | .nothing => .none
    | .upload =>
      if s.svc.upload = .suspended then .some { s with svc := { s.svc with upload := .receiving } } else .none
    | .slot tq i =>
      if (s.queue tq).holds.contains i then .some (s.updQueue tq (fun x => { x with holds := x.holds.filter (· != i) }))
      else .none
    | .job j =>
      match s.jobs.find j with
      | none => .none
      | some v =>
        match v.launch with
        | some w =>
          if w.suspended then
            .some ((s.updJob j (fun v => { v with launch := some { w with suspended := false } })).resumeNodes j)
          else .none
        | none => if v.st = .suspended then .some (s.updJob j (fun v => { v with st := .rerun })) else .none))

/-- A SUSPEND of a launch is in progress, which completes before a CANCEL; or a render pass of it has committed, which
completes normally (R31, R284). -/
def State.stopping (s : State) (l : Nat) : Bool :=
  s.jobs.any (fun e => e.2.parent == some l && e.2.st != .suspended && (e.2.suspending || e.2.committed))

/-- CANCEL (R282, R284): the operation ends ABORTED and is not run again. -/
def execCancel (q : Nat) (stamp : U32) (s : State) : Out :=
  .next (s.control q stamp 0x22 (fun s t =>
    match t with
    | .nothing => .none
    | .upload => .some { s with svc := { s.svc with upload := .aborted, buffer := [] } }
    | .slot tq i =>
      .some (s.updQueue tq (fun x => { x with cancels := i :: x.cancels, holds := x.holds.filter (· != i) }))
    | .job j =>
      match s.jobs.find j with
      | none => .none
      | some v =>
        if v.launch.isSome then
          if s.stopping j then .waits else .some (s.endLaunch j 0x01 stamp)
        else
          let t := (s.abandon j).updQueue v.queue (fun x => { x with owed := x.owed - 1 })
          .some (t.endSlot v.queue v.slot
            { status := 0x01, opcode := v.opcode, handle := v.handle, strict := s.strict v, kills := v.kills,
              memory := memoryWork v.kind, stamp := stamp })))

/-- SUSPEND_KILL_TIMEOUT: a restartable node has not stopped 50 µs after SUSPEND: it is killed (R282, R283). -/
def execSuspendKillTimeout (job : Nat) (s : State) : Out :=
  .next (match s.jobs.find job with
    | none => s
    | some v =>
      if v.suspending && v.st = .running && !v.nonRestart then (s.kill job 7 .rerun).settle else s)

/-! ### The other slots -/

/-- NOP. -/
def execNop (q : Nat) (stamp : U32) (s : State) : Out :=
  .next (s.withHead q (fun b => slotOp b == 0x3F) (fun b => s.endHead q b 0x00 stamp))

/-- UNDEFINED_SLOT_OPCODE: a fetched slot that is no defined slot at the context's level loses its context (R267). -/
def execUndefinedSlotOpcode (q : Nat) (s : State) : Out :=
  .next (match s.head q with
    | .ended t => t
    | _ => s)

end Sys2Proof.Machine
end

