-- ==== Sys2Proof/Machine/Compose.lean ====
section
/-! DEFINITION. Composition: source pixels in linear light, scaling, blending, ink, the spans that are fetched, and the output
codes (R344 to R349, R358, R359, R361, R362, R366). -/

namespace Sys2Proof.Machine

open Sys2Proof

/-! ### Pixels (R347) -/

/-- A pixel of the compositor: FP16 values in linear light. -/
structure Pixel where
  r : FVal
  g : FVal
  b : FVal
  a : FVal
deriving DecidableEq, Repr

/-- One rounding to FP16, ties to even. -/
def half16 (v : FVal) : FVal := Fmt.fp16.round .rne v

def halfRat (q : Rat) : FVal := half16 (ratVal q)

/-- The product and the sum as steps of the compositor, each rounded to FP16. -/
def mul16 (x y : FVal) : FVal := half16 (x.mul y)
def add16 (x y : FVal) : FVal := half16 (x.addWith .rne y)

def Pixel.map (p : Pixel) (f : FVal → FVal) : Pixel := { r := f p.r, g := f p.g, b := f p.b, a := f p.a }

def Pixel.map₂ (p q : Pixel) (f : FVal → FVal → FVal) : Pixel :=
  { r := f p.r q.r, g := f p.g q.g, b := f p.b q.b, a := f p.a q.a }

def one16 : FVal := .fin false 1 0

/-- A component's value in linear light, by the transfer of R345: 0 sRGB, 1 linear, 2 PQ. The manual gives no curve, so
sRGB and PQ are functions that Config leaves open. -/
def linearRat (t : Nat) (q : Rat) : FVal :=
  if t = 1 then halfRat q else Fmt.fp16.decode (Config.toLinear t q.num q.den % 2 ^ 16)

/-- The same of an FP16 value; an infinity or a NaN is named by its code. -/
def linear16 (t : Nat) (v : FVal) : FVal :=
  match t, v.rat with
  | 1, _ => half16 v
  | _, some q => linearRat t q
  | _, none => Fmt.fp16.decode (Config.toLinear t (Fmt.fp16.encode .rne false v : Nat) 0 % 2 ^ 16)

/-! ### Source pixels (R345 to R347) -/

/-- The transfer of a layer. -/
def layerTransfer (b : List U8) : Nat := field b 22 2 / 4 % 4

def layerFlag (b : List U8) (i : Nat) : Bool := field b 22 2 / 2 ^ i % 2 == 1

/-- A pixel of an RGB format: alpha takes no transfer, and an SRGB component is decoded by its format. -/
def rgbPixel (f t v : Nat) : Pixel :=
  let part (k : Nat) : FVal :=
    match (compsOf f).find? (fun c => c.chan == k) with
    | none => one16
    | some c =>
      match c.kind, c.value (c.code v) with
      | .half, _ => if k = 3 then Fmt.fp16.decode (c.code v) else linear16 t (Fmt.fp16.decode (c.code v))
      | .srgb, some q => halfRat q
      | _, some q => if k = 3 then halfRat q else linearRat t q
      | _, none => .nan
  { r := part 0, g := part 1, b := part 2, a := part 3 }

/-- Bytes of a luma sample, and its bits: P010 holds its 10 bits at the top of 16. -/
def lumaBytes (f : Nat) : Nat := if f = 0x51 then 2 else 1

def State.yuvCode (s : State) (f a : Nat) : Nat := if f = 0x51 then s.mem.num a 2 / 64 else s.mem.num a 1

/-- A chroma code at a source position: the mean of the nine samples around it under weights that Config leaves open. -/
def State.chromaCode (s : State) (b : List U8) (x y k : Nat) : Rat :=
  let f := field b 20 1
  let n := lumaBytes f
  let inside (v d lo len : Nat) : Nat := max (lo / 2) (min (v / 2 + d - 1) ((lo + len) / 2 - 1))
  let at_ (i : Nat) : Rat :=
    let cx := inside x (i % 3) (field b 24 2) (field b 28 2)
    let cy := inside y (i / 3) (field b 26 2) (field b 30 2)
    (s.yuvCode f (field b 8 8 + cy * field b 16 4 + (2 * cx + k) * n) : Nat)
  let ws := (List.range 9).map (fun i => (Config.chromaWeight (x % 2) (y % 2) i, at_ i))
  let total := (ws.map Prod.fst).sum
  if total = 0 then at_ 4 else ws.foldl (fun (m : Rat) w => m + w.1 * w.2) 0 / total

/-- A YUV pixel: the range, the matrix with its results rounded, and the transfer. -/
def State.yuvPixel (s : State) (b : List U8) (x y : Nat) : Pixel :=
  let f := field b 20 1
  let d := if f = 0x51 then 10 else 8
  let unit : Rat := (2 ^ (d - 8) : Nat)
  let luma : Rat := (s.yuvCode f (field b 0 8 + y * field b 16 4 + x * lumaBytes f) : Nat)
  let chroma (k : Nat) : Rat :=
    let c := s.chromaCode b x y k
    if layerFlag b 5 then (c - 128 * unit) / (2 ^ d - 1 : Nat) else (c / unit - 128) / 224
  let l : Rat := if layerFlag b 5 then luma / (2 ^ d - 1 : Nat) else (luma / unit - 16) / 219
  let kr : Rat := if layerFlag b 4 then mkRat 2627 10000 else mkRat 2126 10000
  let kb : Rat := if layerFlag b 4 then mkRat 593 10000 else mkRat 722 10000
  let u := chroma 0
  let v := chroma 1
  let put (q : Rat) : FVal := linear16 (layerTransfer b) (halfRat q)
  { r := put (l + 2 * (1 - kr) * v)
    g := put (l - (2 * (1 - kb) * kb * u + 2 * (1 - kr) * kr * v) / (1 - kr - kb))
    b := put (l + 2 * (1 - kb) * u)
    a := one16 }

/-- The pixel of a surface layer at a position of its source rectangle. -/
def State.sourcePixel (s : State) (b : List U8) (x y : Nat) : Pixel :=
  let f := field b 20 1
  let x := field b 24 2 + x
  let y := field b 26 2 + y
  if isYuv f then s.yuvPixel b x y
  else rgbPixel f (layerTransfer b) (s.mem.num (field b 0 8 + y * field b 16 4 + x * surfaceBytes f) (surfaceBytes f))

/-! ### Scaling (R349) -/

/-- The source positions and weights of an output position along one axis. R349 gives the filters and their taps; their
phase and weights are left open. -/
def scaleTaps (src dst pos : Nat) : List (Nat × Nat) :=
  if src = dst then [(pos, 1)] else
  let n := if src < dst then 2 else (src + dst - 1) / dst + 1
  let base := Config.scaleBase src dst pos
  (List.range n).map (fun i => (min (base + i) (src - 1), Config.scaleWeight src dst pos i))

/-- The weighted mean of values, rounded once. -/
def mean16 (ts : List (Nat × FVal)) : FVal :=
  match ts.filter (fun t => t.1 != 0) with
  | [] => (ts.head?.map Prod.snd).getD (.fin false 0 0)
  | ts =>
    let sum := ts.foldl (fun (m : FVal) t => m.addWith .rne ((FVal.ofInt t.1).mul t.2)) (FVal.fin true 0 0)
    match sum.rat with
    | some q => halfRat (q / (ts.map Prod.fst).sum)
    | none => sum

def meanPixel (ts : List (Nat × Pixel)) : Pixel :=
  let by_ (f : Pixel → FVal) : FVal := mean16 (ts.map (fun t => (t.1, f t.2)))
  { r := by_ Pixel.r, g := by_ Pixel.g, b := by_ Pixel.b, a := by_ Pixel.a }

/-- A layer's extents: its source and destination rectangles. -/
def srcW (b : List U8) : Nat := field b 28 2
def srcH (b : List U8) : Nat := field b 30 2
def dstX (b : List U8) : Int := signedOf 16 (field b 32 2)
def dstY (b : List U8) : Int := signedOf 16 (field b 34 2)
def dstW (b : List U8) : Nat := field b 36 2
def dstH (b : List U8) : Nat := field b 38 2

/-- An output pixel lies in a layer's destination rectangle, and its position there. -/
def inDst (b : List U8) (x y : Nat) : Bool :=
  decide (dstX b ≤ x) && decide ((x : Int) < dstX b + dstW b) && decide (dstY b ≤ y) && decide ((y : Int) < dstY b + dstH b)

def dstCol (b : List U8) (x : Nat) : Nat := ((x : Int) - dstX b).toNat
def dstRow (b : List U8) (y : Nat) : Nat := ((y : Int) - dstY b).toNat

/-- The source rows and columns that an output pixel of a layer needs. -/
def layerRows (b : List U8) (y : Nat) : List (Nat × Nat) := scaleTaps (srcH b) (dstH b) (dstRow b y)
def layerCols (b : List U8) (x : Nat) : List (Nat × Nat) := scaleTaps (srcW b) (dstW b) (dstCol b x)

/-! ### Fetched spans (R348) -/

/-- A surface layer above layer `i` that is shown with alpha 1. -/
def opaqueAbove (ls : TMap (List U8)) (i : Nat) : List (List U8) :=
  (ls.filter (fun e => decide (i < e.1) && layerKind e.1 e.2 == 1 && layerFlag e.2 0)).map Prod.snd

/-- The output pixels of a layer that need a pixel of source span `k` of row `r`. -/
def spanPixels (t : Timing) (b : List U8) (r k : Nat) : List (Nat × Nat) :=
  let xs := (List.range t.hactive.toNat).filter (fun (x : Nat) =>
    decide (dstX b ≤ x) && decide ((x : Int) < dstX b + dstW b) && (layerCols b x).any (fun c => c.1 / 64 == k))
  let ys := (List.range t.vactive.toNat).filter (fun (y : Nat) =>
    decide (dstY b ≤ y) && decide ((y : Int) < dstY b + dstH b) && (layerRows b y).any (fun c => c.1 == r))
  ys.flatMap (fun y => xs.map (fun x => (x, y)))

/-- A source span of 64 pixels is fetched, unless a higher layer with OPAQUE has all its output pixels inside its own
destination rectangle. -/
def spanFetched (t : Timing) (ls : TMap (List U8)) (i r k : Nat) : Bool :=
  let ps := spanPixels t (ls.get [] i) r k
  !(opaqueAbove ls i).any (fun b => ps.all (fun p => inDst b p.1 p.2))

/-- The pixel of a layer at an output pixel: rows filtered first, as the line buffers hold them, then columns; none where
a span that it needs is not fetched. -/
def State.layerPixel (s : State) (t : Timing) (ls : TMap (List U8)) (i x y : Nat) : Option Pixel :=
  let b := ls.get [] i
  let rows := layerRows b y
  let cols := layerCols b x
  if !cols.all (fun c => rows.all (fun r => spanFetched t ls i r.1 (c.1 / 64))) then none else
  some (meanPixel (cols.map (fun c =>
    (c.2, meanPixel (rows.map (fun r => (r.2, s.sourcePixel b c.1 r.1)))))))

/-! ### Blending (R347, R358) -/

/-- The colour of a descriptor's BG, in the layer's transfer. -/
def bgPixel (b : List U8) : Pixel := rgbPixel 0x03 (layerTransfer b) (field b 44 4)

/-- A layer's pixel over the composition below it. -/
def blendLayer (b : List U8) (src dst : Pixel) : Pixel :=
  if layerFlag b 0 then { src with a := one16 } else
  let pre := if layerFlag b 1 then src else { (src.map (mul16 src.a)) with a := src.a }
  let plane := halfRat (mkRat (field b 40 1) 255)
  let keep := add16 one16 (mul16 pre.a plane).neg
  pre.map₂ dst (fun x y => add16 (mul16 x plane) (mul16 y keep))

/-! ### Ink (R361, R362) -/

/-- A segment of ink: its ends in 1/16 pixel, its half-width and colour. -/
structure InkSeg where
  x0 : Int
  y0 : Int
  x1 : Int
  y1 : Int
  half : Nat
  colour : Nat
deriving DecidableEq, Repr

/-- The live records of a pipe, oldest first, as their bytes. -/
def State.inkLive (s : State) (p : Nat) : List (List U8) :=
  let x := s.pipe p
  (List.range (min (x.inkWrite - x.inkRead).toNat (2 ^ x.inkOrder))).map (fun i =>
    s.peek (x.inkBase + 16 * ((x.inkRead.toNat + i) % 2 ^ x.inkOrder)) 16)

/-- The segments of live records, and then the predicted ones, in the order in which they are drawn. -/
def State.inkSegs (s : State) (p : Nat) : List InkSeg :=
  let rs := s.inkLive p
  let seg (a b : List U8) : InkSeg :=
    let a := if field b 6 1 % 2 = 1 then b else a
    { x0 := (field a 0 2 : Nat), y0 := (field a 2 2 : Nat), x1 := (field b 0 2 : Nat), y1 := (field b 2 2 : Nat)
      half := field b 4 1, colour := field b 5 1 % 16 }
  let real := ((rs.headD [] :: rs).zip rs).map (fun e => seg e.1 e.2)
  match rs.getLast? with
  | none => []
  | some l =>
    let ends : List (Int × Int) := ((field l 0 2 : Nat), (field l 2 2 : Nat)) :: (s.pipe p).predicted
    real ++ (ends.zip (s.pipe p).predicted).map (fun e =>
      { x0 := e.1.1, y0 := e.1.2, x1 := e.2.1, y1 := e.2.2, half := field l 4 1, colour := field l 5 1 % 16 })

/-- The segments drawn on a line: the newest 64 of those that reach it. -/
def inkOnLine (segs : List InkSeg) (y : Nat) : List InkSeg :=
  let on := segs.filter (fun g =>
    decide (min g.y0 g.y1 < ((16 * (y + 1) + g.half : Nat) : Int)) &&
      decide (((16 * y : Nat) : Int) ≤ max g.y0 g.y1 + (g.half : Int)))
  on.drop (on.length - 64)

/-- A point lies in a segment's capsule; all in 1/256 pixel. -/
def InkSeg.holds (g : InkSeg) (x y : Int) : Bool :=
  let dx := 16 * (g.x1 - g.x0)
  let dy := 16 * (g.y1 - g.y0)
  let ex := x - 16 * g.x0
  let ey := y - 16 * g.y0
  let h : Int := (16 * g.half : Nat)
  let len := dx * dx + dy * dy
  let t := ex * dx + ey * dy
  if t ≤ 0 then decide (ex * ex + ey * ey ≤ h * h)
  else if len ≤ t then decide ((ex - dx) * (ex - dx) + (ey - dy) * (ey - dy) ≤ h * h)
  else decide ((ex * dy - ey * dx) * (ex * dy - ey * dx) ≤ h * h * len)

/-- The sample points of a pixel that a segment covers; where the 16 points lie is left open. -/
def InkSeg.coverage (g : InkSeg) (x y : Nat) : Nat :=
  ((List.range 16).filter (fun i =>
    g.holds (256 * x + Config.inkSample i % 256 : Nat) (256 * y + Config.inkSample i / 256 % 256 : Nat))).length

/-- A pixel with a pipe's ink over it. -/
def State.inkPixel (s : State) (p x y : Nat) (dst : Pixel) : Pixel :=
  (inkOnLine (s.inkSegs p) y).foldl (fun d g =>
    let n := g.coverage x y
    if n = 0 then d else
    let c := rgbPixel 0x03 0 ((s.pipe p).palette.get 0 g.colour).toNat
    let a := mul16 c.a (halfRat (mkRat n 16))
    c.map₂ d (fun u v => add16 (mul16 u a) (mul16 v (add16 one16 a.neg)))) dst

/-! ### A pipe's output (R347, R359, R366) -/

/-- The boot framebuffer as a layer: scaled to fit with its aspect ratio kept, centred; in which direction the shorter side
rounds is left open. -/
def State.bootLayer (s : State) (t : Timing) : List U8 :=
  let w := s.dsp.bootWidth.toNat
  let h := s.dsp.bootHeight.toNat
  let ha := t.hactive.toNat
  let va := t.vactive.toNat
  let up (a b : Nat) : Nat := if b ≠ 0 && a % b ≠ 0 && Config.bootUp a b then 1 else 0
  let (dw, dh) := if h * ha ≤ w * va then (ha, min va (h * ha / w + up (h * ha) w))
    else (min ha (w * va / h + up (w * va) h), va)
  toBytes 8 s.dsp.bootAddr ++ toBytes 8 0 ++ toBytes 4 s.dsp.bootPitch.toNat ++ [0x05, 1] ++ toBytes 2 1 ++
    toBytes 2 0 ++ toBytes 2 0 ++ toBytes 2 w ++ toBytes 2 h ++
    toBytes 2 ((ha - dw) / 2) ++ toBytes 2 ((va - dh) / 2) ++ toBytes 2 dw ++ toBytes 2 dh ++ [0xFF] ++ List.replicate 23 0

/-- The host link is lost (R311). -/
def State.hostLost (s : State) : Bool := [0, 1].any (fun m => (s.slk.modules.get {} m).state == 3)

/-- The layers that a pipe composes: those of its applied flip sets, or while it mirrors the boot framebuffer on black, which
a lost host link leaves (R366, R487). -/
def State.composed (s : State) (p : Nat) : TMap (List U8) :=
  let x := s.pipe p
  if !x.mirroring then x.layers else
  let b := s.bootLayer x.mode
  if s.dsp.bootWidth = 0 || s.dsp.bootHeight = 0 || s.hostLost || (lineBuffers 1 b).all (fun n => decide (24 < n)) then [] else [(1, b)]

/-- The composed pixel at an output position: layer 0's colour and the layers above it in order. A surface layer that has
not received the pixel shows its BG colour. -/
def State.composePixel (s : State) (p : Nat) (missing : List LayerPixel) (x y : Nat) : Pixel :=
  let ls := s.composed p
  let t := (s.pipe p).mode
  let back := { bgPixel (ls.get [] 0) with a := one16 }
  [1, 2, 3, 4, 5, 6, 7].foldl (fun d i =>
    let b := ls.get [] i
    match layerKind i b, inDst b x y with
    | 1, true =>
      if missing.contains ⟨i, x, y⟩ then blendLayer b (bgPixel b) d
      else (s.layerPixel t ls i x y).elim d (fun c => blendLayer b c d)
    | 2, true => if s.ownerOk (s.pipeOwner p) (s.pipe p).inkBase (16 * 2 ^ (s.pipe p).inkOrder) false then s.inkPixel p x y d
      else d
    | _, _ => d) back

/-- An output code: the pipe's transfer, whose curve is left open, within 0 and 1, at the component depth, ties to even. -/
def outputCode (t : Timing) (v : FVal) : Nat :=
  let e := Config.outputCurve t.pq (Fmt.fp16.encode .rne false v)
  let q := max 0 (min 1 (mkRat e.1 e.2)) * (2 ^ (8 + 2 * t.bpc.toNat) - 1 : Nat)
  match ratVal q with
  | .fin neg m k => roundMag .rne neg m k
  | _ => 0

/-- The six bytes of an output pixel (R359): its red, green and blue codes. -/
def State.outputBytes (s : State) (p : Nat) (missing : List LayerPixel) (x y : Nat) : List U8 :=
  let c := s.composePixel p missing x y
  let t := (s.pipe p).mode
  [c.r, c.g, c.b].flatMap (fun v => toBytes 2 (outputCode t v))

/-- The positions of a region in this frame, in row order. -/
def Region.pixels (r : Region) : List (Nat × Nat) :=
  let at_ (i : Nat) : Nat := (r.inFrame[i]?).getD 0
  ((List.range (at_ 3)).drop (at_ 1)).flatMap (fun y => ((List.range (at_ 2)).drop (at_ 0)).map (fun x => (x, y)))

end Sys2Proof.Machine
end

