-- ==== Sys2Proof/Machine/Display.lean ====
section
/-! DEFINITION. Display pipes, flip sets, notch signatures, ink, hot-plug and mirroring (R343 to R370). -/

namespace Sys2Proof.Machine

open Sys2Proof

/-! ### Units -/

/-- The pipe is in service, and the display firmware runs. -/
def State.pipeUp (s : State) (p : Nat) : Bool :=
  s.feUp && decide (p < s.die.part.pipes) && !bit s.die.pipesOut p

/-! ### Timing and links (R343, R365) -/

/-- The outputs carry the streams asked of them: no other pipe's applied mode, whether its ENABLE is set or not, asks for
the same stream of the same output. -/
def State.streamFree (s : State) (p : Nat) (t : Timing) : Bool :=
  (List.range 4).all (fun q => q == p || !(s.pipe q).mode.ok || (s.pipe q).mode.output != t.output ||
    (s.pipe q).mode.stream != t.stream)

/-- Bits per pixel of a mode, and its bandwidth in units of 10 Mbit/s. -/
def Timing.rate (t : Timing) : Nat := t.clock.toNat * (3 * (8 + 2 * t.bpc.toNat)) / 10000

/-- T2 trains an output's link for a pipe's mode: a failure clears LINK_UP and sets LINK_FAIL; a mode beyond the trained
link uses DSC where it is allowed (R365). -/
def State.trainLink (s : State) (o : Nat) (train : LinkTrain) : State :=
  if !bit s.dsp.connected o then s else
  match train with
  | none => State.dspEvent { s with dsp := { s.dsp with linkUp := setBit s.dsp.linkUp o false } } 3
  | some (lanes, rate) =>
    let s := { s with dsp := { s.dsp with linkUp := setBit s.dsp.linkUp o true } }
    { s with dsp := { s.dsp with pipes := s.dsp.pipes.mapVals (fun _ x =>
        if x.running && x.mode.output.toNat == o then
          { x with dscOn := x.mode.dsc && decide (lanes * rate < x.mode.rate) } else x) } }

/-- The pipe that mirrors to an output: on a part with two pipes, pipe 1 drives DP0 while that is connected, and DP1
otherwise (R366). -/
def State.mirrorPipe (s : State) (o : Nat) : Option Nat :=
  if s.die.part ≠ .x32 then if o < 3 then some o else none
  else
    match o with
    | 0 => some 0
    | 1 => if bit s.dsp.connected 1 then some 1 else none
    | 2 => if bit s.dsp.connected 1 then none else some 1
    | _ => none

/-- The preferred timing of an output's sink. -/
def preferredTiming (o : Nat) (sink : List U8) : Timing :=
  let f := Config.preferredTiming sink
  { output := BitVec.ofNat 2 o, bpc := BitVec.ofNat 2 (f 0), pq := f 1 % 2 == 1, hactive := BitVec.ofNat 16 (f 2),
    htotal := BitVec.ofNat 16 (f 3), vactive := BitVec.ofNat 16 (f 4), vtotal := BitVec.ofNat 16 (f 5),
    clock := BitVec.ofNat 32 (f 6) }

/-- A pipe that mirrors and that no MODESET has taken over runs its sink's preferred timing, where R343 lets it (R366). -/
def Pipe.follow (x : Pipe) (t : Timing) : Pipe :=
  if x.mirroring && x.bootTiming && t.ok then { x with mode := t, running := x.enable } else x

/-- A pipe takes up the sink of the output that it mirrors to. -/
def State.routeMirror (s : State) (p o : Nat) : State := s.updPipe p (fun x => x.follow (preferredTiming o (s.dsp.sinks.get [] o)))

/-- MODESET (R343): the registers' timing takes effect and the link is trained, or it is refused and the old stands. -/
def execModeset (p : Nat) (train : LinkTrain) (s : State) : Out :=
  .next (if !s.pipeUp p then s
    else
      let t := (s.pipe p).regs
      if !t.ok || !s.streamFree p t then s.updPipe p (fun x => { x with result := 0x21 })
      else
        (s.updPipe p (fun x => { x with mode := t, running := x.enable, bootTiming := false, result := 0 })).trainLink t.output.toNat train)

/-- HPD_CONNECT: the sink's data is read, CONNECTED and HOTPLUG are set, a pipe that mirrors to the output takes the
sink's timing, and the link trains for a routed mode (R365, R366). -/
def execHpdConnect (o : Nat) (sink : List U8) (train : LinkTrain) (s : State) : Out :=
  .next (if !s.feUp || 3 ≤ o then s
    else
      let s := { s with dsp := { s.dsp with
        connected := setBit s.dsp.connected o true, sinks := s.dsp.sinks.set o (sink.take 4092) } }
      let s := (s.dspEvent 0).raise (128 + o)
      let s := (s.mirrorPipe o).elim s (fun p => s.routeMirror p o)
      if (List.range 4).any (fun p => (s.pipe p).running && (s.pipe p).mode.output.toNat == o) then s.trainLink o train
      else s)

/-- HPD_DISCONNECT: CONNECTED and LINK_UP clear and UNPLUG is set; a routed pipe goes on (R357, R365), and a pipe that
mirrors to DP0 alone of two pipes goes over to DP1 (R366). -/
def execHpdDisconnect (o : Nat) (s : State) : Out :=
  .next (if !s.feUp || 3 ≤ o then s
    else
      let s := { s with dsp := { s.dsp with
        connected := setBit s.dsp.connected o false, linkUp := setBit s.dsp.linkUp o false } }
      let s := (s.dspEvent 1).raise (128 + o)
      if s.die.part = .x32 && o == 1 && bit s.dsp.connected 2 then s.routeMirror 1 2 else s)

/-- IRQ_HPD: link status is read, the link retrained, and IRQ_HPD set (R365). -/
def execIrqHpd (o : Nat) (train : LinkTrain) (s : State) : Out :=
  .next (if !s.feUp || 3 ≤ o || !bit s.dsp.connected o then s
    else ((s.trainLink o train).dspEvent 2).raise (128 + o))

/-! ### Flip sets (R351 to R357) -/

/-- FLIP_SET_CHECK: a set that has become head is read and checked; one that fails is discarded (R353). -/
def execFlipSetCheck (p : Nat) (s : State) : Out :=
  .next (
    let x := s.pipe p
    if !s.pipeUp p || x.flipRead = x.flipWrite || x.head.isSome || x.latched.isSome then s
    else
      match s.readSet p x.flipRead with
      | (f, some st) => (s.dropSet p f st.toNat 0).dspEvent 5
      | (f, none) => s.updPipe p (fun x => { x with head := some f }))

/-- A set's gates and target let it show at the next blank (R354). -/
def State.showable (s : State) (p : Nat) (f : FlipSet) : Bool :=
  (flipGates f.header).all (fun g => (s.event g.1).error == 0 && (s.event g.1).reached g.2) &&
    (match flipTarget f.header with
     | none => true
     | some t => decide ((t - ((s.pipe p).frame + 1)).toInt ≤ 0))

/-- The first gate of a set whose event has failed. -/
def State.gateError (s : State) (f : FlipSet) : Option Nat :=
  (flipGates f.header).findSome? (fun g => if (s.event g.1).error ≠ 0 then some ((s.event g.1).error % 256) else none)

/-- The set misses its target frame: at the next blank FRAME becomes it, or has passed it. -/
def State.misses (s : State) (p : Nat) (f : FlipSet) (shown : Bool) : Bool :=
  match flipTarget f.header with
  | none => false
  | some t =>
    let d := (t - ((s.pipe p).frame + 1)).toInt
    !f.late && (decide (d < 0) || (d == 0 && !shown))

/-- LATE is counted once for a set. -/
def State.countLate (s : State) (p : Nat) (f : FlipSet) (shown : Bool) : FlipSet × State :=
  if s.misses p f shown then
    ({ f with late := true }, (s.updPipe p (fun x => { x with late := satAdd32 x.late 1 })).dspEvent 6)
  else (f, s)

/-- The latch test moves over showable sets, skipping at most `n` of them (R354). -/
def latchFrom (p : Nat) : (n : Nat) → FlipSet → State → State
  | 0, f, s => s.updPipe p (fun x => { x with head := none, latched := some f })
  | n + 1, f, s =>
    let x := s.pipe p
    let next := x.flipRead + 1
    if next = x.flipWrite then s.updPipe p (fun x => { x with head := none, latched := some f })
    else
      match s.readSet p next with
      | (g, none) =>
        if (s.gateError g).isNone && s.showable p g then
          let t := (s.dropSet p f 0 2).updPipe p (fun x => { x with skipped := satAdd32 x.skipped 1 })
          let r := t.countLate p g true
          latchFrom p n r.1 r.2
        else s.updPipe p (fun x => { x with head := none, latched := some f })
      | _ => s.updPipe p (fun x => { x with head := none, latched := some f })

/-- FLIP_LATCH: 100 µs before a blank the head set's gates are read, and it is applied, skipped, late or discarded (R354,
R355); a set checked under another owner is checked again (R357). -/
def execFlipLatch (p : Nat) (s : State) : Out :=
  .next (
    let x := s.pipe p
    if !s.pipeUp p || !x.running || bit s.dsp.mirror p then s
    else
      match x.head with
      | none => s
      | some f =>
        let r : FlipSet × Option U8 := if f.owner = s.pipeOwner p then (f, none)
          else
            let g := s.readSet p x.flipRead
            ({ g.1 with late := f.late }, g.2)
        match r with
        | (f, some st) => (s.dropSet p f st.toNat 0).dspEvent 5
        | (f, none) =>
          match s.gateError f with
          | some e => (s.dropSet p f e (if f.late then 1 else 0)).dspEvent 5
          | none =>
            let show_ := s.showable p f
            let r := s.countLate p f show_
            if show_ then latchFrom p 8 r.1 r.2
            else r.2.updPipe p (fun x => { x with head := some r.1 }))

/-- The uses of earlier sets after a set's layers replace theirs: what is no longer shown is released (R356). -/
def State.replaceUses (s : State) (p : Nat) (ls : List Nat) : State :=
  let uses := (s.pipe p).inUse.map (fun u => { u with layers := u.layers.filter (fun i => !ls.contains i) })
  let s := s.updPipe p (fun x => { x with inUse := uses.filter (fun u => !u.layers.isEmpty) })
  (uses.filter (fun u => u.layers.isEmpty)).foldl (fun s u => s.signalRelease p u.release) s

/-- A latched set is applied at a blank (R354, R356, R367). -/
def State.applyFlip (s : State) (p : Nat) (f : FlipSet) : State :=
  let ls := flipLayers f.header
  let s := s.replaceUses p ls
  let keep := ls.filter (fun i => i == 0 || layerKind i (f.descs.get [] i) != 0)
  let u : FlipUse := { layers := keep, release := flipRelease f.header }
  let s := s.updPipe p (fun x => { x with
    layers := f.over x.layers, latched := none, flipRead := x.flipRead + 1, mirroring := false
    inUse := if keep.isEmpty then x.inUse else x.inUse ++ [u] })
  let s := if keep.isEmpty then s.signalRelease p u.release else s
  (s.writeFlip p f 0 (if f.late then 1 else 0) (some (s.pipe p).frame)).dspEvent 4

/-- The pipe draws ink, and more segments than one line takes are live (R362). -/
def Pipe.crowds (x : Pipe) : Bool :=
  (List.range 8).any (fun i => layerKind i (x.layers.get [] i) == 2) &&
    decide (64 < (x.inkWrite - x.inkRead).toNat + x.predicted.length)

/-- The lines of a frame with more than 64 segments are counted: on which lines segments lay together is a free value, and
none where no more than 64 were live (R362). -/
def State.countInk (s : State) (p : Nat) : State :=
  let x := s.pipe p
  if !(x.crowded || x.crowds) then s else
  let (n, s) := s.free
  let lines := n % (x.mode.vactive.toNat + 1)
  let s := s.updPipe p (fun x => { x with crowded := x.crowds, inkDropped := satAdd32 x.inkDropped lines })
  if lines = 0 then s else s.dspEvent 8

/-- VERTICAL_BLANK: FRAME counts, the latched set is applied, the registers of notch regions take effect, and a pipe
whose MIRROR bit is set mirrors again (R354, R360, R367, R370). -/
def execVerticalBlank (p : Nat) (s : State) : Out :=
  .next (if !s.pipeUp p || !(s.pipe p).running then s
    else
      let s := s.countInk p
      let s := s.updPipe p (fun x => { x with
        frame := x.frame + 1, missed := false, mirroring := x.mirroring || bit s.dsp.mirror p
        regions := x.regions.mapVals (fun _ r => { r with
          inFrame := [r.x0.toNat, r.y0.toNat, r.x1.toNat, r.y1.toNat], frameExpected := r.expected }) })
      let s := s.raise (140 + p)
      match (s.pipe p).latched with
      | none => s
      | some f => s.applyFlip p f)

/-- FLIP_RESET: sets not yet applied are aborted; one that has been latched completes first (R357). -/
def execFlipReset (p : Nat) (s : State) : Out :=
  .next (if !s.pipeUp p then s
    else
      match (s.pipe p).latched with
      | none => abortSets p 16 s
      | some f =>
        -- the latched set keeps its place, and those after it go
        let r := (s.pipe p).flipRead
        let t := abortSets p 16 (s.updPipe p (fun x => { x with flipRead := r + 1, head := none, latched := none }))
        t.updPipe p (fun x => { x with flipWrite := r + 1, flipRead := r, latched := some f }))

/-- A ring index is accepted (R250, R352). -/
def ringAccepts (old read new : U32) (order : Nat) : Bool :=
  decide ((new - old).toNat < 2 ^ 31) && decide ((new - read).toNat ≤ 2 ^ order)

/-- FLIP_WRITE (R352). -/
def execFlipWrite (p : Nat) (v : U32) (s : State) : Out :=
  .next (if !s.pipeUp p then s
    else
      let x := s.pipe p
      if ringAccepts x.flipWrite x.flipRead v x.flipOrder then s.updPipe p (fun x => { x with flipWrite := v })
      else s.dspEvent 5)

/-! ### Underflow and notches -/

/-- LINE_BUFFER_UNDERFLOW: the affected lines are counted (R358). -/
def execLineBufferUnderflow (p : Nat) (lines : U32) (s : State) : Out :=
  .next (if !s.pipeUp p || !(s.pipe p).running || lines = 0 then s
    else (s.updPipe p (fun x => { x with underflow := satAdd32 x.underflow lines.toNat, missed := true })).dspEvent 7)

/-- The layer pixels that have not been received: those that an underflow of this frame leaves out (R358). -/
def Pipe.without (x : Pipe) (missing : List LayerPixel) : List LayerPixel := if x.missed then missing else []

/-- The signature of a region of this frame (R359), without the given layer pixels. -/
def State.notchCrc (s : State) (p : Nat) (r : Region) (missing : List LayerPixel) : U32 :=
  crc32c (r.pixels.flatMap (fun e => s.outputBytes p missing e.1 e.2))

/-- The region is on in this frame. -/
def Region.on (r : Region) : Bool :=
  decide (r.inFrame[0]?.getD 0 < r.inFrame[2]?.getD 0) && decide (r.inFrame[1]?.getD 0 < r.inFrame[3]?.getD 0)

/-- NOTCH_SIGNATURE: a region's last pixel leaves the compositor; which layer pixels an underflow has left out is the
command's operand. A region that the underflow touches mismatches (R359, R360). -/
def execNotchSignature (p r : Nat) (missing : List LayerPixel) (s : State) : Out :=
  .next (
    let x : Region := (s.pipe p).regions.get {} r
    if !s.pipeUp p || !(s.pipe p).running || 16 ≤ r || !x.on || x.mode = 0 then s
    else
      let missing := (s.pipe p).without missing
      let c := s.notchCrc p x missing
      let touched := missing.any (fun e => x.pixels.contains (e.x, e.y))
      let set := fun (y : Region) => s.updPipe p (fun z => { z with regions := z.regions.set r y })
      if x.mode = 2 then set { x with actual := c, expected := c, mode := 1 }
      else if x.mode = 1 && (c ≠ x.frameExpected || touched) then
        let s := set { x with actual := c, mismatch := true, count := satAdd16 x.count 1 }
        ((s.dspEvent 9).raise (64 + p)).raise (144 + p)
      else set { x with actual := c })

/-! ### Ink (R361 to R363) -/

/-- A stroke record's position, time and flags. -/
structure InkRec where
  x : Int
  y : Int
  start : Bool
  last : Bool
  time : U32
deriving DecidableEq, Repr

def inkRec (b : List U8) : InkRec :=
  { x := (field b 0 2 : Nat), y := (field b 2 2 : Nat), start := field b 6 1 % 2 == 1, last := field b 6 1 / 2 % 2 == 1,
    time := BitVec.ofNat 32 (field b 8 4) }

/-- The record at an index of a pipe's stroke ring. -/
def State.inkAt (s : State) (p : Nat) (i : U32) : InkRec :=
  inkRec (s.peek ((s.pipe p).inkBase + 16 * (i.toNat % 2 ^ (s.pipe p).inkOrder)) 16)

/-- The last records of the newest stroke, newest first, at most three. -/
def State.newestStroke (s : State) (p : Nat) : (n : Nat) → (i : U32) → List InkRec
  | 0, _ => []
  | n + 1, i =>
    if i = (s.pipe p).inkRead then [] else
    let r := s.inkAt p (i - 1)
    if r.start then [r] else r :: State.newestStroke s p n (i - 1)

/-- The polynomial through points at time `t`, times being differences from the newest record. -/
def lagrange (pts : List (Int × Int)) (t : Rat) : Rat :=
  ((List.range pts.length).zip pts).foldl (fun (m : Rat) e =>
    m + ((List.range pts.length).zip pts).foldl (fun (w : Rat) f =>
      if f.1 = e.1 then w else w * (t - f.2.1) / ((e.2.1 - f.2.1 : Int) : Rat)) (e.2.2 : Rat)) 0

/-- The predicted positions at a quarter, half, three quarters and all of H (R363). -/
def predictInk (rs : List InkRec) (horizon : Nat) : List (Int × Int) :=
  match rs with
  | [] => []
  | [_] => []
  | r :: _ =>
    let at_ := fun (f : InkRec → Int) (k : Nat) =>
      let v := lagrange (rs.map (fun q => ((q.time - r.time).toInt, f q))) (mkRat (horizon * 250 * k) 4)
      Config.inkRound v.num v.den
    [1, 2, 3, 4].map (fun k => (at_ InkRec.x k, at_ InkRec.y k))

/-- Four points of which nothing is known: records at one time fix no polynomial (R363). -/
def State.freePoints (s : State) : List (Int × Int) × State :=
  (List.range 4).foldl (fun (a : List (Int × Int) × State) _ =>
    let (m, s) := a.2.free
    let (n, s) := s.free
    (a.1 ++ [(Config.inkRound m 0, Config.inkRound n 0)], s)) ([], s)

/-- INK_WRITE: new records are accepted, and T2 replaces the prediction (R361 to R363). -/
def execInkWrite (p : Nat) (v : U32) (s : State) : Out :=
  .next (if !s.pipeUp p then s
    else
      let x := s.pipe p
      if !ringAccepts x.inkWrite x.inkRead v x.inkOrder then s.dspEvent 5
      else if v = x.inkWrite then s
      else
        let s := (s.updPipe p (fun x =>
          let y := { x with inkWrite := v }
          { y with crowded := x.crowded || y.crowds })).raise 148
        if !x.predict || !s.ownerOk (s.pipeOwner p) x.inkBase (16 * 2 ^ x.inkOrder) false then s
        else
          let rs := s.newestStroke p 3 v
          if rs.any (fun r => r.last) then s.updPipe p (fun x => { x with predicted := [] })
          else if decide ((rs.map InkRec.time).Nodup) then
            s.updPipe p (fun x => { x with predicted := predictInk rs x.horizon.toNat })
          else
            let (ps, s) := s.freePoints
            s.updPipe p (fun x => { x with predicted := ps }))

/-- INK_PREDICTION_EXPIRY: no real record within H of the last (R363). -/
def execInkPredictionExpiry (p : Nat) (s : State) : Out :=
  .next (if s.pipeUp p then s.updPipe p (fun x => { x with predicted := [] }) else s)

/-! ### Mirroring -/

/-- DSP_CTRL.MIRROR is written (R366, R367). -/
def execDspMirrorWrite (v : U32) (s : State) : Out :=
  .next (if s.feUp then
      { s with dsp := { s.dsp with mirror := (v.truncate 4) &&& BitVec.ofNat 4 (2 ^ s.die.part.pipes - 1) } }
    else s)

end Sys2Proof.Machine
end

