-- ==== Sys2Proof/Machine/Faults.lean ====
section
/-! DEFINITION. Walks, page faults and their resumption, invalidations, context losses, the fault queues, front-end
restarts and watchdogs (R26, R160 to R162, R169, R172, R225 to R235, R297 to R307, R313 to R316). -/

namespace Sys2Proof.Machine

open Sys2Proof

/-! ### Translation -/

/-- PAGE_WALK: a context's access from a core, or from a unit that is none, is translated; a miss is walked, counted and
installed (R224, R225). -/
def execPageWalk (c : Nat) (va : U64) (acc : WalkAccess) (s : State) : Out :=
  .next (if s.die.inReset || (s.ctx c).state = .closed then s else ((s.on acc.core).xlat c va.toNat 1 acc.kind).2)

/-- PAGE_FAULT: an access of a running command meets what its translation gives (R228 to R231). -/
def execPageFault (job : Nat) (va : U64) (acc : Access) (s : State) : Out :=
  .next (match s.jobs.find job with
    | none => s
    | some v =>
      if s.die.inReset || v.st ≠ .running || v.launch.isSome then s
      else (s.on none).probed job (if v.compute then 0 else if v.cmp.isSome then 3 else 1) [(va.toNat, 1, acc)] id)

/-- RESUME of a context in FAULT_WAIT releases every waiting command (R230, R231); while its record is held for want of
space it is dropped. -/
def State.faultResume (s : State) (c : Nat) : State :=
  let x := s.ctx c
  if x.state ≠ .faultWait || x.held.isSome then s
  else
    let s := s.updCtx c (fun x => { x with state := .running, outstanding := false, faulting := none })
    { s with jobs := s.jobs.mapVals (fun _ v =>
        if v.ctx == c && v.st == .faultWait then { v with st := v.again } else v) }

/-- ABORT of a context in FAULT_WAIT loses it with CTX_LOST; the record tells the fault that was outstanding (R232, R302). -/
def State.faultAbort (s : State) (c : Nat) : State :=
  let x := s.ctx c
  if x.state ≠ .faultWait then s
  else
    let r : FaultRec := x.faulting.getD
      { status := 0x02, source := 0x01, context := BitVec.ofNat 16 c,
        addr := BitVec.ofNat 64 (x.faultPage.toNat * 4096), info := BitVec.ofNat 32 (x.faultSpan.toNat * 256),
        die := s.dieNo == 1 }
    s.lose c { r with status := 0x02, lost := true, loss := 0x02 }

/-- The registers of the leader's MMU and FLT blocks answer. -/
def State.leaderUp (s : State) : Bool := s.feUp && s.leader

/-- MMU_FAULT_RESUME with RESUME and without ABORT (R230, R234). -/
def execMmuFaultResume (v : U32) (s : State) : Out :=
  .next (let s := s.hostWake false
    if s.leaderUp && bit v 8 && !bit v 9 then s.faultResume (v.toNat % 256) else s)

/-- MMU_FAULT_RESUME with ABORT, which governs over RESUME (R232). -/
def execMmuFaultAbort (v : U32) (s : State) : Out :=
  .next (let s := s.hostWake false
    if s.leaderUp && bit v 9 then s.faultAbort (v.toNat % 256) else s)

/-- The FLT window's RESUME (R315). -/
def execFltCtxResume (c : Nat) (s : State) : Out :=
  .next (let s := s.hostWake false
    if s.leaderUp then s.faultResume c else s)

/-- The FLT window's ABORT (R315). -/
def execFltCtxAbort (c : Nat) (s : State) : Out :=
  .next (let s := s.hostWake false
    if s.leaderUp then s.faultAbort c else s)

/-- An invalidation starts: the range's translations are dropped, and until it ends no walk installs anything (R226). -/
def State.invStart (s : State) (c page pages : Nat) : State :=
  { s with mmu := { s.mmu.drop c page pages with inval := some { ctx := c, page := page, pages := pages } } }

/-- MMU_INV_CTRL with GO (R226, R234). -/
def execMmuInvGo (v : U32) (s : State) : Out :=
  .next (let s := s.hostWake false
    if !s.leaderUp || !bit v 8 then s
    else
      let c := v.toNat % 256
      let s := { s with mmu := { s.mmu with invContext := v.truncate 8 } }
      if s.mmu.inval.isSome then s.mmuEvent 4
      else s.invStart c s.mmu.invVa.toNat s.mmu.invPages.toNat)

/-- INV_GO of a context's FLT window (R315). -/
def execFltCtxInvGo (c : Nat) (s : State) : Out :=
  .next (let s := s.hostWake false
    if !s.leaderUp then s
    else if s.mmu.inval.isSome then s.updCtx c (fun x => { x with invRejected := true })
    else
      let x := s.ctx c
      (s.updCtx c (fun x => { x with invBusy := true, invRejected := false })).invStart c x.invVa.toNat
        x.invPages.toNat)

/-- INVALIDATION_DONE: BUSY clears, DONE_SEQ counts, and INV_DONE is set (R226, R234). -/
def execInvalidationDone (s : State) : Out :=
  .next (match s.mmu.inval with
    | none => s
    | some i =>
      let s := s.updCtx i.ctx (fun x => { x with invBusy := false })
      State.mmuEvent { s with mmu := { s.mmu with inval := none, doneSeq := s.mmu.doneSeq + 1 } } 3)

/-! ### Losses and the fault queues -/

/-- CONTEXT_LOSS: a losing error of a context (R296 to R298). -/
def execContextLoss (c : Nat) (err : LosingError) (s : State) : Out :=
  .next (if s.die.inReset then s else s.lose c (lossRecord s c 0 err))

/-- The OVERFLOW record of a context's queue (R302, R303). -/
def overflowRecord (s : State) (c : Nat) : FaultRec :=
  let x := s.ctx c
  { status := 0x3E, source := 0x0F, context := BitVec.ofNat 16 c, info := x.fqDroppedSince, lost := x.state == .lost,
    loss := if x.state = .lost then x.loss else 0, die := s.dieNo == 1 }

/-- The queue has space for a record. -/
def Ctx.fqSpace (x : Ctx) : Bool := decide ((x.fqWrite - x.fqRead).toNat < 2 ^ x.fqOrder)

/-- FQ_READ is written: within the records written it advances, and what waited for space follows, an OVERFLOW record
first and then a held PAGE_FAULT record (R303). -/
def execFqReadWrite (c : Nat) (v : U32) (s : State) : Out :=
  .next (let s := s.hostWake false
    let x := s.ctx c
    if !s.leaderUp || x.state = .closed || (x.fqWrite - x.fqRead).toNat < (v - x.fqRead).toNat then s
    else
      let s := s.updCtx c (fun x => { x with fqRead := v })
      let s := if (s.ctx c).fqSpace && (s.ctx c).fqDroppedSince ≠ 0 then
          let t := s.ctxReport c (overflowRecord s c)
          if (t.ctx c).fqWrite = (s.ctx c).fqWrite then t else t.updCtx c (fun x => { x with fqDroppedSince := 0 })
        else s
      match (s.ctx c).held with
      | none => s
      | some r =>
        if (s.ctx c).fqSpace then ((s.updCtx c (fun x => { x with held := none })).ctxReport c r).mmuEvent 0 else s)

/-- PQ_READ is written (R304, R314). -/
def execPqReadWrite (p : Nat) (v : U32) (s : State) : Out :=
  .next (let s := s.hostWake false
    let w := s.flt.pq.get {} p
    if !s.leaderUp || 16 ≤ p || (w.write - w.read).toNat < (v - w.read).toNat then s
    else
      let w := { w with read := v }
      let s := s.setPq p w
      if w.enable && w.droppedSince ≠ 0 && decide ((w.write - w.read).toNat < 2 ^ w.order) then
        let s := s.partRecord p
          { status := 0x3E, source := 0x0F, context := 0xFFFF, info := w.droppedSince, die := s.dieNo == 1 }
        let t : PartFq := s.flt.pq.get {} p
        if t.write = w.write then s else s.setPq p { t with droppedSince := 0 }
      else s)

/-! ### The replay log and stalls -/

/-- LOG_ENABLE is written: from 0 to 1 it clears LOG_DROPPED and the entry number (R169). -/
def execLogEnableWrite (p : Nat) (v : Bool) (s : State) : Out :=
  .next (let s := s.hostWake false
    let w : LogWin := s.det.logs.get {} p
    if !s.feUp || 16 ≤ p then s
    else if v && !w.enable then s.setLog p { w with enable := true, dropped := 0, seq := 0, droppedSince := 0 }
    else s.setLog p { w with enable := v })

/-- LOG_TAIL is written; space after drops is followed at once by an OVERFLOW entry (R169, R170). -/
def execLogTailWrite (p : Nat) (v : U16) (s : State) : Out :=
  .next (let s := s.hostWake false
    if !s.feUp || 16 ≤ p then s
    else
      let w : LogWin := s.det.logs.get {} p
      let w := { w with tail := v }
      let s := s.setLog p w
      if w.enable && w.droppedSince ≠ 0 && !w.full && s.logPlace w then
        let s := s.log p 0x08 0xFFFF 0 (toBytes 4 w.droppedSince.toNat)
        let w : LogWin := s.det.logs.get {} p
        s.setLog p { w with droppedSince := 0 }
      else s)

/-- DET_CTRL.CLEAR (R172). -/
def execDetClear (s : State) : Out :=
  .next (let s := s.hostWake false
    if s.feUp then { s with det := { s.det with lateUntagged := 0 } } else s)

/-- STRICT_FREEZE_RESUME: a frozen command resumes and its stopped cycles are counted as stalls (R162). -/
def execStrictFreezeResume (job : Nat) (refresh retry : U32) (s : State) : Out :=
  .next (match s.jobs.find job with
    | none => s
    | some v =>
      if s.die.inReset || v.st ≠ .running || !s.strict v then s
      else s.updJob job (fun v => { v with
        refresh := satAdd32 v.refresh refresh.toNat, retry := satAdd32 v.retry retry.toNat }))

/-! ### Front-end restarts -/

/-- The code of a cause (R306). -/
def causeCode : RestartCause → U8
  | .t1Watchdog => 1 | .t3Watchdog => 2 | .shuttleState => 3 | .faultPath => 4 | .seamLost => 5 | .hostLost => 6

/-- Step 3 of a restart for one context: LOST with FRONT_END_RESTART, its queues STOPPED, its commands killed; its events
are not failed. A destroy goes on with its cause recorded (R305, R306). -/
def State.restartLose (s : State) (c : Nat) : State :=
  let x := s.ctx c
  let cause := fun (x : Ctx) => { x with loss := 0x3F, causeStatus := 0x3F, causeSource := 0x10, causeLoss := 0x3F }
  match x.state with
  | .closed => s
  | .lost => s
  | .destroying => s.updCtx c cause
  | _ =>
    let s := s.updCtx c (fun x => { cause x with state := .lost, held := none, outstanding := false, faulting := none })
    (s.queuesOf c).foldl (fun s q => s.updQueue q (fun y =>
      if y.state = .destroying then y else { y with state := .stopped, owed := 0, waiting := false })) s

/-- A RESTART record (R302). -/
def restartRecord (s : State) (c : Option Nat) (cause : RestartCause) : FaultRec :=
  { status := 0x3F, source := 0x10, context := c.elim 0xFFFF (BitVec.ofNat 16), info := (causeCode cause).zeroExtend 32,
    lost := c.isSome, loss := c.elim 0 (fun c => (s.ctx c).loss), die := s.dieNo == 1 }

/-- A front-end restart (R306, R307): every context is lost, an apply stops with the binding that stands, the Shuttle is
reset, and RESTART records and log entries follow. The third within 10 s leaves dispatch stopped. -/
def State.restart (s : State) (cause : RestartCause) (now : Nat) : State :=
  let s := s.raise 70
  let s := { s with pwr := { s.pwr with entry := none, step := 0 } }
  let cs := (s.ctxs.filter (fun e => e.2.state != .closed)).map Prod.fst
  let s := if cs.any (fun c => (s.ctx c).state != .lost && (s.ctx c).state != .destroying) then s.fltEvent 1 else s
  let s := cs.foldl (fun s c => s.restartLose c) s
  let s := s.jobs.foldl (fun s e => s.spoil e.1) s
  let s := { s with jobs := [], trail := [], groups := [], blocks := [] }
  let s := s.flushDeltas (fun _ => true)
  let s := if s.ptn.apply.isSome then
      State.ptnEvent { s with ptn := { s.ptn with busy := false, step := 0, result := 0x3F, apply := none } } 0
    else s
  let third := match s.flt.restartTimes[1]? with
    | some t => decide (now - t ≤ 10000000)
    | none => false
  let stop := s.flt.halted || third
  let s := { s with
    die := { s.die with holdReason := if stop then 6 else s.die.holdReason }
    fe := { s.fe with
      lastServed := [], halted := stop, awaitHost := s.fe.awaitHost || decide (cause = RestartCause.hostLost) }
    flt := { s.flt with
      restarts := satAdd16 s.flt.restarts 1, cause := causeCode cause, halted := stop
      restartTimes := (now :: s.flt.restartTimes).take 3 } }
  let s := s.everyPart (restartRecord s none cause)
  let s := (cs.filter (fun c => (s.ctx c).state == .lost)).foldl
    (fun s c => (s.ctxRecord c (restartRecord s (some c) cause)).1) s
  let s := s.enabledParts.foldl (fun (s : State) p => s.log p 0x07 0xFFFF 0 []) s
  let s := s.fltEvent 5
  match s.fe.openWaits with
  | none => s
  | some fn => s.openNow fn

/-- FRONT_END_RESTART (R306). The follower's front end restarts with the leader's. -/
def execFrontEndRestart (cause : RestartCause) (now : Nat) (s : State) : Out :=
  .next (if s.die.inReset || s.die.stage = .preTack then s else s.restart cause now)

/-- THIMBLE_WATCHDOG_EXPIRY (R26): T1 and T3 restart the front end, T5 stops self-test and scrubbing, and the others
restart alone from their images, T2 with its ink predictor empty (R357). -/
def execThimbleWatchdogExpiry (t now : Nat) (s : State) : Out :=
  .next (if !s.thimbleUp t then s
    else
      match t with
      | 1 => s.restart .t1Watchdog now
      | 3 => s.restart .t3Watchdog now
      | 2 => { s with dsp := { s.dsp with pipes := s.dsp.pipes.mapVals (fun _ x => { x with predicted := [] }) } }
      | 5 => State.raise { s with die := { s.die with t5Stopped := true } } 11
      | _ => s)

/-! ### Way disable and HOTSPOT -/

/-- WAY_DISABLE: a way whose corrected errors have reached L3C_CE_THRESH is disabled by T5: its lines are written back as
traffic of their owners and leave, and the way is marked (R210, R239). -/
def execWayDisable (w : Nat) (s : State) : Out :=
  .next (if s.die.inReset || s.die.t5Stopped || 16 ≤ w || !bit s.l3c.live w ||
      (s.l3c.ce.get 0 w).toNat < s.l3c.thresh.toNat then s
    else
      let s := s.l3Clear (fun key _ => key % 16 == w)
      let s := { s with l3c := { s.l3c with
        live := setBit s.l3c.live w false, disabled := setBit s.l3c.disabled w true, events := s.l3c.events ||| 0x6 } }
      ((s.fltEvent 6).darnAdd { type := 6, u := 0, index := w }).rewriteCaps)

/-- The place of the largest count, the lowest among equals, and the count. -/
def busiest (l : List Nat) : Nat × Nat :=
  ((List.range l.length).zip l).foldl (fun m e => if m.2 < e.2 then e else m) (0, 0)

/-- One kind of imbalance: at least `least` in all, and the busiest of 16 at least four times the mean (R211). -/
def imbalanced (l : List Nat) (least : Nat) : Bool := decide (least ≤ l.sum) && decide (4 * l.sum ≤ 16 * (busiest l).2)

/-- The window's counts of 16 channels or set groups: those of the state and those that the command brings. -/
def windowCounts (m : TMap Nat) (more : List Nat) : List Nat := (List.range 16).map (fun i => m.get 0 i + (more[i]?).getD 0)

/-- HOTSPOT_WINDOW: one window of partition `p` is judged; the hundredth imbalanced one in a row raises HOTSPOT (R211,
R214). -/
def execHotspotWindow (p : Nat) (h : HotspotCounts) (s : State) : Out :=
  .next (if s.die.inReset || !(s.part p).enable then s
    else
      let x : HotWin := s.l3c.hot.get {} p
      let channels := windowCounts x.requests h.channels
      let sets := windowCounts x.evictions h.sets
      let ch := imbalanced channels 65536
      let st := imbalanced sets 4096
      let rc := if ch then min (x.runChannel + 1) 255 else 0
      let rs := if st then min (x.runSet + 1) 255 else 0
      let upC := rc == 100
      let upS := rs == 100
      let x := { x with
        runChannel := rc, runSet := rs, channel := x.channel || upC, set := x.set || upS
        hotChannel := if ch then BitVec.ofNat 4 (busiest channels).1 else x.hotChannel
        hotGroup := if st then BitVec.ofNat 4 (busiest sets).1 else x.hotGroup
        requests := [], evictions := [] }
      let s := { s with l3c := { s.l3c with hot := s.l3c.hot.set p x } }
      if upC || upS then
        let s := { s with l3c := { s.l3c with events := setBit s.l3c.events 4 true } }
        s.partRecord p
          { status := 0x25, source := 0x0C, context := 0xFFFF, die := s.dieNo == 1
            info := BitVec.ofNat 32 (upC.toNat + 2 * upS.toNat + x.hotChannel.toNat * 16 + x.hotGroup.toNat * 256) }
      else s)

end Sys2Proof.Machine
end

