-- ==== Sys2Proof/Machine/Interrupts.lean ====
section
/-! DEFINITION. The interrupt controller: sources, vectors, messages, completion, and the handlers of the Thimble cores
(R389 to R401). -/

namespace Sys2Proof.Machine

open Sys2Proof

/-! ### Sources (R389, R391) -/

/-- The source goes to the host. -/
def hostSource (src : Nat) : Bool :=
  decide (src ≤ 12) || (decide (32 ≤ src) && decide (src ≤ 71)) || (decide (256 ≤ src) && decide (src < 512))

/-- The source goes to a Thimble core. -/
def innerSource (src : Nat) : Bool := decide (128 ≤ src) && decide (src ≤ 148)

/-- Fast sources. -/
def fastSource (src : Nat) : Bool :=
  (decide (64 ≤ src) && decide (src ≤ 71)) || [135, 136, 139].contains src || (decide (140 ≤ src) && decide (src ≤ 148))

/-- Level sources; the others are edge sources. -/
def levelSource (src : Nat) : Bool := (decide (src ≤ 12) && src != 11) || src == 137 || src == 138

/-- The Thimble core of an internal source. -/
def sourceCore (src : Nat) : Nat :=
  if src ≤ 130 then 2 else if src ≤ 136 then 4 else if src = 137 then 0 else if src = 138 then 3 else if src = 139 then 5 else 2

/-- A level source is asserted: any bit of its block's events. The requests of sources 137 and 138 are taken up in the
step that brings them. -/
def State.asserted (s : State) (src : Nat) : Bool :=
  match src with
  | 0 => s.fe.events != 0
  | 1 => s.ptn.events != 0
  | 2 => s.mmu.events != 0
  | 3 => s.l3c.events != 0
  | 4 => s.spl.events != 0
  | 5 => s.cmp.events != 0
  | 6 => s.pwr.events != 0
  | 7 => (s.dsp.events &&& 0x1FF) != 0
  | 8 => s.svc.events != 0
  | 9 => s.slk.events != 0
  | 10 => s.mc.events != 0
  | 12 => s.flt.events != 0 && s.leader
  | _ => false

/-- PENDING: of a level source it follows the level while the source is not in service (R395, R400). -/
def State.pendingNow (s : State) (src : Nat) : Bool :=
  if levelSource src then s.asserted src && !(s.source src).inService else (s.source src).pending

/-- A source that records of a follower never raise (R389). -/
def leaderSource (src : Nat) : Bool := (decide (32 ≤ src) && decide (src < 64)) || decide (256 ≤ src)

/-- INTERRUPT_ASSERT: an edge source sets PENDING; a level source is asserted by its block's events alone (R395). -/
def execInterruptAssert (src : Nat) (s : State) : Out :=
  .next (
    if s.die.inReset || !(hostSource src || innerSource src) || levelSource src || (leaderSource src && !s.leader) then s
    else s.raise src)

/-! ### Vectors (R393, R394) -/

/-- The reset value of VECTOR, and the values that a write may give it. -/
def vectorReset (src : Nat) : Nat :=
  if src ≤ 12 then 4 else if src < 48 then 5 else if src < 64 then 6 else if 256 ≤ src then 7
  else if src < 68 then 0 else if src < 70 then 1 else 2

def vectorAllowed (src v : Nat) : Bool :=
  if fastSource src then decide (v ≤ 3) else decide (4 ≤ v) && decide (v ≤ 18)

/-- The partition of a partition-scoped source, and the VF entry that takes it. -/
def State.scope (s : State) (src : Nat) : Option (Nat × Nat) :=
  if 32 ≤ src && src < 48 then some (src - 32, 0)
  else if 48 ≤ src && src < 64 then some (src - 48, 1)
  else if 256 ≤ src && src < 512 then some ((s.ctx (src - 256)).partition, 2)
  else none

/-- The first vector of VF `n`. -/
def vfVector (n : Nat) : Nat := 19 + 3 * (n - 1)

/-- The partition's sources deliver through its VF. -/
def State.onVf (s : State) (p : Nat) : Bool := p != 0 && (s.part p).enable && (s.part p).vf

/-- The vector on which a host source is sent. -/
def State.vectorOf (s : State) (src : Nat) : Nat :=
  let own := (s.source src).vector.getD (vectorReset src)
  match s.scope src with
  | some (p, k) => if s.onVf p then vfVector p + k else own
  | none => own

/-- The function whose table holds a vector's entry. -/
def vectorFn (v : Nat) : Nat := if v < 19 then 0 else (v - 19) / 3 + 1

def State.vector (s : State) (v : Nat) : IcVector := s.ic.vectors.get {} v
def State.updVector (s : State) (v : Nat) (f : IcVector → IcVector) : State :=
  { s with ic := { s.ic with vectors := s.ic.vectors.set v (f (s.vector v)) } }

/-- IC_VECTOR_WRITE: a value outside the allowed range of the source's class is dropped (R394). -/
def execIcVectorWrite (src v : Nat) (s : State) : Out :=
  .next (let s := s.hostWake false
    if s.feUp && hostSource src && vectorAllowed src v then s.updSource src (fun x => { x with vector := some v }) else s)

/-- IC_SOURCE_ENABLE (R395, R397). -/
def execIcSourceEnable (src : Nat) (v : Bool) (s : State) : Out :=
  .next (let s := s.hostWake false
    if s.feUp && hostSource src then s.updSource src (fun x => { x with enable := v }) else s)

/-! ### Messages and completion -/

/-- A message of a vector goes out and is counted (R401). -/
def IcVector.send (x : IcVector) : IcVector := { x with count := satAdd32 x.count 1, held := false }

/-- An entry's own mask or its function's holds messages. -/
def State.maskedNow (s : State) (v : Nat) : Bool := (s.vector v).masked || bit s.ic.functionMasks (vectorFn v)

/-- The sources that a message of a vector would carry: enabled, routed to it and pending (R395). -/
def State.ready (s : State) (v : Nat) : List Nat :=
  (s.ic.sources.map Prod.fst).filter (fun i =>
    hostSource i && (s.source i).enable && s.vectorOf i == v && s.pendingNow i)

/-- MSIX_MESSAGE_SEND: a vector without a message that awaits completion sends one for every ready source, all of which
move to IN_SERVICE; a masked entry holds it (R395, R397). -/
def execMsixMessageSend (vec : Nat) (s : State) : Out :=
  .next (
    let srcs := s.ready vec
    if !s.feUp || 64 ≤ vec || (s.vector vec).awaiting || srcs.isEmpty then s else
    let masked := s.maskedNow vec
    let s := srcs.foldl (fun (s : State) i =>
      s.updSource i (fun x => { x with pending := false, inService := true, sentOn := vec })) s
    s.updVector vec (fun x =>
      if masked then { x with awaiting := true, held := true } else { x.send with awaiting := true }))

/-- The vector of entry `e` of a function's table. -/
def State.entryVector (s : State) (fn e : Nat) : Option Nat :=
  if fn = 0 then if e < 19 then some e else none
  else if fn < 16 && e < 3 && s.onVf fn then some (vfVector fn + e) else none

/-- IC_EOI: the vector's sources leave IN_SERVICE, and it may send again (R396). -/
def execIcEoi (vf : Nat) (v : U32) (s : State) : Out :=
  .next (let s := s.hostWake false
    if !s.feUp then s else
    match s.entryVector vf (v.toNat % 64) with
    | none => s
    | some vec =>
      let s := { s with ic := { s.ic with sources := s.ic.sources.mapVals (fun i x =>
        if hostSource i && x.inService && x.sentOn == vec then { x with inService := false } else x) } }
      s.updVector vec (fun x => { x with awaiting := false }))

/-- Held messages of unmasked entries go out. -/
def State.sendHeld (s : State) : State :=
  (List.range 64).foldl (fun (s : State) v =>
    if (s.vector v).held && !s.maskedNow v then s.updVector v IcVector.send else s) s

/-- MSIX_ENTRY_UNMASK: the mask of a vector's entry clears, or from 64 on that of a function; what it held goes out
(R393, R397). -/
def execMsixEntryUnmask (e : Nat) (s : State) : Out :=
  .next (let s := s.hostWake false
    if !s.feUp || 80 ≤ e then s
    else if e < 64 then (s.updVector e (fun x => { x with masked := false })).sendHeld
    else State.sendHeld { s with ic := { s.ic with functionMasks := setBit s.ic.functionMasks (e - 64) false } })

/-! ### The Thimble cores -/

/-- The sources of a Thimble core that are in service leave it, normal ones only where `all` holds. -/
def State.endHandlers (s : State) (t : Nat) (all : Bool) : State :=
  { s with ic := { s.ic with sources := s.ic.sources.mapVals (fun i x =>
      if innerSource i && sourceCore i == t && (all || fastSource i) then { x with inService := false } else x) } }

/-- THIMBLE_INTERRUPT: a pending internal source starts its handler; a fast one runs on the second register bank and
pre-empts a normal handler (R391, R392). The handlers of the core that the new one does not pre-empt have ended. -/
def execThimbleInterrupt (src : Nat) (s : State) : Out :=
  .next (
    let t := sourceCore src
    let fast := fastSource src
    if !innerSource src || !s.thimbleUp t || !s.pendingNow src then s else
    let s := s.endHandlers t (!fast)
    let s := { s with ic := { s.ic with
      fastBank := setBit s.ic.fastBank t fast
      handler := if fast then s.ic.handler else setBit s.ic.handler t true } }
    s.updSource src (fun x => { x with pending := false, inService := true }))

end Sys2Proof.Machine
end

