-- ==== Sys2Proof/Machine/Links.lean ====
section
/-! DEFINITION. The host link, the Seam link, the memory controller, the latched counters and the test access port (R175,
R309 to R311, R467 to R491). -/

namespace Sys2Proof.Machine

open Sys2Proof

/-! ### Retraining and loss (R311) -/

/-- The modules of a link (R490). -/
def linkModules : Link → List Nat
  | .host => [0, 1]
  | .seam => [2, 3]

/-- The code of a link in a LINK record. -/
def linkCode : Link → Nat
  | .host => 0
  | .seam => 1

def State.module (s : State) (m : Nat) : Module := s.slk.modules.get {} m

/-- The trained modules of a link change. -/
def State.updLink (s : State) (l : Link) (f : Module → Module) : State :=
  { s with slk := { s.slk with modules := s.slk.modules.mapVals (fun m x =>
      if (linkModules l).contains m && x.rate != 0 then f x else x) } }

/-- Some trained module of a link is in a state of R490. -/
def State.linkIn (s : State) (l : Link) (st : BitVec 2) : Bool :=
  (linkModules l).any (fun m => (s.module m).rate != 0 && (s.module m).state == st)

/-- The retrains of a link since start. -/
def State.retrains (s : State) (l : Link) : Nat :=
  (linkModules l).foldl (fun n m => max n (s.module m).retrains.toNat) 0

/-- SLK_EVENTS bit `i` (R490). -/
def State.slkEvent (s : State) (i : Nat) : State := { s with slk := { s.slk with events := setBit s.slk.events i true } }

/-- A LINK record goes to every enabled partition, and FLT_EVENTS.LINK is set (R302, R313). -/
def State.linkRecord (s : State) (l : Link) (lost : Bool) : State :=
  (s.everyPart
    { status := 0, source := 0x0B, context := 0xFFFF, die := s.dieNo == 1
      info := BitVec.ofNat 32 (linkCode l + min (s.retrains l) 255 * 256 + lost.toNat * 65536) }).fltEvent 7

/-- A link that retries do not recover retrains (R311). -/
def State.retrainLink (s : State) (l : Link) : State :=
  ((s.updLink l (fun x => { x with state := 1, retrains := satAdd16 x.retrains 1 })).slkEvent 0).linkRecord l false

/-- LINK_RETRAIN (R311). -/
def execLinkRetrain (l : Link) (s : State) : Out :=
  .next (if s.die.inReset || !s.linkIn l 2 then s else s.retrainLink l)

/-- LINK_LOST: a link that has not retrained within 300 µs (R311). -/
def execLinkLost (l : Link) (now : Nat) (s : State) : Out :=
  .next (if s.die.inReset || !s.linkIn l 1 then s
    else
      let s := ((s.updLink l (fun x => { x with state := 3 })).slkEvent 1).linkRecord l true
      match l with
      | .host => s.restart .hostLost now
      | .seam =>
        let s := s.restart .seamLost now
        State.rewriteCaps { s with die := { s.die with partnerLost := true } })

/-- LINK_RETRAINED: the link is up again, and dispatch that waited for the host link resumes, as does a sleep entry that
waited for the retrain (R311, R487). -/
def execLinkRetrained (l : Link) (_now : Nat) (s : State) : Out :=
  .next (if s.die.inReset || !(s.linkIn l 1 || (l == .host && s.linkIn l 3)) then s
    else
      let s := s.updLink l (fun x => { x with state := 2 })
      (match l with
       | .host => { s with fe := { s.fe with awaitHost := false } }
       | .seam => s).settleSleep)

/-! ### Seam flits (R473, R474) -/

/-- The 248 message bytes, zero-filled. -/
def flitBody (f : SeamFlit) : List U8 := (f.messages ++ List.replicate 248 0).take 248

/-- The bytes 0 to 251 of a flit. -/
def flitCovered (f : SeamFlit) : List U8 :=
  toBytes 2 (f.seq.toNat + f.kind.toNat * 4096) ++ toBytes 2 f.ack.toNat ++ flitBody f

/-- The flit's check holds. -/
def flitGood (f : SeamFlit) : Bool := f.crc == crc32c (flitCovered f)

/-- The flit with its check. -/
def flitSealed (f : SeamFlit) : SeamFlit := { f with crc := crc32c (flitCovered f) }

/-- The whole messages at the front of a stream of bytes by channel, and the bytes of one that goes on in the next flit;
a header of length 0 is fill, and the rest of the flit is left. -/
def takeMessages : (fuel : Nat) → List U8 → List (Nat × List U8) × List U8
  | 0, _ => ([], [])
  | fuel + 1, bs =>
    let n := 4 * field bs 1 1
    if bs.length < 2 || n = 0 then ([], [])
    else if bs.length < n then ([], bs)
    else
      let r := takeMessages fuel (bs.drop n)
      ((field bs 0 1 % 4, bs.take n) :: r.1, r.2)

/-- Messages are delivered in order on their channels. -/
def Slk.deliver (k : Slk) (bs : List U8) : Slk :=
  let r := takeMessages 400 (k.part ++ bs)
  { k with
    part := r.2
    delivered := r.1.foldl (fun (m : TMap (List (List U8))) e => m.set e.1 (m.get [] e.1 ++ [e.2])) k.delivered }

/-- The die sends a flit that carries no messages: TYPE 2 or 3. -/
def Slk.control (k : Slk) (kind : BitVec 4) (seq : BitVec 12) : Slk :=
  let f : SeamFlit := { seq := seq, kind := kind, ack := k.expected - 1, messages := List.replicate 248 0, crc := 0 }
  { k with sent := k.sent ++ [flitSealed f] }

/-- A retry request names the first missing sequence; 16 in a row without progress make the link retrain. -/
def State.askRetry (s : State) : State :=
  let k := s.slk.control 3 s.slk.expected
  if 16 ≤ k.attempts + 1 then State.retrainLink { s with slk := { k with attempts := 0 } } .seam
  else { s with slk := { k with attempts := k.attempts + 1 } }

/-- Kept flits up to an acknowledged sequence are dropped. -/
def Slk.acked (k : Slk) (ack : BitVec 12) : Slk :=
  { k with replay := k.replay.filter (fun f => decide ((ack - f.seq).toNat ≥ 2048)) }

/-- A flit in sequence: progress, its messages, and an ACK at the 64th since the last. The sequence number that the
acknowledgement itself carries is a free value. -/
def State.acceptFlit (s : State) (f : SeamFlit) : State :=
  let k := { s.slk with expected := s.slk.expected + 1, attempts := 0, unacked := s.slk.unacked + 1 }
  let k := if f.kind = 0 then k.deliver (flitBody f) else k
  if 64 ≤ k.unacked then
    let (n, s) := s.free
    { s with slk := { k.control 2 (BitVec.ofNat 12 n) with unacked := 0 } }
  else { s with slk := k }

/-- Flits from a named sequence on are sent again. -/
def Slk.resend (k : Slk) (seq : BitVec 12) : Slk × Nat :=
  let fs := k.replay.filter (fun f => decide ((f.seq - seq).toNat < 2048))
  ({ k with sent := k.sent ++ fs }, fs.length)

/-- SEAM_FLIT_RECEIVE. Flits of TYPE 0 and 1 take a sequence number; one that repeats an earlier number is dropped. -/
def execSeamFlitReceive (f : SeamFlit) (s : State) : Out :=
  .next (if s.die.inReset || s.slk.level = 0 || !s.linkIn .seam 2 then s
    else
      let s := { s with slk := { s.slk with sent := [] } }
      if !flitGood f then
        let m : Module := s.module 2
        State.askRetry
          { s with slk := { s.slk with modules := s.slk.modules.set 2 { m with crcErrors := satAdd32 m.crcErrors 1 } } }
      else
        let s := { s with slk := s.slk.acked f.ack }
        if f.kind.toNat ≤ 1 then
          if f.seq = s.slk.expected then s.acceptFlit f
          else if (f.seq - s.slk.expected).toNat < 2048 then s.askRetry
          else s
        else if f.kind = 3 then
          let r := s.slk.resend f.seq
          let m : Module := s.module 2
          { s with slk := { r.1 with modules := r.1.modules.set 2 { m with retries := satAdd32 m.retries r.2 } } }
        else s)

/-! ### CXL.mem and CXL.cache (R469, R470) -/

/-- Host traffic is served: the die runs in Run, Idle or Doze. -/
def State.memUp (s : State) : Bool := s.feUp && (s.pwr.state == .run || s.pwr.state == .doze)

/-- An access of the host meets an uncorrectable error (R310). -/
def State.hostDram (s : State) (line : Nat) : State := (s.dramFails line).dramRecord line true

/-- An access of the host to a line of DRAM is served through its home L3: the cluster L2s' copies follow the directory, and
the DRAM traffic is charged to the partition that owns the line, or to partition 0 (R202, R204, R470). -/
def State.hostServed (s : State) (a n : Nat) (wr : Bool) : State :=
  let p := s.partOf a
  (s.l2Others p 8 none a wr).l3Access p none a n wr false

/-- CXL_MEM_ACCESS: an access within usable DRAM, charged to the DRAM regulator of the owner of its line; no windows are
checked (R470). -/
def execCxlMemAccess (a : HostAccess) (s : State) : Out :=
  .next (match a with
    | .read addr damaged =>
      let line := addr / 64 * 64
      if !s.memUp || s.capacity < line + 64 then s
      else
        let s := s.hostServed line 64 false
        if s.failing line 64 || damaged then
          let s := s.hostDram line
          { s with mc := { s.mc with answer := [], damaged := true } }
        else { s with mc := { s.mc with answer := s.peek line 64, damaged := false } }
    | .write addr bytes =>
      let bytes := bytes.take (64 - addr % 64)
      if !s.memUp || s.capacity < addr + bytes.length || bytes.isEmpty then s
      else
        let s := s.hostServed addr bytes.length true
        if s.failingPart addr bytes.length then s.hostDram (addr / 64 * 64)
        else s.poke addr bytes)

/-- CXL_CACHE_SNOOP: a snoop of a host line is answered with the line's bytes. The cluster L2s that hold it keep a clean
copy, or none after a snoop that invalidates; an L1 is never coherent and keeps its own (R206, R469). -/
def execCxlCacheSnoop (addr : Nat) (inv : Bool) (s : State) : Out :=
  .next (if !s.memUp then s
    else
      let a := targetBase 2 + addr % 2 ^ 50 / 64 * 64
      let s := s.l2Others (s.partOf a) 8 none a inv
      { s with mc := { s.mc with answer := s.peek a 64, damaged := false } })

/-! ### The memory controller (R477, R478, R488, R489) -/

/-- The devices are refreshed by the memory controller. -/
def State.refreshing (s : State) : Bool := s.feUp

/-- DRAM_REFRESH: the memory cycles that deliveries of a channel waited for a refresh (R477). -/
def execDramRefresh (ch cycles : Nat) (s : State) : Out :=
  .next (if !s.refreshing || 16 ≤ ch then s
    else s.updChannel ch (fun x => { x with stalls := satAdd64 x.stalls cycles }))

/-- REFRESH_RATE_READ: the reports of the 16 channels' devices, and DERATE where one asks for a shorter interval than the
nominal one, whose code is 3 (R477, R489). -/
def execRefreshRateRead (rates : List Nat) (s : State) : Out :=
  .next (if !s.refreshing then s
    else
      let rs := (List.range 16).zip rates
      let s := rs.foldl (fun (s : State) e => s.updChannel e.1 (fun x => { x with rate := BitVec.ofNat 3 e.2 })) s
      if rs.any (fun e => decide (3 < e.2 % 8)) then s.mcEvent 3 else s)

/-- One error of a scrub pass. -/
def State.scrubbed (s : State) (e : DramError) : State :=
  if s.capacity ≤ e.addr then s
  else if e.corrected then
    s.channelCorrected e.addr (fun x => { x with ce := satAdd32 x.ce 1 })
  else (s.dramFails e.addr).dramRecord e.addr false

/-- DRAM_SCRUB: a pass over usable DRAM ends, with the errors it found (R310, R478). DESIGN CHOICE (assumption 113): the
scrubbing that an expiry of watchdog T5 stops (R26) is the repair controller's, and the memory controller's goes on. -/
def execDramScrub (errs : List DramError) (s : State) : Out :=
  .next (if !s.memUp || !s.mc.scrub || !s.die.inlineEcc then s
    else (errs.foldl (fun (s : State) e => s.scrubbed e) s).mcEvent 4)

/-! ### Latched counters (R175) -/

/-- The counter whose _LO register lies at a BAR0 offset, as its 64 bits. -/
def State.counterAt (s : State) (off : Nat) : Option U64 :=
  if off = 0x90040 then some s.pwr.energy
  else if 0xB4000 ≤ off && off < 0xB8000 then
    let x := s.ctx ((off - 0xB4000) / 0x40)
    match off % 0x40 with
    | 0x08 => some x.work
    | 0x10 => some x.mem
    | 0x18 => some x.link
    | 0x20 => some x.refresh
    | 0x28 => some x.retry
    | 0x30 => some x.killed
    | _ => none
  else if 0xE0100 ≤ off && off < 0xE0300 && (off - 0xE0100) % 0x20 = 0x10 then
    some ((s.mc.channels.get {} ((off - 0xE0100) / 0x20)).stalls)
  else none

/-- A read of the register at an offset, whose current value is given: a read of a _LO register latches its partner, and
the next read of the partner returns the latched value (R175). -/
def State.throughLatch (s : State) (off n : Nat) : Nat × State :=
  match s.counterAt off with
  | some v =>
    (n, { s with det := { s.det with latches := s.det.latches.set off ((v >>> 32).truncate 32) } })
  | none =>
    match if 4 ≤ off && (s.counterAt (off - 4)).isSome then s.det.latches.find (off - 4) else none with
    | some x => (x.toNat, { s with det := { s.det with latches := s.det.latches.del (off - 4) } })
    | none => (n, s)

/-- COUNTER_LO_READ: the _HI partner is latched, under the offset of the _LO register. -/
def execCounterLoRead (off : Nat) (s : State) : Out :=
  .next (if !s.feUp then s
    else
      if (s.counterAt off).isSome then (s.throughLatch off 0).2 else s)

/-! ### Test access (R486) -/

/-- The port is not held in reset, and an instruction selects its data register. -/
def State.jtagSelect (s : State) (i : JtagInstr) (data : U32) : State := { s with jtag := { instr := i, data := data } }

/-- BYPASS: the one-bit register captures 0. -/
def execBypass (s : State) : Out := .next (s.jtagSelect .bypass 0)

/-- IDCODE reads 0x1090_BB47. -/
def execIdcode (s : State) : Out := .next (s.jtagSelect .idcode 0x1090BB47)

/-- SAMPLE/PRELOAD selects the boundary-scan register; the levels of the bumps that it captures are a free value. -/
def execSamplePreload (s : State) : Out :=
  let (n, s) := s.free
  .next (s.jtagSelect .samplePreload (BitVec.ofNat 32 n))

/-- EXTEST is accepted only while DIE_RST_N is low; what the boundary-scan register captures is a free value. -/
def execExtest (s : State) : Out :=
  .next (if !s.die.pinLow then s
    else
      let (n, s) := s.free
      s.jtagSelect .extest (BitVec.ofNat 32 n))

/-- CLAMP is accepted only while DIE_RST_N is low; it selects the bypass register. -/
def execClamp (s : State) : Out := .next (if s.die.pinLow then s.jtagSelect .clamp 0 else s)

/-- HIGHZ selects the bypass register. -/
def execHighz (s : State) : Out := .next (s.jtagSelect .highz 0)

end Sys2Proof.Machine
end

