-- ==== Sys2Proof/Machine/Power.lean ====
section
/-! DEFINITION. The PWR block: the platform, performance levels, coolant, temperature, the power limit, clock gating, and
the commands that enter and leave the sleep states (R404 to R419). -/

namespace Sys2Proof.Machine

open Sys2Proof

/-! ### Platform and levels -/

/-- A write of PWR_PLATFORM, over BAR0 or the service port: dropped once locked, and rejected where it permits P0 or P1
without liquid cooling (R404). -/
def State.platformWrite (s : State) (v : U32) : State :=
  let top : BitVec 3 := (v >>> 4).truncate 3
  if s.pwr.locked then s
  else if top.toNat < 2 && !bit v 0 then s.pwrEvent 9
  else State.regrant { s with pwr := { s.pwr with cooling := bit v 0, topLevel := top } }

def execPwrPlatformWrite (v : U32) (s : State) : Out := .next (if s.feUp then s.platformWrite v else s)

/-- PWR_LEVEL_REQ (R405, R422). -/
def execPwrLevelReq (v : U32) (s : State) : Out :=
  .next (if s.feUp then State.regrant { s with pwr := { s.pwr with req := v.truncate 3 } } else s)

/-- LEVEL_CHANGE: the change that runs ends with its target in force (R406). -/
def execLevelChange (s : State) : Out :=
  .next (if s.thimbleUp 4 && s.pwr.changing then { s with pwr := s.pwr.changed } else s)

/-! ### Coolant (R407) -/

/-- COOLANT_LOSS: at P0 and P1 the islands are held to the P2 frequency at once; the coolant cause applies, and what T4
cannot do in Nap and Hold follows at the exit (R407, R419). -/
def execCoolantLoss (s : State) : Out :=
  .next (if s.die.inReset || s.pwr.state = .off || !s.pwr.coolantOk then s
    else
      let x := { s.pwr with
        coolantOk := false, coolant := true, losses := satAdd16 s.pwr.losses 1
        clamp := if s.pwr.current.toNat < 2 && s.pwr.clamp.isNone then some 2 else s.pwr.clamp }
      (((State.pwrEvent { s with pwr := x } 1).raise 68).raise 135).regrant)

/-- COOLANT_RESTORE: COOLANT_OK has been high for 1 s (R407). -/
def execCoolantRestore (s : State) : Out :=
  .next (if s.die.inReset || s.pwr.state = .off || s.pwr.coolantOk then s
    else
      ((State.pwrEvent { s with pwr := { s.pwr with coolantOk := true, coolant := false } } 2).raise 135).regrant)

/-! ### Temperature (R408 to R411) -/

/-- Some sensor reads at or above a threshold in °C. -/
def Pwr.hotter (x : Pwr) (deg : Nat) : Bool := x.temps.any (fun e => decide (8 * deg ≤ e.2))

/-- Every sensor reads below THROTTLE less HYST. -/
def Pwr.cool (x : Pwr) : Bool := !x.hotter (x.throttle.toNat - x.hyst.toNat)

/-- The sensors are sampled: in every state except Off, and after a critical stop. -/
def State.sensing (s : State) : Bool := (!s.die.inReset || s.pwr.critical) && s.pwr.state != .off

/-- SENSOR_SAMPLE: the 12 readings, THERM_ALERT_N, and the end of the trip cause (R408, R410, R411). -/
def execSensorSample (temps : List Nat) (s : State) : Out :=
  .next (if !s.sensing then s
    else
      let ts : TMap Nat := ((List.range 12).zip temps).foldl (fun (m : TMap Nat) e => m.set e.1 e.2) s.pwr.temps
      let x := { s.pwr with temps := ts }
      let alert := x.critical || x.hotter x.alertAt.toNat ||
        (x.alert && x.hotter (x.alertAt.toNat - x.hyst.toNat))
      let ends := x.trip && x.cool
      let s := { s with pwr := { x with alert := alert, trip := x.trip && !ends } }
      if ends then s.regrant else s)

/-- The level of every cause but one. -/
def Pwr.others (x : Pwr) (cause : Nat) : Nat := (slowest (x.levels.filter (fun e => e.1 != cause))).2

/-- One step slower than a cause's level, or than the level in force where the cause does not apply yet. -/
def slower (own : Option (BitVec 3)) (others : Nat) : Option (BitVec 3) :=
  some (BitVec.ofNat 3 (min 7 ((own.elim others BitVec.toNat) + 1)))

/-- One step faster; at and above the level of the other causes the cause no longer applies (R409, R412). -/
def faster (own : Option (BitVec 3)) (others : Nat) : Option (BitVec 3) :=
  own.bind (fun l => if l.toNat - 1 ≤ others then none else some (l - 1))

/-- THERMAL_THROTTLE_STEP (R409). -/
def execThermalThrottleStep (s : State) : Out :=
  .next (
    let x := s.pwr
    if !s.thimbleUp 4 || x.temps.isEmpty then s
    else if x.hotter x.throttle.toNat then
      let t := { s with pwr := { x with thermal := slower x.thermal (x.others 3) } }
      (if x.thermal.isNone then t.pwrEvent 3 else t).regrant
    else if x.cool then State.regrant { s with pwr := { x with thermal := faster x.thermal (x.others 3) } }
    else s)

/-- THERMAL_TRIP: the islands are held to the P7 frequency at once, and the trip cause applies; in Hold nothing runs to
slow (R411, R419). -/
def execThermalTrip (s : State) : Out :=
  .next (if s.die.inReset || s.pwr.state = .hold || s.pwr.state = .off then s
    else
      (((State.pwrEvent { s with pwr := { s.pwr with trip := true, clamp := if s.pwr.current = 7 then none else some 7 } } 4).raise 69).raise 136).regrant)

/-- CRITICAL_STOP: every island stops but the sensors and the THERM_ALERT_N driver (R411). -/
def execCriticalStop (s : State) : Out :=
  .next (if s.die.inReset || s.pwr.state = .off then s
    else
      { s with
        die := { s.die with inReset := true, thimbles := 0 }
        pwr := { s.pwr with critical := true, alert := true }
        slk := { s.slk with modules := s.slk.modules.mapVals (fun _ m => { m with state := 0 }) } })

/-! ### The power limit and clock gating -/

/-- POWER_LIMIT_WINDOW: the window's energy, in units of 2^-14 J, is added and compared with the limit (R412). -/
def execPowerLimitWindow (energy : Nat) (s : State) : Out :=
  .next (if s.die.inReset || s.pwr.state = .off then s
    else
      let x := { s.pwr with energy := s.pwr.energy + BitVec.ofNat 64 energy }
      let allowed := x.watts.toNat * x.window.toNat * 16384
      if !s.thimbleUp 4 then { s with pwr := x }
      else if x.watts = 0 then State.regrant { s with pwr := { x with limit := none, limitLow := 0 } }
      else if allowed < 1000 * energy then
        (State.pwrEvent { s with pwr := { x with limit := slower x.limit (x.others 4), limitLow := 0 } } 5).regrant
      else if 10000 * energy < 9 * allowed then
        if x.limitLow + 1 < 10 then { s with pwr := { x with limitLow := x.limitLow + 1 } }
        else State.regrant { s with pwr := { x with limit := faster x.limit (x.others 4), limitLow := 0 } }
      else { s with pwr := { x with limitLow := 0 } })

/-- ISLAND_CLOCK_GATE: an island without a resident block is gated (R414). -/
def execIslandClockGate (core : Nat) (s : State) : Out :=
  .next (if s.die.inReset || s.pwr.state ≠ .run || 64 ≤ core || s.blocks.any (fun b => b.2.core == core) then s
    else { s with pwr := { s.pwr with gated := setBit s.pwr.gated core true } })

/-- The die is in Idle: every live island is gated and the Shuttle has no ready command (R414). -/
def State.idle (s : State) : Bool :=
  s.pwr.state == .run && s.liveSlots.all (fun k => bit s.pwr.gated k) &&
    !s.jobs.any (fun e => e.2.st == .ready || e.2.st == .rerun)

/-! ### Sleep and wake -/

/-- PWR_SLEEP: dropped on a follower, and with SLEEP_REFUSED during an entry (R415, R418, R419). -/
def State.sleepWrite (s : State) (t : PowerState) : State :=
  if !s.feUp || !s.thimbleUp 4 || !s.leader then s
  else if s.pwr.entry.isSome then s.pwrEvent 7
  else State.settle { s with pwr := { s.pwr with entry := some t, step := 0 } }

def execSleepDoze (s : State) : Out := .next (s.sleepWrite .doze)
def execSleepNap (s : State) : Out := .next (s.sleepWrite .nap)
def execSleepHold (s : State) : Out := .next (s.sleepWrite .hold)
def execSleepOff (s : State) : Out := .next (s.sleepWrite .off)

/-- SLEEP_ENTRY_REFUSED: a non-restartable command has not committed 10 ms into step 1 (R415). -/
def execSleepEntryRefused (s : State) : Out :=
  .next (if s.pwr.entry.isSome && s.pwr.step = 1 then
      State.pwrEvent { s with pwr := { s.pwr with entry := none, step := 0, result := 0x20 } } 7
    else s)

/-- WAKE_PIN: a wake event of an enabled pin (R391, R416, R417). -/
def execWakePin (w : Nat) (s : State) : Out :=
  .next (
    let c : WakeCfg := s.pwr.wakeCfg.get {} w
    if s.die.inReset || 4 ≤ w || !c.enable || s.pwr.state = .off then s else (s.wake w).raise (131 + w))

/-- SIDEBAND_WAKE: the UCIe sideband's wake message, where it is enabled (R416, R417). -/
def execSidebandWake (s : State) : Out :=
  .next (if s.die.inReset || !s.pwr.wakeSideband then s else s.wake 5)

end Sys2Proof.Machine
end

