-- ==== Sys2Proof/Machine/Ray.lean ====
section
/-! DEFINITION. Ray traversal: nodes, box and triangle tests, the traversal stack and TRACE (R337 to R341). -/

namespace Sys2Proof.Machine

open Sys2Proof

/-! ### Rays and boxes -/

/-- The words of a ray: origin x, y, z, tmin, direction x, y, z, tmax (R339). -/
abbrev RayWords := List U32

def rayWord (r : RayWords) (i : Nat) : U32 := (r[i]?).getD 0

def FVal.isInfPos : FVal → Bool
  | .inf false => true
  | _ => false

/-- A value as far as a comparison against a rational needs it: none stands for plus infinity. -/
def upperRat (c : U32) : Option Rat := ratOf c

/-- The slab of one axis: the interval of t that lies between two planes; none is empty, and an absent bound is
infinite. -/
def slab (o d lo hi : Rat) : Option (Option Rat × Option Rat) :=
  if d = 0 then (if lo ≤ o ∧ o ≤ hi then some (none, none) else none)
  else
    let a := (lo - o) / d
    let b := (hi - o) / d
    some (some (min a b), some (max a b))

/-- The first t in [tmin, far] at which the exact ray meets a box, if any; an absent `far` is infinite. -/
def boxEnter (o d lo hi : List Rat) (tmin : Rat) (far : Option Rat) : Option Rat :=
  let axes := (List.range 3).map (fun i =>
    slab ((o[i]?).getD 0) ((d[i]?).getD 0) ((lo[i]?).getD 0) ((hi[i]?).getD 0))
  axes.foldl (fun (m : Option (Rat × Option Rat)) a =>
    match m, a with
    | some (n, f), some (x, y) =>
      let n := match x with
        | some x => max n x
        | none => n
      let f := match f, y with
        | some f, some y => some (min f y)
        | none, y => y
        | f, none => f
      (match f with
       | some v => if n ≤ v then some (n, f) else none
       | none => some (n, f))
    | _, _ => none) (some (tmin, far)) |>.bind (fun e =>
      match e.2 with
      | some v => if e.1 ≤ v then some e.1 else none
      | none => some e.1)

/-- The words that a box is named by where its test is the unit's own. -/
def boxWords (lo hi : List Rat) : List Nat := (lo ++ hi).flatMap (fun r => [r.num.toNat, (-r.num).toNat, r.den])

/-- The distance beyond which nothing counts: the committed t, else tmax. -/
def Trav.far (x : Trav) : U32 := (x.best.map Hit.t).getD (rayWord x.ray 7)

/-- A box test of a ray (R338): never false for a box that the exact segment meets; where it is true, the order in which
the box is visited. -/
def boxTest (ray : RayWords) (far : U32) (lo hi : List Rat) : Option Rat :=
  let ws := ray.map BitVec.toNat ++ [far.toNat]
  let odd := if Config.boxSpurious ws (boxWords lo hi) then some (Config.boxEntry ws (boxWords lo hi)) else none
  let o := (List.range 3).map (fun i => ratOf (rayWord ray i))
  let d := (List.range 3).map (fun i => ratOf (rayWord ray (4 + i)))
  match o.mapM id, d.mapM id, ratOf (rayWord ray 3) with
  | some o, some d, some tmin =>
    if (Fmt.fp32.decode far.toNat).isInfPos || (ratOf far).isSome then
      (match boxEnter o d lo hi tmin (upperRat far) with
       | some t => some t
       | none => odd)
    else odd
  | _, _, _ => odd

/-! ### Nodes (R337) -/

def nodeFloat (b : List U8) (i : Nat) : Option Rat := ratOf (BitVec.ofNat 32 (field b i 4))

/-- A signed byte. -/
def i8 (b : List U8) (i : Nat) : Int := signedOf 8 (field b i 1)

/-- 2 to a signed power. -/
def pow2 (e : Int) : Rat := if 0 ≤ e then (2 ^ e.toNat : Nat) else mkRat 1 (2 ^ (-e).toNat)

/-- The box of child `c` of an internal node; none where the origin is not finite. -/
def childBox (b : List U8) (c : Nat) : Option (List Rat × List Rat) :=
  ((List.range 3).mapM (fun i => (nodeFloat b (8 + 4 * i)).map (fun o =>
    let w := pow2 (i8 b (2 + i))
    (o + (field b (20 + 6 * c + i) 1 : Nat) * w, o + (field b (23 + 6 * c + i) 1 + 1 : Nat) * w)))).map
    (fun l => (l.map Prod.fst, l.map Prod.snd))

/-- A ray in an instance's space: each component exact and rounded once (R338). -/
def toObject (m : List U8) (ray : RayWords) : RayWords :=
  let row := fun i (v : Nat) (one : Bool) =>
    let term := fun j => FVal.mul (Fmt.fp32.decode (field m (16 * i + 4 * j) 4)) (Fmt.fp32.decode (rayWord ray (v + j)).toNat)
    let last := if one then Fmt.fp32.decode (field m (16 * i + 12) 4) else .fin true 0 0
    (BitVec.ofNat 32 (Fmt.fp32.encode .rne false
      (FVal.addWith .rne (FVal.addWith .rne (FVal.addWith .rne (term 0) (term 1)) (term 2)) last)) : U32)
  (List.range 3).map (fun i => row i 0 true) ++ [rayWord ray 3] ++ (List.range 3).map (fun i => row i 4 false) ++
    [rayWord ray 7]

/-! ### Traversal -/

/-- How a thread's traversal goes on. -/
inductive TravEnd where
  /-- no candidate is left -/
  | done
  | candidate
  | undefined
  | failed (f : ProbeFail)
  /-- a node lies on a failing line of DRAM -/
  | dram (pa : Nat)
  /-- the unit has not finished -/
  | more
deriving DecidableEq, Repr

/-- The flags of a ray: those of START's SC (R339). -/
def Trav.flag (x : Trav) (i : Nat) : Bool := bit x.flags i
def Trav.mask (x : Trav) : Nat := x.flags.toNat / 256 % 256

/-- A stack of 32 entries: the farthest are dropped and the restart marked (R340). -/
def Trav.push (x : Trav) (es : List StackEntry) : Trav :=
  let st := es ++ x.stack
  { x with stack := st.take 32, restart := x.restart || decide (32 < st.length) }

/-- Insertion by entry distance, ties keeping the lower slot first. -/
def insertBy (e : Rat × StackEntry) : List (Rat × StackEntry) → List (Rat × StackEntry)
  | [] => [e]
  | f :: l => if e.1 < f.1 then e :: f :: l else f :: insertBy e l

/-- The children of an internal node that the ray meets, nearest first. -/
def hitChildren (x : Trav) (ray : RayWords) (b : List U8) (inst : Option Nat) : List StackEntry :=
  let cs := (List.range (field b 1 1)).filterMap (fun c =>
    let kind := field b (88 + c) 1
    if kind = 0 || Nat.land (field b (94 + c) 1) x.mask = 0 then none else
    let e : StackEntry := { node := field b 56 8 + 128 * field b (64 + 4 * c) 4, kind := kind, inst := inst }
    match childBox b c with
    | some box => (boxTest ray x.far box.1 box.2).map (fun t => (t, e))
    | none =>
      let ws := ray.map BitVec.toNat ++ [x.far.toNat]
      let box := c :: b.map BitVec.toNat
      if Config.boxSpurious ws box then some (Config.boxEntry ws box, e) else none)
  (cs.foldl (fun l e => insertBy e l) []).map Prod.snd

/-- A node is defined: TYPE and COUNT, and the kinds of an internal node's children (R337, R341). -/
def nodeDefined (b : List U8) : Bool :=
  match field b 0 1 with
  | 1 => decide (1 ≤ field b 1 1) && decide (field b 1 1 ≤ 6) &&
    (List.range 6).all (fun c => decide (field b (88 + c) 1 ≤ 4))
  | 2 => decide (1 ≤ field b 1 1) && decide (field b 1 1 ≤ 3)
  | 3 => true
  | 4 => true
  | _ => false

/-- The instance leaf's flags apply to what lies under it. -/
def instFlag (il : List U8) (i : Nat) : Bool := field il 2 1 / 2 ^ i % 2 == 1

/-- A triangle is opaque: the ray's flags govern over the instance's, and those over the leaf's bit. -/
def Trav.opaqueTri (x : Trav) (il : List U8) (leaf : Bool) : Bool :=
  if x.flag 0 then true else if x.flag 1 then false
  else if instFlag il 0 then true else if instFlag il 1 then false else leaf

/-- `a` lies in [tmin, far): a hit nearer than the committed one (R338, R339). -/
def nearer (ray : RayWords) (far a : U32) : Bool :=
  let v := Fmt.fp32.decode a.toNat
  !v.isNan && !FVal.lt v (Fmt.fp32.decode (rayWord ray 3).toNat) && FVal.lt v (Fmt.fp32.decode far.toNat)

/-- A committed hit: with "end at first hit" nothing is left to visit. -/
def Trav.commit (x : Trav) (h : Hit) : Trav :=
  if x.flag 2 then { x with best := some h, stack := [], restart := false } else { x with best := some h }

/-- The node at an address of the group's context, probed and read as any access. -/
def State.fetchNode (s : State) (j c va : Nat) : State × (TravEnd ⊕ List U8) :=
  match s.probe c [(va, 128, .read)] with
  | (some f, s) => (s, .inl (.failed f))
  | (none, s) =>
    match s.dramAt c va 128 .read false with
    | some pa => (s, .inl (.dram pa))
    | none =>
      let s := s.traffic j c [(va, 128, .read)]
      (s, .inr (s.vread c va 128))

/-! ### Triangles -/

/-- The exact cross and dot products. -/
def cross (a b : List Rat) : List Rat :=
  let x := fun i => (a[i]?).getD 0
  let y := fun i => (b[i]?).getD 0
  [x 1 * y 2 - x 2 * y 1, x 2 * y 0 - x 0 * y 2, x 0 * y 1 - x 1 * y 0]

def dot3 (a b : List Rat) : Rat := ((a.zip b).map (fun p => p.1 * p.2)).foldl (· + ·) 0

/-- One of the two FP32 codes around an exact value, its own where FP32 holds it. -/
def triangleCode (r : Rat) : U32 :=
  BitVec.ofNat 32 (Fmt.fp32.encode (if Config.triangleUp r.num r.den then .rup else .rdn) false (ratVal r))

/-- The triangle test of R338: t, the weights u and v of the second and third vertex, and the face. The sides of the
three edges decide a hit, an edge's own points counting, so that two triangles that share an edge leave no gap between
them; a triangle seen edge-on is missed. DESIGN CHOICE: the sides are those of exact arithmetic on the FP32 words, and
t, u and v the FP32 codes around their exact values (assumption 115). -/
def triangleTest (ray : RayWords) (vs : List U32) : Option (U32 × U32 × U32 × Bool) :=
  match (ray.take 3).mapM ratOf, ((ray.drop 4).take 3).mapM ratOf, vs.mapM ratOf with
  | some o, some d, some w =>
    let corner := fun i => ((w.drop (3 * i)).zip o).map (fun p => p.1 - p.2)
    let a := corner 0
    let b := corner 1
    let c := corner 2
    let x := dot3 d (cross c b)
    let y := dot3 d (cross a c)
    let z := dot3 d (cross b a)
    let det := x + y + z
    let normal := cross (((b.zip a).map (fun p => p.1 - p.2))) ((c.zip a).map (fun p => p.1 - p.2))
    if det = 0 || !((0 ≤ x && 0 ≤ y && 0 ≤ z) || (x ≤ 0 && y ≤ 0 && z ≤ 0)) then none else
    some (triangleCode (dot3 normal a / dot3 normal d), triangleCode (y / det), triangleCode (z / det),
      decide (0 < dot3 normal d) == Config.counterClockwiseFront)
  | _, _, _ =>
    (Config.triangleHit (ray.map BitVec.toNat) (vs.map BitVec.toNat)).map (fun h =>
      (BitVec.ofNat 32 h.1, BitVec.ofNat 32 h.2.1, BitVec.ofNat 32 h.2.2.1, h.2.2.2))

/-- The triangles of a leaf from the `k`-th on: the first that ends the instruction with a candidate, if any. -/
def triangles (x : Trav) (ray : RayWords) (b il : List U8) (e : StackEntry) (inst group : U32) :
    (n k : Nat) → Trav × Bool
  | 0, _ => (x, false)
  | n + 1, k =>
    match triangleTest ray ((List.range 9).map (fun i => BitVec.ofNat 32 (field b (16 + 36 * k + 4 * i) 4))) with
    | none => triangles x ray b il e inst group n (k + 1)
    | some (t, u, v, back) =>
      let h : Hit :=
        { t := t, u := u, v := v, prim := BitVec.ofNat 32 (field b 8 4 + k), geom := BitVec.ofNat 32 (field b 4 4), inst := inst, back := back,
          group := group }
      let culled := !instFlag il 2 && ((back && x.flag 3) || (!back && x.flag 4))
      if culled || !nearer ray x.far h.t then triangles x ray b il e inst group n (k + 1)
      else if x.opaqueTri il (field b 2 1 / 2 ^ k % 2 == 1) then
        let y := x.commit h
        if x.flag 2 then (y, false) else triangles y ray b il e inst group n (k + 1)
      else
        let rest := { e with next := k + 1 }
        ({ x with cand := some h, procedural := false, stack := rest :: x.stack }, true)

/-- A traversal goes on until it ends, a candidate stops it, or a node cannot be used (R338 to R341). -/
def traverse (j c : Nat) : (fuel : Nat) → State → Trav → State × Trav × TravEnd
  | 0, s, x => (s, x, .more)
  | fuel + 1, s, x =>
    match x.stack with
    | [] =>
      if x.restart then traverse j c fuel s { x with stack := [{ node := x.root, kind := 0 }], restart := false }
      else (s, x, .done)
    | e :: st =>
      match s.fetchNode j c e.node with
      | (s, .inl f) => (s, x, f)
      | (s, .inr b) =>
        if !nodeDefined b then (s, x, .undefined) else
        let il := e.inst.elim (List.replicate 128 0) (fun a => s.vread c a 128)
        let ray := if e.inst.isSome then toObject (il.drop 32) x.ray else x.ray
        let odd := Config.rayOpen (x.ray.map BitVec.toNat) e.node
        let inst : U32 := BitVec.ofNat 32 (if e.inst.isSome then field il 4 4 else odd 0)
        let group : U32 := BitVec.ofNat 32 ((if e.inst.isSome then field il 8 4 else odd 1) % 2 ^ 24)
        let y := { x with stack := st }
        match field b 0 1 with
        | 1 => traverse j c fuel s (y.push (hitChildren y ray b e.inst))
        | 2 =>
          let r := triangles y ray b il e inst group (field b 1 1 - e.next) e.next
          if r.2 then (s, r.1, .candidate) else traverse j c fuel s r.1
        | 3 =>
          if e.inst.isSome then (s, x, .undefined)
          else if Nat.land (field b 1 1) x.mask = 0 then traverse j c fuel s y
          else traverse j c fuel s (y.push [{ node := field b 16 8, kind := 0, inst := some e.node }])
        | _ =>
          let lo := (List.range 3).mapM (fun i => nodeFloat b (16 + 4 * i))
          let hi := (List.range 3).mapM (fun i => nodeFloat b (28 + 4 * i))
          let met := match lo, hi with
            | some lo, some hi => (boxTest ray x.far lo hi).isSome
            | _, _ => Config.boxSpurious (ray.map BitVec.toNat ++ [x.far.toNat]) (b.map BitVec.toNat)
          if x.flag 5 || !met then traverse j c fuel s y
          else
            let h : Hit :=
              { t := BitVec.ofNat 32 (odd 2), u := BitVec.ofNat 32 (odd 3), v := BitVec.ofNat 32 (odd 4),
                prim := BitVec.ofNat 32 (field b 8 4), geom := BitVec.ofNat 32 (field b 4 4), inst := inst,
                group := group }
            (s, { y with cand := some h, procedural := true }, .candidate)

/-- The most nodes that one thread visits in one command; the instruction's next command goes on from there. -/
def traceFuel : Nat := 0x100000

/-! ### TRACE -/

/-- The eight result words of a thread (R339); what a MISS holds besides t and the kind is not stated. -/
def Trav.words (x : Trav) (cand : Bool) : List U32 :=
  let status := fun (kind : Nat) (h : Hit) => BitVec.ofNat 32 (kind + 8 * h.back.toNat) ||| (h.group <<< 8)
  match if cand then x.cand else none, x.best with
  | some h, _ => [h.t, h.u, h.v, h.prim, h.geom, h.inst, status (if x.procedural then 3 else 2) h, h.t]
  | none, some h => [h.t, h.u, h.v, h.prim, h.geom, h.inst, status 1 h, h.t]
  | none, none =>
    let w := fun i => (BitVec.ofNat 32 (Config.rayOpen (x.ray.map BitVec.toNat) x.root (8 + i)) : U32)
    [rayWord x.ray 7, w 0, w 1, w 2, w 3, w 4, (w 5 >>> 4) <<< 4, w 6]

/-- Eight registers of a thread. -/
def Group.setEight (g : Group) (r t : Nat) (ws : List U32) : Group :=
  (List.range 8).foldl (fun (g : Group) i => g.setReg (r + i) t ((ws[i]?).getD 0)) g

/-- The numbers of a hit and of a traversal. -/
def Hit.nums (h : Hit) : List Nat :=
  [h.t.toNat, h.u.toNat, h.v.toNat, h.prim.toNat, h.geom.toNat, h.inst.toNat, h.back.toNat, h.group.toNat]

def Trav.nums (x : Trav) : List Nat :=
  [x.root, x.flags.toNat, x.procedural.toNat, x.restart.toNat] ++ x.ray.map BitVec.toNat ++
    x.best.elim [0] (fun h => 1 :: h.nums) ++ x.cand.elim [0] (fun h => 1 :: h.nums) ++
    x.stack.flatMap (fun e => [e.node, e.kind, e.next] ++ e.inst.elim [0] (fun a => [1, a]))

/-- The 256 bytes of a traversal state (R340). -/
def Trav.bytes (x : Trav) : List U8 := (List.range 256).map (fun i => BitVec.ofNat 8 (Config.travByte x.nums i))

/-- The traversal that 256 bytes stand for which are not those of a state that was put there. -/
def travOf (bs : List U8) : Trav :=
  let w := Config.travWord (bs.map BitVec.toNat)
  let u := fun i => (BitVec.ofNat 32 (w i) : U32)
  let hit := fun k => ({ t := u k, u := u (k + 1), v := u (k + 2), prim := u (k + 3), geom := u (k + 4),
                         inst := u (k + 5), back := w (k + 6) % 2 == 1, group := u (k + 7) } : Hit)
  let entry := fun i => ({ node := w i, kind := w (i + 1), next := w (i + 2),
                           inst := if w (i + 3) % 2 = 1 then some (w (i + 4)) else none } : StackEntry)
  { root := w 0, flags := u 1, ray := (List.range 8).map (fun i => u (2 + i)),
    stack := (List.range (w 10 % 33)).map (fun i => entry (64 + 5 * i)),
    best := if w 11 % 2 = 1 then some (hit 16) else none,
    cand := if w 12 % 2 = 1 then some (hit 32) else none,
    procedural := w 13 % 2 == 1, restart := w 14 % 2 == 1 }

/-- The address of a thread's traversal state: in the last 16,384 bytes of its group's slot (R340). -/
def State.travAt (s : State) (g : Group) (t : Nat) : Nat :=
  (s.privSlot g + (s.ctx (s.ctxOf g)).privPerGroup.toNat + 256 * t + 2 ^ 64 - 16384) % 2 ^ 64

/-- The traversal that a thread left at its candidate, as its bytes in private memory now give it. -/
def State.traversal (s : State) (g : Group) (t : Nat) : Option Trav :=
  (g.rays.find t).map (fun x =>
    let bs := s.vread (s.ctxOf g) (s.travAt g t) 256
    if bs = x.bytes then x else travOf bs)

/-- The die has ray traversal units (R341). -/
def State.hasRay (s : State) : Bool := s.die.part.big && s.die.part.coreSlots.any (fun k => (s.cores.get {} k).ray)

/-- Every thread of a TRACE has returned: the registers take the words. -/
def Group.returned (g : Group) (dst : Nat) : Group :=
  let y := g.traced.foldl (fun (y : Group) e => y.setEight dst e.1 e.2) g
  { y with traced := [], going := [] }

/-- The threads of a TRACE, one after another; each returns its words and leaves its state in private memory, or the
whole command traps or faults. The instruction completes when every thread has returned (R339). -/
def State.traceThreads (s : State) (i : Nat) (g : Group) (f : VForm) (start : State → Nat → Option Trav) :
    (ts : List Nat) → State
  | [] => s.setGroup i ((g.returned f.dst.toNat).advance (vWords f))
  | t :: ts =>
    if (g.traced.find t).isSome then s.traceThreads i g f start ts else
    match (g.going.find t).orElse (fun _ => start s t) with
    | none =>
      let ws := (List.range 8).map (fun k => BitVec.ofNat 32 (Config.rayOpen [] (g.upair f.sb.toNat).toNat k))
      s.traceThreads i { g with traced := g.traced.set t ws } f start ts
    | some x =>
      match traverse g.job (s.ctxOf g) traceFuel s x with
      | (s, _, .undefined) => s.trap g 1 t
      | (s, _, .failed p) => s.failJob g.job p 0
      | (s, _, .dram pa) => s.loseJob g.job (.dram (BitVec.ofNat 4 (dramChannel pa)) (BitVec.ofNat 64 pa))
      | (s, y, .more) => { s with groups := s.groups.set i { g with going := g.going.set t y } }
      | (s, y, e) =>
        let s := s.vwrite (s.ctxOf g) (s.travAt g t) y.bytes
        let s := s.noteVirtual g.job (s.ctxOf g) (s.travAt g t) 256
        s.traceThreads i
          { g with traced := g.traced.set t (y.words (e == .candidate)), going := g.going.del t,
                   rays := if e == .candidate then g.rays.set t y else g.rays.del t } f start ts

/-- A TRACE instruction (R339, R341): the traversal states of its executing threads are probed and its threads run;
`needs` is the check of SC where the mode uses it. -/
def State.trace (s : State) (i : Nat) (f : VForm) (needs : Group → U64 → Bool) (start : Group → State → Nat → Option Trav) :
    State :=
  match s.mayIssue i with
  | none => s
  | some g =>
    let e := g.executing f.pneg f.pred
    if e = 0 then s.setGroup i (g.advance (vWords f))
    else if !s.hasRay || f.sel ≠ 1 || f.sb.toNat % 2 ≠ 0 || 64 ≤ f.sb.toNat || f.sa.toNat % 4 ≠ 0 ||
        f.dst.toNat % 4 ≠ 0 || !g.names f.sa.toNat 8 || !g.names f.dst.toNat 8 || !needs g e then
      s.trap g 1 (lowest e)
    else
      (s.onGroup g).probedAs true g.job 0 ((threads e).map (fun t => (s.travAt g t, 256, .write))) (fun s =>
        s.traceThreads i g f (start g) (threads e))

/-- START: each executing thread's ray begins at the root. -/
def execTraceStart (g : Nat) (f : VForm) (s : State) : Out :=
  .next (s.trace g f (fun x _ => x.names f.sc.toNat 1) (fun x _ t =>
    let root := (x.upair f.sb.toNat).toNat
    some { root := root, flags := x.reg f.sc.toNat t,
           ray := (List.range 8).map (fun i => x.reg (f.sa.toNat + i) t), stack := [{ node := root, kind := 0 }] }))

/-- The candidate is committed, a procedural one at `t` where that is nearer (R339). -/
def Trav.accepted (y : Trav) (t : U32) : Trav :=
  let z := { y with cand := none }
  match y.cand with
  | none => z
  | some h =>
    if y.procedural then if nearer y.ray y.far t then z.commit { h with t := t } else z
    else if nearer y.ray y.far h.t then z.commit h else z

/-- ACCEPT: the candidate is committed and traversal goes on; only a procedural candidate needs SC. -/
def execTraceAccept (g : Nat) (f : VForm) (s : State) : Out :=
  .next (s.trace g f
    (fun x e => x.names f.sc.toNat 1 || (threads e).all (fun t => (x.rays.find t).all (fun y => !y.procedural)))
    (fun x s t => (s.traversal x t).map (fun y => y.accepted (x.reg f.sc.toNat t))))

/-- REJECT: traversal goes on without the candidate; SC is ignored. -/
def execTraceReject (g : Nat) (f : VForm) (s : State) : Out :=
  .next (s.trace g f (fun _ _ => true) (fun x s t => (s.traversal x t).map (fun y => { y with cand := none })))

end Sys2Proof.Machine
end

