-- ==== Sys2Proof/Machine/Start.lean ====
section
/-! DEFINITION. Reset, the staged start, pairing, the live darning map that a start builds, and the loss of power (R312,
R423 to R432, R459, R468, R484, R485). -/

namespace Sys2Proof.Machine

open Sys2Proof

/-! ### Reset -/

/-- The die after it has stopped: no on-chip state is left (R423). Memory outside the die and flash stand. -/
def State.stopped (s : State) (pin : Bool) : State :=
  { die := { part := s.die.part, stepping := s.die.stepping, pinLow := pin }
    mem := s.mem.keep (fun a => target a != 3)
    flash := s.flash
    flt := { failing := s.flt.failing }
    freeCtr := s.freeCtr
    pending := s.pending }

/-- DIE_RESET_ASSERT: DIE_RST_N falls (R423). -/
def execDieResetAssert (s : State) : Out := .next (s.stopped true)

/-- VR_PG_LOSS: VR_PG is low for 1 µs while VR_VID is not 0, which it is in Hold and Off (R483, R485). -/
def execVrPgLoss (s : State) : Out :=
  .next (if s.die.inReset || s.vrVid = 0 then s else s.stopped s.die.pinLow)

/-- POWER_LOSS: the rails fall; LPDDR5X loses its contents as well, and what flash holds decides the next start (R464). -/
def execPowerLoss (s : State) : Out :=
  .next (
    let s := s.stopped true
    { s with
      mem := s.mem.keep (fun a => target a != 0)
      flt := { s.flt with failing := [] } })

/-! ### Steps 1 to 3 -/

/-- The rates of a UCIe module in GT/s, fastest first (R467). -/
def ucieRates : List Nat := [32, 24, 16, 12, 8]

/-- The fastest rate up to a measured one and a cap; 0 where the module does not train. -/
def ucieRate (r cap : Nat) : Nat := (ucieRates.find? (fun x => decide (x ≤ r) && decide (x ≤ cap))).getD 0

/-- The common rate of a link's two modules: that of the slower one that trains. -/
def linkRate (a b : ModuleTrain) (cap : Nat) : Nat :=
  match ucieRate a.rate cap, ucieRate b.rate cap with
  | 0, y => y
  | x, 0 => x
  | x, y => min x y

/-- A module's window after training. -/
def trained (t : ModuleTrain) (rate cap : Nat) : Module :=
  if ucieRate t.rate cap = 0 then {}
  else
    { state := 2, rate := BitVec.ofNat 6 rate, width := if t.width < 64 then 32 else 64, repaired := BitVec.ofNat 8 t.repaired }

/-- The two modules of a link from number `m` on have trained: their windows, and LANE_REPAIRED and WIDTH_REDUCED. -/
def State.trainModules (s : State) (m : Nat) (a b : ModuleTrain) (cap : Nat) : State :=
  let r := linkRate a b cap
  let x := trained a r cap
  let y := trained b r cap
  let e := setBit s.slk.events 2 (bit s.slk.events 2 || x.repaired != 0 || y.repaired != 0)
  let e := setBit e 3 (bit e 3 || x.width == 32 || y.width == 32)
  { s with slk := { s.slk with modules := (s.slk.modules.set m x).set (m + 1) y, events := e } }

/-- The pipes that the part has. -/
def Part.pipeMask (p : Part) : BitVec 4 := BitVec.ofNat 4 (2 ^ p.pipes - 1)

/-- The identity, record and attestation state that T0 takes from flash (R459, R462, R465). -/
def State.readFlash (s : State) : State :=
  let r := s.actRec.1
  let n := s.limitCopy.1
  { s with svc := { s.svc with
      activeEpoch := BitVec.ofNat 32 r.active
      armedEpoch := BitVec.ofNat 32 r.armed
      act := if r.state = 2 then .armed else if r.state = 3 then .copying else .none
      next := n
      limit := n } }

/-- Steps 1 to 3: the strap is latched, and once a host module trains the die is at stage Tack with its outputs mirroring.
A die whose T0 RAM fails stays before it, and one without a host module waits. -/
def State.startTack (s : State) (i : StartInputs) : State :=
  let s := s.stopped false
  let s := { s with
    die := { s.die with inReset := false, strap := i.strap }
    pwr := { s.pwr with coolantOk := i.coolantOk } }
  if !i.t0RamOk then s
  else
    let s := { s with die := { s.die with waiting := some i } }
    if linkRate i.host0 i.host1 32 = 0 then s
    else
      let s := (s.trainModules 0 i.host0 i.host1 32).readFlash
      let out := i.badPipes &&& 1
      let s := { s with
        die := { s.die with
          stage := .tack, tackUs := i.tackUs, pipesOut := out, thimbles := if i.romOk then 0x15 else 0x01
          holdReason := if i.romOk then 0 else 3, waiting := if i.romOk then some i else none }
        dsp := { s.dsp with mirror := s.die.part.pipeMask }
        svc := { s.svc with hotJoin := i.busAssigned } }
      (List.range s.die.part.pipes).foldl (fun (s : State) p =>
        if bit out p then s else s.updPipe p (fun x => { x.mirrored with bootTiming := true })) s

/-! ### Step 4: the slot (R459) -/

/-- The slot that a start boots: its place, its epoch, and whether an ARMED record is to be rewritten. -/
structure Boot where
  base : Nat
  epoch : Nat
  revert : Bool := false
deriving DecidableEq, Repr

/-- A record stands in flash. -/
def State.hasAct (s : State) : Bool := (newerOf (actAt s.flash 0) (actAt s.flash 0x8000) ActRec.seq).isSome

/-- A slot verifies at a start: for the package that the record shows, or that its own manifest names where there is no
record. -/
def State.slotBoots (s : State) (base : Nat) : Bool :=
  let dies := if s.hasAct then s.actRec.1.dies else imgDies (manifest s.flash base)
  s.verifySlot base dies none == 0

/-- The slot that a start boots, from the record, the slots and the epochs that the partner answers. -/
def State.boot (s : State) (partner : Option PartnerInfo) : Option Boot :=
  let r := s.actRec.1
  let bOk := s.slotBoots slotB
  let epochB := imgEpoch (manifest s.flash slotB)
  let b : Boot := { base := slotB, epoch := epochB }
  let active : Option Boot :=
    if s.slotBoots slotA then some { base := slotA, epoch := imgEpoch (manifest s.flash slotA) }
    else if bOk && epochB = r.active then some b
    else none
  let armed := (r.state == 2 || r.state == 3) && bOk
  if r.state = 3 && bOk then some b
  else if r.dies = 2 then
    match partner with
    | none => active
    | some p =>
      if armed && (p.epochB.toNat == r.armed || p.epochA.toNat == r.armed) then some b
      else active.map (fun x => { x with revert := r.state == 2 })
  else if armed then some b
  else active

/-! ### The live map (R430, R432) -/

/-- An entry joins a map that does not list it. -/
def addEntry (es : List DarnEntry) (e : DarnEntry) : List DarnEntry := if es.contains e then es else es ++ [e]

/-- The spare rows of each kind of array (R191, R430). -/
def rowSpares : Nat → Nat
  | 0 => spoolSpares
  | 1 => localSpares
  | 2 => tileSpares
  | 3 => 4
  | _ => 8

/-- A failure takes a spare, or with none left its unit out of service (R430). -/
def mapFault (es : List DarnEntry) (f : StartFault) : List DarnEntry :=
  match f with
  | .lane c ps v lane =>
    if es.any (fun e => e.type == 3 && e.c == c && e.s == ps && e.u == v && e.index != lane) then
      addEntry es { type := 1, c := c, s := ps }
    else addEntry es { type := 3, c := c, s := ps, u := v, index := lane }
  | .cell c ps e q pos =>
    if es.any (fun x => x.type == 4 && x.c == c && x.s == ps && x.u == e && x.index == q && x.value != pos) then
      addEntry es { type := 1, c := c, s := ps }
    else addEntry es { type := 4, c := c, s := ps, u := e, index := q, value := pos }
  | .row kind c inner array row =>
    let new : DarnEntry := { type := 5, c := c, s := inner, u := kind, index := array, value := row }
    if es.contains new then es
    else if (es.filter (fun x => x.type == 5 && x.c == c && x.s == inner && x.u == kind && x.index == array)).length <
        rowSpares kind then es ++ [new]
    else
      match kind with
      | 0 => addEntry es { type := 6, u := 1, c := c }
      | 4 => (List.range 9).foldl (fun es ps => addEntry es { type := 1, c := c, s := ps }) es
      | 5 => addEntry es { type := 6, u := 0, index := array }
      | _ => addEntry es { type := 1, c := c, s := inner }

/-- The units that the test finds failed join the map. -/
def mapUnits (es : List DarnEntry) (i : StartInputs) : List DarnEntry :=
  let es := i.badSlots.foldl (fun es x => addEntry es { type := 1, c := x.1, s := x.2 }) es
  let es := (bitsOf i.badWays).foldl (fun es w => addEntry es { type := 6, u := 0, index := w }) es
  let es := (bitsOf i.badBanks).foldl (fun es b => addEntry es { type := 6, u := 1, c := b }) es
  let es := (bitsOf i.badPipes).foldl (fun es p => addEntry es { type := 6, u := 2, index := p }) es
  (bitsOf i.badCmp).foldl (fun es e => addEntry es { type := 6, u := 3, index := e }) es

/-- A physical slot is recorded as failed. -/
def slotBad (es : List DarnEntry) (c ps : Nat) : Bool := es.any (fun e => e.type == 1 && e.c == c && e.s == ps)

/-- The physical slot of a logical slot as the map has it. -/
def mapPhys (es : List DarnEntry) (c sl : Nat) : Nat :=
  (((es.filter (fun e => e.type == 2 && e.c == c && e.s == sl)).getLast?).map DarnEntry.value).getD sl

/-- The physical slots of a cluster's logical slots, none for one that finds no good physical slot: a slot that passes is
kept, and another takes the lowest good one that no logical slot holds. -/
def assignSlots (es : List DarnEntry) (n c : Nat) : List (Nat × Option Nat) :=
  let first : List (Nat × Option Nat) := (List.range n).map (fun sl =>
    let ps := mapPhys es c sl
    (sl, if slotBad es c ps then none else some ps))
  (List.range n).foldl (fun (acc : List (Nat × Option Nat)) sl =>
    match acc.find? (fun e => e.1 == sl && e.2.isNone) with
    | none => acc
    | some _ =>
      let free := (List.range 9).find? (fun ps => !slotBad es c ps && !acc.any (fun e => e.2 == some ps))
      acc.map (fun e => if e.1 == sl then (sl, free) else e)) first

/-- A new place of a logical slot joins the map. -/
def mapSlots (es : List DarnEntry) (n : Nat) : List DarnEntry :=
  (List.range 8).foldl (fun es c => (assignSlots es n c).foldl (fun es x =>
    match x.2 with
    | some ps => if mapPhys es c x.1 = ps then es else es ++ [{ type := 2, c := c, s := x.1, value := ps }]
    | none => es) es) es

/-- A ray unit that the test finds failed joins the map under the physical slot of its logical slot. -/
def mapRays (es : List DarnEntry) (rays : U64) : List DarnEntry :=
  (bitsOf rays).foldl (fun es k => addEntry es { type := 6, u := 4, c := k / 8, s := mapPhys es (k / 8) (k % 8) }) es

/-- The live map of a start: the flash map without the L3 ways that pass, and what the test finds. -/
def liveMap (old : List DarnEntry) (i : StartInputs) (slots : Nat) : List DarnEntry :=
  let kept := old.filter (fun e => !(e.type == 6 && e.u == 0 && !bit i.badWays e.index))
  let es := i.faults.foldl mapFault (mapUnits kept i)
  mapRays (mapSlots es slots) i.badRay

/-- The mask of the units of a kind that the map removes. -/
def unitMask (es : List DarnEntry) (kind w : Nat) (f : DarnEntry → Nat) : BitVec w :=
  (es.filter (fun e => e.type == 6 && e.u == kind)).foldl (fun (m : BitVec w) e => setBit m (f e) true) 0

/-- A logical core slot as the map places it. -/
def slotOf (es : List DarnEntry) (p : Part) (c : Nat) (at_ : Nat × Option Nat) : CoreSlot :=
  { CoreSlot.on es p c (at_.2.getD (mapPhys es c at_.1)) with st := if at_.2.isSome then 0 else 1 }

/-- The spare matrix cells used of each physical slot of a cluster. -/
def cellsUsed (es : List DarnEntry) (c : Nat) : TMap U16 :=
  (es.filter (fun e => e.type == 4 && e.c == c)).foldl (fun (m : TMap U16) e =>
    m.set e.s (setBit (m.get 0 e.s) (8 * e.u + e.index) true)) []

/-- The die takes up its live map: core slots, quarantined slots, spares and units out of service. -/
def State.takeMap (s : State) (es : List DarnEntry) : State :=
  let part := s.die.part
  let places := (List.range 8).flatMap (fun c => (assignSlots es part.slots c).map (fun x => (c, x)))
  let banks := unitMask es 1 8 DarnEntry.c
  let ways := unitMask es 0 16 DarnEntry.index
  { s with
    cores := places.foldl (fun (m : TMap CoreSlot) e => m.set (8 * e.1 + e.2.1) (slotOf es part e.1 e.2)) []
    flt := { s.flt with
      quar := places.foldl (fun (m : U64) e => if e.2.2.isNone then setBit m (8 * e.1 + e.2.1) true else m) 0 }
    clusters := (List.range 8).foldl (fun (m : TMap Cluster) c =>
      let x : Cluster := m.get {} c
      m.set c { x with mxSpares := cellsUsed es c }) s.clusters
    spl := { s.spl with
      online := ~~~banks
      retired := banks
      banks := (List.range 8).foldl (fun (m : TMap BankWin) b =>
        let sp := (List.range 32).foldl (fun (t : TMap Nat) sub =>
          let n := rowsSpared es 0 b sub sub
          if n = 0 then t else t.set sub n) []
        if sp.isEmpty then m else m.set b { spares := sp }) [] }
    l3c := { s.l3c with live := ~~~ways, disabled := ways }
    die := { s.die with pipesOut := unitMask es 2 4 DarnEntry.index, enginesOut := unitMask es 3 2 DarnEntry.index } }

/-- The lowest cluster all of whose logical slots find a good physical slot: it is tested in full at step 5. -/
def testedOf (es : List DarnEntry) (n : Nat) : Nat :=
  ((List.range 8).find? (fun c => (assignSlots es n c).all (fun x => x.2.isSome))).getD 0

/-- The map in flash, or an empty one; the live map; and whether a write is owed. -/
def State.buildMap (s : State) (i : StartInputs) : State :=
  let old := bestMap s.flash
  let es0 := (old.map (fun m => m.2.2)).getD []
  let es := liveMap es0 i s.die.part.slots
  let s := s.takeMap es
  { s with
    die := { s.die with mapLost := old.isNone, testedCluster := testedOf es s.die.part.slots }
    darn := { s.darn with
      entries := es
      full := decide (mapEntries < es.length)
      pending := es != es0
      seq := BitVec.ofNat 32 ((old.map (fun m => m.1)).getD 0)
      hours := (old.map (fun m => m.2.1)).getD 0 } }

/-! ### Steps 4 to 8 -/

/-- The start cannot go on (R428). -/
def State.hold (s : State) (reason : U8) : State :=
  { s with die := { s.die with holdReason := reason, waiting := none } }

/-- The stage Fitting with no partition, or with the given ones. -/
def State.fitting (s : State) (i : StartInputs) : State :=
  { s with die := { s.die with stage := .fitting, fittingUs := i.fittingUs } }

/-- The data rates of R475 in MT/s, fastest first. -/
def dramRates : List Nat := [9600, 8800, 8000, 6400]

/-- The default pattern of the booted slot for this die. -/
def State.defaultPattern (s : State) (base die : Nat) : List U8 :=
  match (imgEntries (manifest s.flash base)).find? (fun e => entKind e == 5 && entDie e die) with
  | some e => partBytes s.flash base e
  | none => []

/-- The header of a stream sets TWO_DIE. -/
def headerTwoDie (bs : List U8) : Bool := field bs 6 2 / 2 % 2 == 1

/-- The usable DRAM that the partner reports, in bytes (R218, R239, R476). -/
def PartnerInfo.bytes (p : PartnerInfo) : Nat :=
  let n := min p.dramMib 65536 * 2 ^ 20
  if p.inlineEcc then n * 15 / 16 else n

/-- The level range of a die's Seam link by stepping (R472). -/
def levelTop : Stepping → Nat
  | .a1 => 1
  | .b0 => 2

/-- The die-link level that two dies choose, where they have a common one (R427). -/
def pairLevel (st : Stepping) (p : PartnerInfo) : Option Nat :=
  let top := min (levelTop st) p.levelMax
  if max 1 p.levelMin ≤ top then some top else none

/-- The outcomes of step 7 (R427). -/
inductive Pairing where
  | alone | paired (level : Nat) | equalStraps | missing
deriving DecidableEq, Repr

/-- Step 7: what the partner answers against this die's own part, strap, level range and booted epoch. -/
def State.pairing (s : State) (i : StartInputs) (b : Boot) (twoDie : Bool) : Pairing :=
  if !twoDie then .alone
  else if !s.die.part.big || linkRate i.seam0 i.seam1 32 = 0 then .missing
  else
    match i.partner with
    | none => .missing
    | some p =>
      if p.strap = s.die.strap then .equalStraps
      else if p.part ≠ s.die.part.code then .missing
      else if p.epochA.toNat ≠ b.epoch && (b.base = slotA || p.epochB.toNat ≠ b.epoch) then .missing
      else
        match pairLevel s.die.stepping p with
        | some l => .paired l
        | none => .missing

/-- The default partition of stage Fitting (R426): the live cores of the tested cluster, its Spool bank, and the whole DRAM
rate; queues, quota, pipes, DMA channels and windows are the model's choice. -/
def State.fittingPart (s : State) : Part16 :=
  let c := s.die.testedCluster
  let w (base size : Nat) : SvWindow := { valid := true, rd := true, wr := true, shared := false, base := base, size := size }
  { enable := true
    qCount := if s.leader then 1024 else 0
    quota := 256
    cores := (s.liveSlots.filter (fun k => k / 8 == c)).foldl (fun (m : U64) k => setBit m k true) 0
    banks := if bit s.spl.online c then BitVec.twoPow 8 c else 0
    pipes := s.livePipes.zeroExtend 8
    dma := 0xFFFFFFFF
    windows := [(0, w 0 (s.capacity / 2 ^ 21 * 2 ^ 21)), (1, w (targetBase 2) (2 ^ 50))]
    regs := [(0, { rate := BitVec.ofNat 16 (s.dramRate - 40), burst := 1024 })] }

/-- Steps 4 to 8, from stage Tack: the image is chosen and verified, memory is trained, the Seam link is paired, and the
default partition is formed. -/
def State.startFitting (s : State) (i : StartInputs) : State :=
  match s.boot i.partner with
  | none => s.hold 1
  | some b =>
    let r := s.actRec.1
    let s := if b.revert then (s.writeAct { r with state := 0, armed := 0 }).readFlash else s
    let s := { s with
      die := { s.die with fromSlotB := b.base == slotB, thimbles := 0x3F }
      svc := { s.svc with running := imgDigest (manifest s.flash b.base) } }
    match if i.dramPass then dramRates.find? (fun x => decide (x ≤ i.dramMts)) else none with
    | none => s.hold 2
    | some mts =>
      let s := { s with die := { s.die with dramMib := min i.dramMib 65536, dramMts := mts, inlineEcc := i.inlineEcc } }
      let twoDie := headerTwoDie (s.defaultPattern b.base (if i.strap then 1 else 0))
      match s.pairing i b twoDie with
      | .equalStraps => ((s.buildMap i).fitting i).hold 4
      | .missing =>
        if i.strap then s.hold 5
        else
          let s := { s with die := { s.die with partnerMissing := true } }
          let s := (s.buildMap i).fitting i
          { s with ptn := { s.ptn with parts := [(0, s.fittingPart)] } }
      | .alone =>
        let s := { s with die := { s.die with strapIgnored := i.strap } }
        let s := (s.buildMap i).fitting i
        { s with ptn := { s.ptn with parts := [(0, s.fittingPart)] } }
      | .paired l =>
        let s := { s with
          die := { s.die with twoDie := true, siblingBytes := (i.partner.map PartnerInfo.bytes).getD 0 }
          slk := { s.slk with
            level := BitVec.ofNat 4 l
            partnerStepping := BitVec.ofNat 4 ((i.partner.map PartnerInfo.stepping).getD 0) } }
        let s := s.trainModules 2 i.seam0 i.seam1 (if l = 2 then 32 else 16)
        let s := (s.buildMap i).fitting i
        { s with ptn := { s.ptn with parts := [(s.partKey 0, s.fittingPart)] } }

/-! ### Steps 9 to 13 -/

/-- A partition without the units of this die that are not live. -/
def State.trimPart (s : State) (p : Part16) : Part16 :=
  { p with
    cores := p.cores &&& s.die.part.slotMask &&& ~~~s.flt.quar
    banks := p.banks &&& s.spl.online &&& ~~~s.spl.retired
    ways := p.ways &&& s.l3c.live
    pipes := p.pipes &&& s.livePipes.zeroExtend 8
    cmp0 := if s.engineListed true 0 then p.cmp0 else 0
    cmp1 := if s.engineListed true 1 then p.cmp1 else 0 }

/-- Step 12: the default pattern is applied in full, bindings to units that are not live dropped; the apply reports as any
does. -/
def State.startApply (s : State) (i : StartInputs) : State :=
  let base := if s.die.fromSlotB then slotB else slotA
  let bs := s.defaultPattern base s.dieNo
  let recs := (parseRecs (bs.length / 4 + 1) 0 bs).1
  let seq := field (recs.headD { off := 0, type := 0, body := [] }).body 4 4
  let result := (recs.filter (fun r => s.dies.contains r.die)).foldl applyRec (emptyPattern s.dies)
  let result := result.mapVals (fun k p => if k / 16 == s.dieNo then s.trimPart p else p)
  match if seq = 0 then some [] else checkResult s result with
  | some fields =>
    let off := ((recs.find? (fun r => r.scoped && fields.contains r.field)).map PRec.off).getD 0
    s.endApply 0x21 (BitVec.ofNat 32 off) i.applyCycles
  | none =>
    let keys := affectedKeys s.dies s.ptn.parts result
    let mask := affectedParts keys
    let a : Apply :=
      { affected := mask, result := result, seq := BitVec.ofNat 32 seq, cycles := i.applyCycles
        carried := carriedRegs recs true, keys := keys }
    let s := { s with ptn := { s.ptn with busy := true, step := 2, apply := some a } }
    (s.quiesce (fun p => bit mask p) 5).settle

/-- The seven fixed counts of R159 at a level's frequency. -/
def fixedCounts (l : Nat) : List Nat :=
  [16, 64, 128] ++ [190, 160, 280, 400].map (fun ns => (ns * (levelSettings l).mhz + 999) / 1000)

/-- DET_PROFILE_INFO (R172). -/
def State.profileInfo (s : State) : Nat :=
  let gt (m : List Nat) := m.foldl (fun r k => max r (s.slk.modules.get {} k).rate.toNat) 0
  s.pwr.topLevel.toNat + s.die.dramMts / 400 * 2 ^ 4 + gt [0, 1] * 2 ^ 12 + (if s.seamInUse then gt [2, 3] else 0) * 2 ^ 18 +
    s.die.stepping.code * 2 ^ 24 + s.die.part.code * 2 ^ 28

/-- DET_PROFILE: CRC-32C of the information and the fixed counts (R172). -/
def State.profileOf (s : State) : U32 :=
  crc32c (toBytes 4 s.profileInfo ++ (fixedCounts s.pwr.topLevel.toNat).flatMap (toBytes 2))

/-- A die that booted slot B writes COPYING (R459). -/
def State.startCopy (s : State) : State :=
  if !s.die.fromSlotB then s else
  let m := manifest s.flash slotB
  State.readFlash (s.writeAct
    { s.actRec.1 with state := 3, armed := imgEpoch m, dies := imgDies m, digest := imgDigest m })

/-- A die whose platform declaration differs from its partner's runs with the slower of the two (R418). -/
def State.agreePlatform (s : State) (i : StartInputs) : State :=
  match if s.die.twoDie then i.partner else none with
  | none => s
  | some p =>
    if p.topLevel.toNat ≤ s.pwr.topLevel.toNat then s
    else State.regrant { s with pwr := { s.pwr with topLevel := p.topLevel } }

/-- Step 13 (R404, R418, R425). -/
def State.finish (s : State) (i : StartInputs) : State :=
  let s := s.agreePlatform i
  State.startCopy { s with
    die := { s.die with stage := .finished, finishedUs := i.finishedUs, waiting := none, applying := false }
    pwr := { s.pwr with locked := true }
    det := { s.det with profile := s.profileOf, profileInfo := BitVec.ofNat 32 s.profileInfo } }

/-- Steps 9 to 13, from stage Fitting: the capability table is written, the caches are enabled, and the default pattern is
applied; a command that the apply waits for holds the stage. -/
def State.startFinish (s : State) (i : StartInputs) : State :=
  let s := if s.die.applying then s
    else
      let s := s.rewriteCaps.freshCaches
      State.startApply { s with die := { s.die with applying := true } } i
  if s.ptn.apply.isSome then s else s.finish i

/-- The start goes on from the stage where commands have found it. -/
def State.startTick (s : State) : State :=
  match s.die.waiting with
  | none => s
  | some i =>
    match s.die.stage with
    | .tack =>
      let s := s.startFitting i
      if s.die.waiting.isNone || i.pauseFitting then s else s.startFinish i
    | .fitting => s.startFinish i
    | _ => s

/-- A start from its first step to where its inputs pause it. -/
def State.startAll (s : State) (i : StartInputs) : State :=
  let s := s.startTack i
  if i.pauseTack then s else s.startTick

/-- DIE_RESET_RELEASE: DIE_RST_N rises (R423, R425). -/
def execDieResetRelease (i : StartInputs) (s : State) : Out := .next (if s.die.pinLow then s.startAll i else s)

/-- HOST_LINK_TRAIN_RETRY: training is repeated while no host module has trained (R468). -/
def execHostLinkTrainRetry (m0 m1 : ModuleTrain) (now : Nat) (s : State) : Out :=
  .next (match s.die.waiting with
    | none => s
    | some i =>
      if s.die.stage ≠ .preTack then s
      else
        let late : U32 := BitVec.ofNat 32 now - i.tackUs
        s.startAll { i with
          host0 := m0, host1 := m1, tackUs := BitVec.ofNat 32 now
          fittingUs := i.fittingUs + late, finishedUs := i.finishedUs + late })

/-- SECTOR_PROGRAMMED: T0 has erased and programmed the sector of a buffered block (R449). -/
def execSectorProgrammed (s : State) : Out := .next (if s.thimbleUp 0 then s.programNext else s)

end Sys2Proof.Machine
end

