-- ==== Sys2Proof/Machine/Views.lean ====
section
/-! DEFINITION. What the registers of the ID, PWR and SVC blocks and FLT_RESTARTS read as, with the capability table, and
the die identity (R239 to R241, R264, R313, R421, R439, R442, R460, R465), and the output pins (R402, R410, R482). -/

namespace Sys2Proof.Machine

open Sys2Proof

/-! ### Identity (R442, R460) -/

/-- The 32 bytes of the die secret. -/
def dieSecret : List U8 := (List.range 32).map Config.dieSecret

/-- The string CL9-ID. -/
def idString : List U8 := [0x43, 0x4C, 0x39, 0x2D, 0x49, 0x44]

/-- The die identity: bits [63:0] of the digest, its first byte the most significant. -/
def dieIdentity : Nat := bigField (sha256 (dieSecret ++ idString)) 24 8

/-- The provisioned identifier. -/
def State.provisioned (s : State) : Nat :=
  0x5A3 * 2 ^ 33 + 2 ^ 32 + s.die.part.code * 2 ^ 28 + s.die.strap.toNat * 2 ^ 27 + dieIdentity % 2 ^ 27

/-! ### Output pins (R482) -/

/-- THERM_ALERT_N as driven: low while the alert holds (R410). -/
def State.thermAlertN (s : State) : Bool := !s.pwr.alert

/-! ### The capability table (R239, R240) -/

/-- An entry: type, length and payload, padded to 4 bytes (R33). -/
def tlv (type : Nat) (payload : List U8) : List U8 := toBytes 2 type ++ toBytes 2 payload.length ++ payload

/-- What a copy of the table describes: the die's core slots, Spool banks and L3 ways, or those of the partition whose VF
reads it (R239). -/
structure CapView where
  slots : List Nat
  banks : U8
  ways : U16
deriving DecidableEq, Repr

/-- The view of the physical function, and that of the VF of partition `p`. -/
def State.wholeView (s : State) : CapView := { slots := s.die.part.coreSlots, banks := 0xFF, ways := 0xFFFF }

def State.vfCaps (s : State) (p : Nat) : CapView :=
  { slots := s.die.part.coreSlots.filter (fun k => bit (s.part p).cores k), banks := (s.part p).banks
    ways := (s.part p).ways }

/-- The view's slots of a cluster. -/
def CapView.ofCluster (w : CapView) (c : Nat) : List Nat := w.slots.filter (fun k => k / 8 == c)

/-- The view's live slots of a cluster. -/
def State.liveMask (s : State) (w : CapView) (c : Nat) : Nat :=
  (((w.ofCluster c).filter (fun k => s.liveSlots.contains k)).map (fun k => 2 ^ (k % 8))).sum

/-- The ray units of the view's logical slots of a cluster. -/
def State.rayMask (s : State) (w : CapView) (c : Nat) : Nat :=
  (((w.ofCluster c).filter (fun k => (s.cores.get {} k).ray)).map (fun k => 2 ^ (k % 8))).sum

/-- The rate of a link's modules in GT/s. -/
def State.linkGt (s : State) (l : Link) : Nat := (linkModules l).foldl (fun r m => max r (s.module m).rate.toNat) 0

/-- GB/s per direction of a link. -/
def State.linkGbs (s : State) (l : Link) : Nat :=
  ((linkModules l).map (fun m => (s.module m).rate.toNat * (s.module m).width.toNat / 8)).sum

/-- The dies that the package's default pattern declares (R240, R427). -/
def State.declaredDies (s : State) : Nat := if s.die.twoDie || s.die.partnerMissing then 2 else 1

/-- The section of this die in a view. -/
def State.dieSection (s : State) (w : CapView) : List U8 :=
  let p := s.die.part
  let f := p.floors
  tlv 0x0001 (toBytes 1 p.code ++ toBytes 1 s.die.stepping.code ++ toBytes 1 s.die.strap.toNat ++
      toBytes 1 s.declaredDies ++ toBytes 2 (s.liveSlots.filter (fun k => w.slots.contains k)).length ++
      toBytes 2 (s.die.degraded.toNat + 2 * s.leader.toNat + 4 * (s.die.makerMode != 0).toNat)) ++
    (List.range 8).flatMap (fun c =>
      tlv 0x0010 (toBytes 1 c ++ toBytes 1 (w.ofCluster c).length ++ toBytes 1 (s.liveMask w c) ++
        toBytes 1 (s.rayMask w c) ++
        toBytes 2 p.l2Kib ++ toBytes 1 (s.spareSlots c).length ++ [0])) ++
    tlv 0x0011 (toBytes 1 p.bankMib ++ [s.spl.online &&& w.banks, s.spl.retired &&& w.banks, 4]) ++
    tlv 0x0012 (toBytes 2 p.l3Mib ++ toBytes 1 (p == .x64).toNat ++ [16] ++
      toBytes 2 (s.l3c.live &&& w.ways).toNat ++ toBytes 2 (s.l3c.disabled &&& w.ways).toNat) ++
    tlv 0x0013 (toBytes 1 (popcount s.livePipes) ++ [7, 0, 0]) ++
    tlv 0x0014 (toBytes 1 s.liveEngines ++ [0, 0, 0]) ++
    tlv 0x0015 (toBytes 2 16 ++ toBytes 2 s.die.dramMts ++ toBytes 4 (s.capacity / 2 ^ 20) ++
      toBytes 1 s.die.inlineEcc.toNat ++ [1, 0, 0]) ++
    tlv 0x0016 (toBytes 1 ((linkModules .host).filter (fun m => (s.module m).rate != 0)).length ++
      toBytes 1 (s.linkGt .host) ++ [15, 0]) ++
    tlv 0x0017 (toBytes 1 p.big.toNat ++
      (if s.seamInUse then toBytes 1 (s.linkGt .seam) ++ toBytes 1 s.slk.level.toNat ++ toBytes 1 s.slk.partnerStepping.toNat
       else [0, 0, 0])) ++
    tlv 0x0019 (toBytes 1 f.1 ++ toBytes 1 f.2.1 ++ toBytes 1 f.2.2.1 ++ toBytes 1 f.2.2.2) ++
    (if s.declaredDies = 2 then
      tlv 0x0020 (toBytes 1 s.dieNo ++ toBytes 1 s.leader.toNat ++ [0, 0] ++ toBytes 2 160 ++ toBytes 2 280 ++
        toBytes 4 (s.linkGbs .seam) ++ toBytes 4 s.dramRate)
     else [])

/-- LEVELS: lowest and highest accepted level and the level in use of each interface. -/
def State.levelsEntry (s : State) : List U8 :=
  tlv 0x0002 ([0, 2, 4, s.fe.csInUse] ++ [1, 3, 3, s.fe.ptnInUse] ++ [2, 1, 1, 1] ++
    ([3, 1] ++ toBytes 1 (levelTop s.die.stepping) ++ toBytes 1 s.slk.level.toNat) ++ [4, 5, 5, s.fe.abiInUse])

/-- LIMITS. -/
def limitsEntry : List U8 :=
  tlv 0x0018 (toBytes 2 256 ++ toBytes 2 1024 ++ [16, 16, 8, 16] ++ toBytes 4 256 ++ toBytes 4 65536)

/-- A copy of the capability table; before it is first written it is empty. The sibling's section is that die's own. -/
def State.capCopy (s : State) (w : CapView) : List U8 :=
  if s.die.capGen = 0 then [] else
  let own := s.dieSection w
  let other := if s.seamInUse && s.leader then (List.range own.length).map Config.partnerSection else []
  own ++ other ++ s.levelsEntry ++ limitsEntry ++ tlv 0 []

/-- The capability table (R239). -/
def State.capTable (s : State) : List U8 := s.capCopy s.wholeView

/-! ### Registers -/

/-- A field at a bit position. -/
def atBit (v i : Nat) : Nat := v * 2 ^ i

/-- FE_STATUS.STAGE: after a third front-end restart it reads Tack (R307). -/
def State.stageShown (s : State) : Nat := if s.fe.halted then Stage.tack.code else s.die.stage.code

/-- The words of a list of bytes at an offset. -/
def wordAt (bs : List U8) (off : Nat) : Nat := field bs off 4

/-- The ID block (R239, R264, R439). -/
def State.idReg (s : State) (off : Nat) : Nat :=
  let d := s.die
  if 0x1000 ≤ off && off < 0x2000 then wordAt s.capTable (off - 0x1000) else
  match off with
  | 0x000 =>
    d.part.code + atBit d.stepping.code 4 + atBit d.strap.toNat 8 + atBit (s.declaredDies == 2).toNat 9 +
      atBit (s.leader && (d.stage == .fitting || d.stage == .finished)).toNat 10 + atBit d.degraded.toNat 11 +
      atBit (d.makerMode != 0).toNat 12
  | 0x004 => s.capTable.length
  | 0x008 => d.capGen.toNat
  | 0x010 => d.aperture.toNat
  | 0x020 =>
    d.holdReason.toNat % 16 + atBit d.fromSlotB.toNat 4 + atBit d.partnerMissing.toNat 5 + atBit d.mapLost.toNat 6 +
      atBit d.strapIgnored.toNat 7
  | 0x024 => d.tackUs.toNat
  | 0x028 => d.fittingUs.toNat
  | 0x02C => d.finishedUs.toNat
  | 0x030 =>
    min mapEntries s.darn.entries.length + atBit s.darn.pending.toNat 14 + atBit s.darn.full.toNat 15 + atBit (s.darn.seq.toNat % 2 ^ 16) 16
  | 0x034 => s.darn.done.toNat + atBit s.darn.overdue.toNat 16
  | _ => 0

/-- PWR_SLEEP_STATUS.STATE (R421). -/
def State.stateShown (s : State) : Nat :=
  match s.pwr.state with
  | .run => if s.idle then 1 else 0
  | .doze => 2
  | .nap => 3
  | _ => 0

/-- A WAKE pin's settings. -/
def WakeCfg.reg (c : WakeCfg) : Nat :=
  c.enable.toNat + atBit c.polarity.toNat 1 + atBit c.level.toNat 2 + atBit c.debounce.toNat 8

/-- A sensor's register. -/
def Pwr.tempReg (x : Pwr) (k : Nat) : Nat :=
  match x.temps.find k with
  | none => 0
  | some t => t % 2 ^ 12 + atBit 1 12 + atBit (decide (8 * x.throttle.toNat ≤ t)).toNat 13

/-- The PWR block (R421), without the latch of PWR_ENERGY_HI. -/
def State.pwrReg (s : State) (off : Nat) : Nat :=
  let x := s.pwr
  if 0x100 ≤ off && off < 0x130 then x.tempReg ((off - 0x100) / 4)
  else if 0x020 ≤ off && off < 0x030 then (x.wakeCfg.get {} ((off - 0x020) / 4)).reg
  else
  match off with
  | 0x000 => 0xC8
  | 0x004 => x.cooling.toNat + atBit x.topLevel.toNat 4 + atBit x.locked.toNat 8
  | 0x008 => x.req.toNat
  | 0x00C => x.current.toNat + atBit x.target.toNat 4 + atBit x.cause.toNat 8 + atBit x.changing.toNat 12
  | 0x010 => x.watts.toNat + atBit x.window.toNat 8
  | 0x014 => x.coolantOk.toNat + atBit x.coolant.toNat 1 + atBit x.losses.toNat 16
  | 0x01C =>
    s.stateShown + atBit x.entry.isSome.toNat 3 + atBit x.step.toNat 4 + atBit x.result.toNat 8 + atBit x.critical.toNat 16
  | 0x030 => x.wakeI3c.toNat + atBit x.wakeSideband.toNat 1
  | 0x034 => x.wakeCause.toNat
  | 0x038 => x.events.toNat
  | 0x03C => x.throttle.toNat + atBit x.alertAt.toNat 8 + atBit x.hyst.toNat 16
  | 0x040 => x.energy.toNat % 2 ^ 32
  | 0x044 => x.energy.toNat / 2 ^ 32
  | _ => 0

/-- The codes of the upload and activation states (R465). -/
def UploadState.code : UploadState → Nat
  | .idle => 0 | .receiving => 1 | .suspended => 2 | .complete => 3 | .failed => 4 | .aborted => 5

def ActState.code : ActState → Nat
  | .none => 0 | .prepared => 1 | .armed => 2 | .copying => 3

/-- The SVC block (R465). -/
def State.svcReg (s : State) (off : Nat) : Nat :=
  let x := s.svc
  match off with
  | 0x000 => 1 + atBit (x.addr.elim 0 BitVec.toNat) 8 + atBit x.addr.isSome.toNat 15
  | 0x004 =>
    x.upload.code + atBit (if x.upload = .failed then x.reason.toNat else 0) 4 + atBit x.result.toNat 8 +
      atBit x.received.length 16
  | 0x008 => x.handle.toNat
  | 0x00C => x.activeEpoch.toNat
  | 0x010 => x.armedEpoch.toNat
  | 0x014 => x.act.code + atBit x.ackMask.toNat 8
  | 0x018 => x.next
  | 0x01C => x.limit
  | 0x020 => dieIdentity % 2 ^ 32
  | 0x024 => dieIdentity / 2 ^ 32
  | 0x028 => x.events.toNat
  | _ => 0

/-- FLT_RESTARTS (R313); on a follower the block reads zero. -/
def State.fltRestarts (s : State) : Nat :=
  if s.leader then s.flt.restarts.toNat + atBit s.flt.cause.toNat 16 + atBit s.flt.halted.toNat 24 else 0

/-- The value that the service port reads at a BAR0 offset, and the state after the read; none where it reaches no
register. -/
def State.readPort (s : State) (off : Nat) : Option (U32 × State) :=
  let v (n : Nat) : Option (U32 × State) :=
    let r := s.throughLatch off n
    some (BitVec.ofNat 32 r.1, r.2)
  if off % 4 ≠ 0 then none
  else if off < 0x10000 then v (s.idReg off)
  else if off = 0x40008 then v s.fltRestarts
  else if 0x90000 ≤ off && off < 0xA0000 then v (s.pwrReg (off - 0x90000))
  else if 0xC0000 ≤ off && off < 0xD0000 then v (s.svcReg (off - 0xC0000))
  else none

end Sys2Proof.Machine
end

