-- ==== Sys2Proof/Machine/Service.lean ====
section
/-! DEFINITION. The I3C target and the service protocol: registers, uploads into slot B, activation, attestation and maker
modes (R441 to R465). -/

namespace Sys2Proof.Machine

open Sys2Proof

/-! ### The target (R441 to R443) -/

/-- The target logic runs: in every state except Off, from stage Tack on. -/
def State.svcUp (s : State) : Bool := !s.die.inReset && s.die.stage != .preTack && s.pwr.state != .off

/-- The port at the start of a command: what the last one returned or sent is gone. -/
def Svc.fresh (x : Svc) : Svc := { x with reply := [], nack := false, ibis := [], hdr := false }

/-- A common command of the bus. -/
def State.common (s : State) (f : Svc → Svc) : State := if s.svcUp then { s with svc := f s.svc.fresh } else s

/-- A common command that is directed to the die's dynamic address. -/
def State.directed (s : State) (f : Svc → Svc) : State :=
  s.common (fun x => if x.addr.isSome then f x else { x with nack := true })

/-- BCR and DCR. -/
def bcr : U8 := 0x2E
def dcr : U8 := 0x00

/-- The maximum lengths below which SETMWL and SETMRL are refused. -/
def leastLength : Nat := 4112

/-- ENTDAA: a die without an address sends its identifier, BCR and DCR, and takes the address. -/
def execEntdaa (addr : Nat) (s : State) : Out :=
  .next (s.common (fun x =>
    if x.addr.isSome then x
    else { x with addr := some (BitVec.ofNat 7 addr), reply := bigBytes 6 s.provisioned ++ [bcr, dcr] }))

/-- RSTDAA: the die is unaddressed again. -/
def execRstdaa (s : State) : Out := .next (s.common (fun x => { x with addr := none }))

/-- ENEC: bit 0 enables in-band interrupts, bit 3 Hot-Join (PRESUMED, the bits of the I3C specification). -/
def execEnec (ev : U8) (s : State) : Out :=
  .next (s.common (fun x => { x with ibiOn := x.ibiOn || bit ev 0, hjOn := x.hjOn || bit ev 3 }))

/-- DISEC. -/
def execDisec (ev : U8) (s : State) : Out :=
  .next (s.common (fun x => { x with ibiOn := x.ibiOn && !bit ev 0, hjOn := x.hjOn && !bit ev 3 }))

/-- GETPID: the identifier of R442, most significant byte first (PRESUMED). -/
def execGetpid (s : State) : Out := .next (s.directed (fun x => { x with reply := bigBytes 6 s.provisioned }))

def execGetbcr (s : State) : Out := .next (s.directed (fun x => { x with reply := [bcr] }))

def execGetdcr (s : State) : Out := .next (s.directed (fun x => { x with reply := [dcr] }))

/-- GETSTATUS: no interrupt is pending, since the target sends each as it arises (PRESUMED). -/
def execGetstatus (s : State) : Out := .next (s.directed (fun x => { x with reply := [0, 0] }))

/-- GETMXDS: writes and reads at up to 12.5 MHz (PRESUMED, the code 0 of the I3C specification). -/
def execGetmxds (s : State) : Out := .next (s.directed (fun x => { x with reply := [0, 0] }))

def execSetmwl (v : U16) (s : State) : Out :=
  .next (s.common (fun x => if v.toNat < leastLength then { x with nack := true } else { x with mwl := v }))

def execGetmwl (s : State) : Out := .next (s.directed (fun x => { x with reply := bigBytes 2 x.mwl.toNat }))

def execSetmrl (v : U16) (s : State) : Out :=
  .next (s.common (fun x => if v.toNat < leastLength then { x with nack := true } else { x with mrl := v }))

/-- GETMRL: the length, and the one payload byte of an in-band interrupt (PRESUMED). -/
def execGetmrl (s : State) : Out := .next (s.directed (fun x => { x with reply := bigBytes 2 x.mrl.toNat ++ [1] }))

/-- ENTHDR0: HDR-DDR until the exit that precedes the next command. -/
def execEnthdr0 (s : State) : Out := .next (s.common (fun x => { x with hdr := true }))

def execRstact (v : U8) (s : State) : Out := .next (s.common (fun x => { x with rstact := some v }))

/-! ### Requests and responses (R444, R447) -/

/-- The results of R447. -/
def resOk : U8 := 0x00
def resBadFrame : U8 := 0x01
def resBadCrc : U8 := 0x02
def resBusy : U8 := 0x03
def resState : U8 := 0x04
def resVerify : U8 := 0x05
def resEpoch : U8 := 0x06
def resPartner : U8 := 0x07
def resSuspended : U8 := 0x08
def resAborted : U8 := 0x09
def resExhausted : U8 := 0x0A
def resDenied : U8 := 0x0B

/-- The die sends an in-band interrupt where ENEC has enabled them. -/
def Svc.interrupt (x : Svc) (b : U8) : Svc := if x.ibiOn then { x with ibis := x.ibis ++ [b] } else x

/-- A response is ready: its bytes, the result, and the in-band interrupt 0x01. -/
def State.respond (s : State) (cmd tag result : U8) (payload : List U8) : State :=
  let x := { s.svc with
    response := some ([cmd, tag, result, 0] ++ toBytes 2 payload.length ++ payload)
    result := result }
  { s with svc := x.interrupt 0x01 }

/-- SVC_EVENTS gains a bit, with the in-band interrupt 0x02. -/
def State.svcEvent (s : State) (i : Nat) : State :=
  if bit s.svc.events i then s else
  let x := { s.svc with events := setBit s.svc.events i true }
  { s with svc := x.interrupt 0x02 }

/-- A private write to the die: not addressed, or in Hold for every command but WAKE, it is refused with a NACK; any other
discards the response that has not been read. -/
def State.request (s : State) (wake : Bool) (f : State → State) : State :=
  if !s.svcUp then s
  else if s.svc.addr.isNone || (s.pwr.state = .hold && !wake) then
    { s with svc := { s.svc.fresh with nack := true } }
  else f { s with svc := { s.svc.fresh with response := none } }

/-- A private read: the response that is ready, or a NACK (R444). -/
def execServiceResponseRead (s : State) : Out :=
  .next (s.directed (fun x =>
    match x.response with
    | none => { x with nack := true }
    | some r => { x with lastRead := r, response := none }))

/-! ### Information and registers (R445, R446) -/

/-- The INFO payload. -/
def State.infoBytes (s : State) : List U8 :=
  toBytes 8 s.provisioned ++ toBytes 8 dieIdentity ++ toBytes 1 s.die.part.code ++ toBytes 1 s.die.stepping.code ++
    toBytes 1 s.die.strap.toNat ++ toBytes 1 s.stageShown ++ [s.die.holdReason] ++ toBytes 1 (s.die.makerMode != 0).toNat ++
    [1, 0] ++ toBytes 4 s.svc.activeEpoch.toNat ++ toBytes 4 s.svc.armedEpoch.toNat ++
    toBytes 4 (s.svc.upload.code + s.svc.act.code * 256) ++ toBytes 4 s.svc.handle.toNat ++ toBytes 4 s.fltRestarts ++
    List.replicate 20 0

def execInfo (tag : U8) (s : State) : Out :=
  .next (s.request false (fun s => s.respond 0x00 tag resOk s.infoBytes))

/-- READ_REG: the ID, PWR and SVC blocks and FLT_RESTARTS. -/
def execReadReg (tag : U8) (off : Nat) (s : State) : Out :=
  .next (s.request false (fun s =>
    match s.readPort off with
    | some (v, s) => s.respond 0x01 tag resOk (toBytes 4 v.toNat)
    | none => s.respond 0x01 tag resDenied []))

/-- WRITE_REG: PWR_PLATFORM alone (R404). -/
def execWriteReg (tag : U8) (off : Nat) (v : U32) (s : State) : Out :=
  .next (s.request false (fun s =>
    if off = 0x90004 then (s.platformWrite v).respond 0x02 tag resOk [] else s.respond 0x02 tag resDenied []))

/-- WAKE: while PWR_WAKE_SRC.I3C is set, the exit to Run and then the response. -/
def execWake (tag : U8) (s : State) : Out :=
  .next (s.request true (fun s =>
    if s.pwr.wakeI3c then (s.wake 4).respond 0x03 tag resOk [] else s.respond 0x03 tag resDenied []))

/-- A request whose command is undefined. -/
def execUndefinedServiceCommand (tag cmd : U8) (s : State) : Out :=
  .next (s.request false (fun s => s.respond cmd tag resBadFrame []))

/-! ### Uploading into slot B (R448 to R450) -/

/-- PREPARED is cleared. -/
def State.unprepare (s : State) : State :=
  if s.svc.act = .prepared then { s with svc := { s.svc with act := .none } } else s

/-- Slot B is armed or being copied. -/
def State.slotBHeld (s : State) : Bool := s.svc.act == .armed || s.svc.act == .copying

def execUploadBegin (tag : U8) (len handle : U32) (s : State) : Out :=
  .next (s.request false (fun s =>
    let s := s.unprepare
    if s.slotBHeld then s.respond 0x10 tag resBusy []
    else if len = 0 || len.toNat % 4096 ≠ 0 || slotSize < len.toNat then s.respond 0x10 tag resBadFrame []
    else
      let s := s.program slotB erased
      State.respond
        { s with svc := { s.svc with
          upload := .receiving, reason := 0, length := len.toNat, handle := handle, received := [], buffer := [] } }
        0x10 tag resOk []))

/-- The places of the block buffer. -/
def bufferSize : Nat := 16

def execUploadBlock (tag : U8) (idx : Nat) (data : List U8) (crc : U32) (s : State) : Out :=
  .next (s.request false (fun s =>
    let s := s.unprepare
    let x := s.svc
    if x.upload = .aborted then s.respond 0x11 tag resAborted []
    else if x.upload = .suspended then s.respond 0x11 tag resSuspended []
    else if x.upload ≠ .receiving then s.respond 0x11 tag resState []
    else if data.length ≠ 4096 || x.length / 4096 ≤ idx then s.respond 0x11 tag resBadFrame []
    else if crc32c data ≠ crc then s.respond 0x11 tag resBadCrc []
    else if bufferSize ≤ x.buffer.length then s.respond 0x11 tag resBusy []
    else
      State.respond
        { s with svc := { x with
          received := if x.received.contains idx then x.received else idx :: x.received
          buffer := x.buffer ++ [(idx, data)] } }
        0x11 tag resOk []))

/-- The dies of the package: as the start found it, or before that as the record or the image has it. -/
def State.packageDies (s : State) (m : List U8) : Nat :=
  if s.die.stage = .fitting || s.die.stage = .finished then
    s.declaredDies
  else if s.hasAct then s.actRec.1.dies
  else imgDies m

def execUploadEnd (tag : U8) (s : State) : Out :=
  .next (s.request false (fun s =>
    let x := s.svc
    if x.upload = .aborted then s.respond 0x12 tag resAborted []
    else if x.upload = .suspended then s.respond 0x12 tag resSuspended []
    else if x.upload ≠ .receiving then s.respond 0x12 tag resState []
    else
      let s := s.programAll
      if x.received.length < x.length / 4096 then s.respond 0x12 tag resState []
      else
        let n := s.verifySlot slotB (s.packageDies (manifest s.flash slotB)) (some x.length)
        let payload := toBytes 1 n ++ [0, 0, 0]
        if n = 0 then
          (State.svcEvent { s with svc := { s.svc with upload := .complete } } 0).respond 0x12 tag resOk payload
        else
          (State.svcEvent { s with svc := { s.svc with upload := .failed, reason := BitVec.ofNat 3 n } } 1).respond 0x12 tag
            resVerify payload))

/-- The lowest index that has not been received. -/
def Svc.missing (x : Svc) : Nat :=
  ((List.range (x.length / 4096)).find? (fun i => !x.received.contains i)).getD (x.length / 4096)

def execUploadStatus (tag : U8) (s : State) : Out :=
  .next (s.request false (fun s =>
    if s.svc.upload = .aborted then s.respond 0x13 tag resAborted []
    else s.respond 0x13 tag resOk (toBytes 4 s.svc.received.length ++ toBytes 4 s.svc.missing)))

/-! ### Activation (R456 to R459) -/

/-- The acknowledgement mask of R457: this die's owning units, and of a package of two dies the follower's. -/
def State.ackMask (s : State) (follower : BitVec 4) : U8 :=
  (List.range 4).foldl (fun (m : U8) u => setBit (setBit m u (s.unitAccepts u)) (4 + u) (bit follower u)) 0

/-- The units of `dies` dies have answered: PREPARED where every one accepts, and VERIFY_FAILED where one does not. -/
def State.prepareWith (s : State) (tag : U8) (e : U32) (dies : Nat) (follower : BitVec 4) : State :=
  let mask := s.ackMask follower
  let s := { s with svc := { s.svc with ackMask := mask } }
  if mask = (if dies = 2 then 0xFF else 0x0F) then
    (State.svcEvent { s with svc := { s.svc with act := .prepared, preparedEpoch := e } } 2).respond 0x20 tag resOk [mask]
  else (State.svcEvent s.unprepare 1).respond 0x20 tag resVerify [mask]

/-- PREPARE. -/
def execPrepare (tag : U8) (e : U32) (partner : Option FollowerAnswer) (s : State) : Out :=
  .next (s.request false (fun s =>
    let m := manifest s.flash slotB
    if !s.leader || s.svc.upload ≠ .complete then s.respond 0x20 tag resState []
    else if s.slotBHeld then s.respond 0x20 tag resBusy []
    else if e.toNat ≠ imgEpoch m || e.toNat ≤ s.svc.activeEpoch.toNat then s.respond 0x20 tag resEpoch []
    else if imgDies m ≠ 2 then s.prepareWith tag e 1 0
    else
      match if s.seamInUse then partner else none with
      | none => s.respond 0x20 tag resPartner []
      | some f =>
        if e.toNat ≤ f.active.toNat then s.respond 0x20 tag resEpoch []
        else if !f.matched then s.respond 0x20 tag resPartner []
        else s.prepareWith tag e 2 f.units))

/-- This die's record says ARMED, and the command has succeeded. -/
def State.arm (s : State) (tag : U8) (e : U32) : State :=
  let m := manifest s.flash slotB
  let s := s.writeAct
    { active := s.svc.activeEpoch.toNat, armed := e.toNat, dies := imgDies m, state := 2, digest := imgDigest m }
  (State.svcEvent { s with svc := { s.svc with act := .armed, armedEpoch := e } } 3).respond 0x21 tag resOk []

/-- COMMIT: the follower's record first, and then the leader's. -/
def execCommit (tag : U8) (e : U32) (partner : FollowerCommit) (s : State) : Out :=
  .next (s.request false (fun s =>
    if !s.leader || s.svc.act ≠ .prepared || s.svc.preparedEpoch ≠ e then s.respond 0x21 tag resState []
    else if imgDies (manifest s.flash slotB) ≠ 2 then s.arm tag e
    else if !s.seamInUse then s.respond 0x21 tag resPartner []
    else
      match partner with
      | .unprepared => s.respond 0x21 tag resState []
      | .lost => s.respond 0x21 tag resPartner []
      | .acknowledged => s.arm tag e))

/-- SLOT_B_COPY: the background copy of slot B to slot A ends; where slot A verifies, the record is written with the new
active epoch, and where it does not the copy is made again (R459). -/
def execSlotBCopy (s : State) : Out :=
  .next (if s.svc.act ≠ .copying || s.die.stage ≠ .finished || !s.thimbleUp 0 then s
    else
      let m := manifest s.flash slotB
      let n := imgLength m
      let s := { s with flash := (s.flash.zero slotA n).putBytes slotA (s.flash.bytes slotB n) }
      if s.verifySlot slotA (imgDies m) none ≠ 0 then s
      else
        let e := imgEpoch m
        let s := s.writeAct { active := e, armed := 0, dies := imgDies m, state := 0, digest := imgDigest m }
        State.svcEvent
          { s with svc := { s.svc with act := .none, activeEpoch := BitVec.ofNat 32 e, armedEpoch := 0 } } 4)

/-! ### Attestation (R461, R462) -/

/-- The 60-byte HSS public key: the levels, the types of the top tree, and its identifier and root. -/
def hssKey : List U8 := bigBytes 4 2 ++ bigBytes 4 6 ++ bigBytes 4 4 ++ (List.range 48).map Config.attestKey

def execGetPubkey (tag : U8) (s : State) : Out :=
  .next (s.request false (fun s => s.respond 0x30 tag resOk hssKey))

/-- The 128-byte report. -/
def State.report (s : State) (i : Nat) (nonce : List U8) : List U8 :=
  [0x4C, 0x41, 0x54, 0x54, 1] ++
    toBytes 1 ((s.die.makerMode != 0).toNat + 2 * s.die.degraded.toNat + 4 * s.die.fromSlotB.toNat) ++
    toBytes 1 s.die.part.code ++ toBytes 1 s.die.stepping.code ++ toBytes 8 dieIdentity ++ toBytes 8 s.provisioned ++
    toBytes 4 s.svc.activeEpoch.toNat ++ toBytes 4 i ++ nonce ++ (s.svc.running ++ List.replicate 32 0).take 32 ++
    toBytes 4 s.darn.seq.toNat ++ toBytes 1 s.stageShown ++ List.replicate 27 0

/-- The signatures of the key. -/
def indices : Nat := 2 ^ 20

/-- ATTEST: an index at the reserved limit first reserves 64 more; each index is used once. -/
def execAttest (tag : U8) (nonce : List U8) (s : State) : Out :=
  .next (s.request false (fun s =>
    let i := s.svc.next
    if nonce.length ≠ 32 then s.respond 0x31 tag resBadFrame []
    else if indices ≤ i then s.respond 0x31 tag resExhausted []
    else
      let s := if i = s.svc.limit then
          let s := s.writeLimit (i + 64)
          { s with svc := { s.svc with limit := i + 64 } }
        else s
      let r := s.report i nonce
      let s := { s with svc := { s.svc with next := i + 1 } }
      let s := if indices - (i + 1) < 65536 then s.svcEvent 6 else s
      s.respond 0x31 tag resOk (r ++ (List.range 2964).map (Config.attestSign r i))))

/-! ### Maker modes (R463) -/

/-- MAKER_CHALLENGE: a fresh challenge, a free value, replaces the previous one. -/
def execMakerChallenge (tag : U8) (s : State) : Out :=
  .next (s.request false (fun s =>
    let (n, s) := s.free
    let c := toBytes 32 n
    State.respond { s with svc := { s.svc with challenge := some c } } 0x40 tag resOk c))

/-- The maker key digest in mask ROM. -/
def makerDigest : List U8 := (List.range 32).map Config.makerKeyDigest

/-- Every check of a token. -/
def State.tokenOk (s : State) (t : List U8) : Bool :=
  let pub := (t.drop 48).take 56
  t.length == 1716 && field t 0 4 == 0x524B4D4C && field t 4 1 != 0 && zeroRange t 5 3 && field t 8 8 == dieIdentity &&
    s.svc.challenge == some ((t.drop 16).take 32) && sha256 pub == makerDigest &&
    lmsVerifies pub (t.take 104) (t.drop 104)

/-- The loss of a context at a maker entry, whose record's SOURCE R302 does not name: a free value. -/
def State.makerLose (s : State) (c : Nat) : State :=
  let (n, s) := s.free
  s.loseCore c
    { status := 0x02, source := BitVec.ofNat 8 n, context := BitVec.ofNat 16 c, lost := true, loss := 0x02
      die := s.dieNo == 1 }

/-- Every on-chip memory and the whole of LPDDR5X are cleared. -/
def State.makerClear (s : State) : State :=
  let s := s.clearBanks 0xFF
  { s with
    mem := s.mem.keep (fun a => target a != 0)
    frames := []
    deltas := []
    blocks := []
    groups := []
    flt := { s.flt with failing := [] }
    lines := {} }

/-- The display pipes of the part return to mirroring. -/
def State.mirrorAll (s : State) : State :=
  let s := s.abortFlips
  let s := { s with dsp := { s.dsp with mirror := s.die.part.pipeMask } }
  (List.range s.die.part.pipes).foldl (fun (s : State) p =>
    if bit s.die.pipesOut p then s else s.updPipe p Pipe.mirrored) s

/-- An accepted maker entry. -/
def State.makerEnter (s : State) (mode : U8) : State :=
  let s := if s.svc.upload = .receiving || s.svc.upload = .suspended then
      { s with svc := { s.svc with upload := .aborted, buffer := [] } }
    else s
  let open_ := (s.ctxs.filter (fun e => e.2.state == .running || e.2.state == .faultWait)).map Prod.fst
  let s := (open_.foldl (fun (s : State) c => s.makerLose c) s).settle
  let s := s.makerClear.mirrorAll
  State.svcEvent (State.rewriteCaps { s with die := { s.die with makerMode := mode } }) 5

/-- MAKER_ENTER: any entry discards the challenge, and a token that fails a check changes nothing else. -/
def execMakerEnter (tag : U8) (token : List U8) (s : State) : Out :=
  .next (s.request false (fun s =>
    let ok := s.tokenOk token
    let s := { s with svc := { s.svc with challenge := none } }
    if ok then (s.makerEnter (BitVec.ofNat 8 (field token 4 1))).respond 0x41 tag resOk []
    else s.respond 0x41 tag resDenied []))

end Sys2Proof.Machine
end

