-- ==== Sys2Proof/Machine/Regs.lean ====
section
/-! DEFINITION. Writes to registers that no command of their own writes, by their access codes, and to the aperture (R10 to
R13, R42, R52, R173, R193, R213, R214, R234, R238, R261, R313 to R315, R368, R369, R386, R400, R401, R421, R465, R488, R490). -/

namespace Sys2Proof.Machine

open Sys2Proof

/-! ### Fields -/

/-- W1C: the bits written as 1 clear (R11). -/
def w1c {w : Nat} (m : BitVec w) (v : U32) : BitVec w := m &&& ~~~(v.truncate w)

/-- An address with its low register replaced: bits [31:k] of the value. -/
def setLo (a k : Nat) (v : U32) : Nat := a / 2 ^ 32 * 2 ^ 32 + v.toNat / 2 ^ k * 2 ^ k

/-- An address with its high register replaced: 20 bits. -/
def setHi (a : Nat) (v : U32) : Nat := a % 2 ^ 32 + v.toNat % 2 ^ 20 * 2 ^ 32

/-- A field whose other values read back as a given one. -/
def within (v lo hi other : Nat) : Nat := if lo ≤ v ∧ v ≤ hi then v else other

/-- Bits of a written value. -/
def bitsAt (v : U32) (lo n : Nat) : Nat := v.toNat / 2 ^ lo % 2 ^ n

/-! ### Blocks -/

/-- The PTN block (R52). -/
def State.writePtn (s : State) (off : Nat) (v : U32) : State :=
  match off with
  | 0x004 => { s with ptn := { s.ptn with srcLo := v } }
  | 0x008 => { s with ptn := { s.ptn with srcHi := v.truncate 20 } }
  | 0x00C => { s with ptn := { s.ptn with srcLen := v.truncate 17 } }
  | 0x024 => { s with ptn := { s.ptn with events := w1c s.ptn.events v } }
  | 0x028 => { s with ptn := { s.ptn with view := bit v 0 } }
  | _ => s

/-- A write of one of the three FE command registers whose OP names no command is dropped (R261); the commands that an OP
does name have rows of their own. -/
def feNoCommand (off : Nat) (v : U32) : Bool :=
  match off with
  | 0x018 => !([1, 2].contains (bitsAt v 8 4))
  | 0x028 => !([1, 2, 3].contains (bitsAt v 12 4))
  | 0x040 => bitsAt v 0 2 == 0
  | _ => false

/-- The FE block (R261). -/
def State.writeFe (s : State) (off : Nat) (v : U32) : State :=
  match off with
  | 0x010 => { s with fe := { s.fe with ctxReq := setLo s.fe.ctxReq 6 v } }
  | 0x014 => { s with fe := { s.fe with ctxReq := setHi s.fe.ctxReq v } }
  | 0x020 => { s with fe := { s.fe with queueDesc := setLo s.fe.queueDesc 6 v } }
  | 0x024 => { s with fe := { s.fe with queueDesc := setHi s.fe.queueDesc v } }
  | 0x030 => { s with fe := { s.fe with eventAddr := setLo s.fe.eventAddr 4 v } }
  | 0x034 => { s with fe := { s.fe with eventAddr := setHi s.fe.eventAddr v } }
  | 0x038 => { s with fe := { s.fe with eventValue := BitVec.ofNat 64 (setHalf s.fe.eventValue.toNat false v.toNat) } }
  | 0x03C => { s with fe := { s.fe with eventValue := BitVec.ofNat 64 (setHalf s.fe.eventValue.toNat true v.toNat) } }
  | 0x048 => { s with fe := { s.fe with events := w1c s.fe.events v } }
  | _ => if feNoCommand off v then s.reject else s

/-- The interrupt controller: PENDING of an edge source of the host, and HOLDOFF (R400, R401). -/
def State.writeIc (s : State) (off : Nat) (v : U32) : State :=
  if 0x1000 ≤ off && off < 0x1800 then
    let src := (off - 0x1000) / 4
    if hostSource src && !levelSource src && bit v 1 then s.updSource src (fun x => { x with pending := false }) else s
  else if 0x3000 ≤ off && off < 0x3400 && off % 0x10 = 0 then
    s.updVector ((off - 0x3000) / 0x10) (fun x => { x with holdoff := v.truncate 8 })
  else s

/-- A partition's fault-queue window (R314): setting PQ_ENABLE clears PQ_DROPPED. -/
def PartFq.store (w : PartFq) (r : Nat) (v : U32) : PartFq :=
  match r with
  | 0x00 => { w with base := setLo w.base 12 v }
  | 0x04 => { w with base := setHi w.base v }
  | 0x08 =>
    { w with
      order := within (bitsAt v 0 4) 6 12 6
      enable := bit v 8
      dropped := if bit v 8 && !w.enable then 0 else w.dropped }
  | _ => w

/-- The FLT block of the leader (R313 to R315). -/
def State.writeFlt (s : State) (off : Nat) (v : U32) : State :=
  if !s.leader then s
  else if off = 0x004 then { s with flt := { s.flt with events := w1c s.flt.events v } }
  else if 0x800 ≤ off && off < 0xC00 then
    let p := (off - 0x800) / 0x40
    s.setPq p ((s.flt.pq.get {} p).store (off % 0x40) v)
  else if 0x4000 ≤ off && off < 0x8000 then
    s.updCtx ((off - 0x4000) / 0x40) (fun x =>
      match off % 0x40 with
      | 0x18 => { x with invVa := BitVec.ofNat 37 (x.invVa.toNat / 2 ^ 20 * 2 ^ 20 + bitsAt v 12 20) }
      | 0x1C => { x with invVa := BitVec.ofNat 37 (x.invVa.toNat % 2 ^ 20 + bitsAt v 0 17 * 2 ^ 20) }
      | 0x20 => { x with invPages := v }
      | _ => x)
  else s

/-- The MMU block (R234); a follower drops writes of MMU_INV_CTRL. -/
def State.writeMmu (s : State) (off : Nat) (v : U32) : State :=
  match off with
  | 0x010 => { s with mmu := { s.mmu with
      invVa := BitVec.ofNat 37 (s.mmu.invVa.toNat / 2 ^ 20 * 2 ^ 20 + bitsAt v 12 20) } }
  | 0x014 => { s with mmu := { s.mmu with invVa := BitVec.ofNat 37 (s.mmu.invVa.toNat % 2 ^ 20 + bitsAt v 0 17 * 2 ^ 20) } }
  | 0x018 => { s with mmu := { s.mmu with invPages := v } }
  | 0x01C => if s.leader then { s with mmu := { s.mmu with invContext := v.truncate 8 } } else s
  | 0x024 => { s with mmu := { s.mmu with events := w1c s.mmu.events v } }
  | _ => s

/-- The L3C block (R213, R214). -/
def State.writeL3c (s : State) (off : Nat) (v : U32) : State :=
  if off = 0x00C then { s with l3c := { s.l3c with events := w1c s.l3c.events v } }
  else if off = 0x014 then
    { s with l3c := { s.l3c with thresh := if bitsAt v 0 16 = 0 then 0x40 else v.truncate 16 } }
  else if 0x800 ≤ off && off < 0xA00 && off % 0x20 = 0 then
    let p := (off - 0x800) / 0x20
    let h : HotWin := s.l3c.hot.get {} p
    let h := { h with channel := h.channel && !bit v 0, set := h.set && !bit v 1 }
    { s with l3c := { s.l3c with hot := s.l3c.hot.set p h } }
  else s

/-- The SPL block (R193). -/
def State.writeSpl (s : State) (off : Nat) (v : U32) : State :=
  match off with
  | 0x00C => { s with spl := { s.spl with
      scrub := bit v 0, period := if bitsAt v 8 8 = 0 then 0x3C else BitVec.ofNat 8 (bitsAt v 8 8) } }
  | 0x010 => { s with spl := { s.spl with events := w1c s.spl.events v } }
  | 0x014 => { s with spl := { s.spl with granSel := v &&& 0xFF07 } }
  | _ => s

/-- The CMP block (R386). -/
def State.writeCmp (s : State) (off : Nat) (v : U32) : State :=
  if off = 0x008 then { s with cmp := { s.cmp with events := w1c s.cmp.events v } } else s

/-- The PWR block (R421). -/
def State.writePwr (s : State) (off : Nat) (v : U32) : State :=
  if 0x020 ≤ off && off < 0x030 then
    let c : WakeCfg :=
      { enable := bit v 0, polarity := bit v 1, level := bit v 2, debounce := BitVec.ofNat 4 (bitsAt v 8 4) }
    { s with pwr := { s.pwr with wakeCfg := s.pwr.wakeCfg.set ((off - 0x020) / 4) c } }
  else
  match off with
  | 0x010 =>
    let n := bitsAt v 8 10
    { s with pwr := { s.pwr with watts := v.truncate 8, window := if n = 0 then 10 else BitVec.ofNat 10 n } }
  | 0x030 => { s with pwr := { s.pwr with wakeI3c := bit v 0, wakeSideband := bit v 1 } }
  | 0x038 => { s with pwr := { s.pwr with events := w1c s.pwr.events v } }
  | 0x03C => { s with pwr := { s.pwr with
      throttle := BitVec.ofNat 8 (within (bitsAt v 0 8) 60 105 95)
      alertAt := BitVec.ofNat 8 (within (bitsAt v 8 8) 60 108 100)
      hyst := BitVec.ofNat 4 (within (bitsAt v 16 4) 1 15 5) } }
  | _ => s

/-- A pipe's window (R369). ENABLE going to 1 clears the counters, and the pipe runs under the timing of its last MODESET. -/
def Pipe.store (x : Pipe) (r : Nat) (v : U32) : Pipe :=
  if r = 0x00 then
    let on := bit v 0
    let rise := on && !x.enable
    let t := { x.regs with
      output := BitVec.ofNat 2 (bitsAt v 4 2), stream := bit v 6, bpc := BitVec.ofNat 2 (bitsAt v 8 2), pq := bit v 10
      dsc := bit v 11 }
    let x := if on then x.turnOn else { x with enable := false }
    { x with regs := t, running := if on then x.running || (rise && x.mode.ok) else false }
  else if r = 0x04 then
    let t := { x.regs with hactive := v.truncate 16, htotal := BitVec.ofNat 16 (bitsAt v 16 16) }
    { x with regs := t }
  else if r = 0x08 then
    let t := { x.regs with vactive := v.truncate 16, vtotal := BitVec.ofNat 16 (bitsAt v 16 16) }
    { x with regs := t }
  else if r = 0x0C then
    let t := { x.regs with clock := v }
    { x with regs := t }
  else if r = 0x18 then { x with flipBase := setLo x.flipBase 7 v }
  else if r = 0x1C then { x with flipBase := setHi x.flipBase v }
  else if r = 0x20 then { x with flipOrder := within (bitsAt v 0 3) 1 4 1 }
  else if r = 0x40 then { x with inkBase := setLo x.inkBase 12 v }
  else if r = 0x44 then { x with inkBase := setHi x.inkBase v }
  else if r = 0x48 then
    { x with
      inkOrder := within (bitsAt v 0 4) 6 12 6, horizon := BitVec.ofNat 6 (bitsAt v 8 6), predict := bit v 16 }
  else if r = 0x50 then { x with inkRead := v }
  else if 0x100 ≤ r && r < 0x200 then { x with palette := x.palette.set ((r - 0x100) / 4) v }
  else if 0x200 ≤ r && r < 0x300 then
    let i := (r - 0x200) / 16
    let y : Region := x.regions.get {} i
    let y := match r % 16 with
      | 0 => { y with x0 := v.truncate 16, y0 := BitVec.ofNat 16 (bitsAt v 16 16) }
      | 4 => { y with x1 := v.truncate 16, y1 := BitVec.ofNat 16 (bitsAt v 16 16) }
      | 8 => { y with expected := v }
      | _ => y
    { x with regions := x.regions.set i y }
  else if 0x300 ≤ r && r < 0x340 then
    let i := (r - 0x300) / 4
    let y : Region := x.regions.get {} i
    let y := { y with mode := v.truncate 2, mismatch := y.mismatch && !bit v 8 }
    { x with regions := x.regions.set i y }
  else x

/-- The DSP block (R368). -/
def State.writeDsp (s : State) (off : Nat) (v : U32) : State :=
  if 0x1000 ≤ off && off < 0x1000 + 0x400 * s.die.part.pipes then
    s.updPipe ((off - 0x1000) / 0x400) (fun x => x.store (off % 0x400) v)
  else
  match off with
  | 0x008 => { s with dsp := { s.dsp with bootAddr := setLo s.dsp.bootAddr 8 v } }
  | 0x00C => { s with dsp := { s.dsp with bootAddr := setHi s.dsp.bootAddr v } }
  | 0x010 => { s with dsp := { s.dsp with bootWidth := v.truncate 16, bootHeight := BitVec.ofNat 16 (bitsAt v 16 16) } }
  | 0x014 => { s with dsp := { s.dsp with bootPitch := v.truncate 18 } }
  | 0x01C => { s with dsp := { s.dsp with events := w1c s.dsp.events v } }
  | _ => s

/-- A partition's log window (R173). -/
def LogWin.store (w : LogWin) (r : Nat) (v : U32) : LogWin :=
  match r with
  | 0x00 => { w with base := setLo w.base 12 v }
  | 0x04 => { w with base := setHi w.base v }
  | 0x08 => { w with order := within (bitsAt v 0 5) 7 16 7 }
  | _ => w

/-- The DET block. -/
def State.writeDet (s : State) (off : Nat) (v : U32) : State :=
  if 0x800 ≤ off && off < 0x1800 then
    let p := (off - 0x800) / 0x100
    let w : LogWin := s.det.logs.get {} p
    s.setLog p (w.store (off % 0x100) v)
  else s

/-- The SVC, SLK and MC blocks (R465, R488, R490). -/
def State.writeSvc (s : State) (off : Nat) (v : U32) : State :=
  if off = 0x028 then { s with svc := { s.svc with events := w1c s.svc.events v } } else s

def State.writeSlk (s : State) (off : Nat) (v : U32) : State :=
  if off = 0x004 then { s with slk := { s.slk with events := w1c s.slk.events v } } else s

def State.writeMc (s : State) (off : Nat) (v : U32) : State :=
  match off with
  | 0x008 => { s with mc := { s.mc with events := w1c s.mc.events v } }
  | 0x00C => { s with mc := { s.mc with
      scrub := bit v 0, period := if bitsAt v 8 8 = 0 then 0x18 else BitVec.ofNat 8 (bitsAt v 8 8) } }
  | _ => s

/-- A write to BAR0 by block (R237); a register of no chapter, a read-only one, and one that a command of its own writes
are left as they are. -/
def State.writeBar0 (s : State) (off : Nat) (v : U32) : State :=
  let r := off % 0x10000
  match off / 0x10000 with
  | 0x1 => s.writePtn r v
  | 0x2 => s.writeFe r v
  | 0x3 => s.writeIc r v
  | 0x4 => s.writeFlt r v
  | 0x5 => s.writeMmu r v
  | 0x6 => s.writeL3c r v
  | 0x7 => s.writeSpl r v
  | 0x8 => s.writeCmp r v
  | 0x9 => s.writePwr r v
  | 0xA => s.writeDsp r v
  | 0xB => s.writeDet r v
  | 0xC => s.writeSvc r v
  | 0xD => s.writeSlk r v
  | 0xE => s.writeMc r v
  | _ => s

/-! ### The other BARs -/

/-- The BAR0 offset that VF `n` reaches at an offset of its own BAR0 (R42): its partition's views of FE, FLT, IC and DET;
none where the view shows nothing that a write changes. -/
def State.vfOffset (s : State) (n off : Nat) : Option Nat :=
  let r := off % 0x10000
  let own (c : Nat) : Bool := (s.ctx c).partition == n && (s.ctx c).state != .closed
  match off / 0x10000 with
  | 0 => if r < 0x1000 then some (0x20000 + r) else none
  | 1 =>
    if 0x800 ≤ r && r < 0x840 then some (0x40000 + r + 0x40 * n)
    else if 0x4000 ≤ r && r < 0x8000 && own ((r - 0x4000) / 0x40) then some (0x40000 + r)
    else none
  | 2 =>
    let src := (r - 0x1000) / 4
    if 0x1000 ≤ r && r < 0x1800 && (src == 32 + n || src == 48 + n || (decide (256 ≤ src) && own (src - 256))) then
      some (0x30000 + r)
    else none
  | 3 => if 0x800 ≤ r && r < 0x900 then some (0xB0000 + r + 0x100 * n) else none
  | _ => none

/-- The address that BAR4 reaches at an offset (R238). -/
def State.apertureAddr (s : State) (off : Nat) : Nat := s.die.aperture.toNat * 2 ^ 28 + off % 2 ^ 28

/-- An aperture access passes the home L3 as the host's other accesses do, and as class-2 traffic spends no partition's
credit (R23, R238). -/
def State.apertureServed (s : State) (a n : Nat) (wr : Bool) : State :=
  let t := s.hostServed a n wr
  { t with
    ptn := { t.ptn with credit := s.ptn.credit }
    l3c := { t.l3c with hot := s.l3c.hot } }

/-- A write through the aperture: 4 bytes of local DRAM below the usable capacity. -/
def State.writeAperture (s : State) (off : Nat) (v : U32) : State :=
  let a := s.apertureAddr off
  if !s.memUp || s.capacity < a + 4 then s
  else
    let s := s.apertureServed a 4 true
    if s.failingPart a 4 then (s.dramFails a).dramRecord a true else s.poke a (toBytes 4 v.toNat)

/-- A write to a doorbell page (R250). -/
def writeDoorbell (q r : Nat) (v : U32) (s : State) : Out :=
  match r with
  | 0x000 => execSqWrite q v s
  | 0x004 => execCqRead q v s
  | _ => .next (s.hostWake true)

/-- The queue whose doorbell page lies at an offset of VF BAR2: the partition's queue range in queue order (R42). -/
def State.vfQueue (s : State) (n off : Nat) : Option Nat :=
  let x := s.part n
  if s.onVf n && s.leader && decide (off / 0x1000 < x.qCount.toNat) then some (x.qFirst.toNat + off / 0x1000) else none

/-- A write to BAR0 ends Nap unless it goes to the PWR or DSP block (R416). -/
def State.hostBar0 (s : State) (off : Nat) (v : U32) : State :=
  let s := if off / 0x10000 = 0x9 || off / 0x10000 = 0xA then s else s.hostWake false
  if s.feUp then s.writeBar0 off v else s

/-- A write to the BAR0 of VF `n`. -/
def State.hostVf (s : State) (n off : Nat) (v : U32) : State :=
  if n < 1 || 15 < n || !s.onVf n || !s.leader then s
  else
    let s := s.hostWake false
    match s.vfOffset n off with
    | some o => if s.feUp then s.writeBar0 o v else s
    | none => s

/-- REGISTER_WRITE: a write of `size` bytes to BAR0, BAR2 or BAR4, from 16 on to the BAR0 of VF `bar - 16`, and from 32 on to
the BAR2 of VF `bar - 32`. A narrower or unaligned write is dropped (R10). -/
def execRegisterWrite (bar off size : Nat) (v : U32) (s : State) : Out :=
  if size ≠ 4 || off % 4 ≠ 0 then .next s
  else if bar = 0 then .next (s.hostBar0 off v)
  else if bar = 2 then writeDoorbell (off / 0x1000) (off % 0x1000) v s
  else if bar = 4 then .next (s.writeAperture off v)
  else if bar < 32 then .next (s.hostVf (bar - 16) off v)
  else
    match s.vfQueue (bar - 32) off with
    | some q => writeDoorbell q (off % 0x1000) v s
    | none => .next s

end Sys2Proof.Machine
end

