-- ==== Sys2Proof/Machine/Flags.lean ====
section
/-! DEFINITION. Comparisons that set predicate bits, as FCMP and the integer compares make them (R59, R77,
R96). The CL9 keeps no arithmetic status flags (R86). -/

namespace Sys2Proof.Machine

open Sys2Proof

/-- A comparison of two floating-point values: with a NaN every one is false but not-equal, and zeros of
either sign are equal (R96). -/
def fcompare (c : Cond) (x y : FVal) : Bool :=
  if x.isNan || y.isNan then c == .ne
  else
    match c with
    | .eq => !FVal.lt x y && !FVal.lt y x
    | .ne => FVal.lt x y || FVal.lt y x
    | .lt => FVal.lt x y
    | .le => !FVal.lt y x
    | .gt => FVal.lt y x
    | .ge => !FVal.lt x y

/-- A comparison of two integers. -/
def icompare (c : Cond) (x y : Int) : Bool :=
  match c with
  | .eq => x == y
  | .ne => x != y
  | .lt => decide (x < y)
  | .le => decide (x ≤ y)
  | .gt => decide (y < x)
  | .ge => decide (y ≤ x)

/-- The integer that a register holds, signed or unsigned. -/
def asInt (signed : Bool) (v : U32) : Int := if signed then v.toInt else (v.toNat : Int)

end Sys2Proof.Machine
end

