-- ==== Sys2Proof/Machine/VectorFloat.lean ====
section
/-! DEFINITION. The floating-point, conversion and twin-thread instructions (R94 to R96, R147 to R151). -/

namespace Sys2Proof.Machine

open Sys2Proof

/-! ### Typed sources and results -/

/-- The format of TYPE (R78). -/
def typeFmt (ty : BitVec 2) : Fmt :=
  match ty.toNat with
  | 0 => .fp32
  | 1 => .fp64
  | 2 => .fp16
  | _ => .bf16

/-- A source register of TYPE is defined. -/
def okReg (g : Group) (ty : BitVec 2) (r : U8) : Bool := if ty = 1 then g.namesPair r.toNat else g.names r.toNat 1

/-- Source B of TYPE is defined. -/
def okSrcB (g : Group) (f : VForm) : Bool := if f.ty = 1 then g.okB64 f else g.okB f

/-- The value of a code after ABS and NEG (R78). -/
def modified (fmt : Fmt) (abs neg : Bool) (c : Nat) : FVal :=
  let v := fmt.decode c
  let v := if abs then v.abs else v
  if neg then v.neg else v

/-- An operation of up to three sources on every executing thread: one FP32 or FP64 value, or the two halves
of a pair independently, each result clamped where SAT is set (R78, R96). -/
def fpEach (f : VForm) (op : Fmt → Rnd → FVal → FVal → FVal → Nat) (g : Group) (e : U64) : Group :=
  let fmt := typeFmt f.ty
  let r := (Rnd.ofField f.rnd.toNat).getD .rne
  let one := fun a b c =>
    let x := op fmt r (modified fmt (absA f) (negA f) a) (modified fmt (absB f) (negB f) b) (fmt.decode c)
    if f.sat then fmt.sat01 x else x
  g.each e (fun h t =>
    if f.ty = 0 then
      h.setReg f.dst.toNat t (BitVec.ofNat 32
        (one (g.reg f.sa.toNat t).toNat (g.srcB f t).toNat (g.reg f.sc.toNat t).toNat))
    else if f.ty = 1 then
      h.setPair f.dst.toNat t (BitVec.ofNat 64
        (one (g.pair f.sa.toNat t).toNat (g.srcB64 f t).toNat (g.pair f.sc.toNat t).toNat))
    else
      let a := (g.reg f.sa.toNat t).toNat
      let b := (g.srcB f t).toNat
      let c := (g.reg f.sc.toNat t).toNat
      h.setReg f.dst.toNat t (BitVec.ofNat 32
        (one (a % 2 ^ 16) (b % 2 ^ 16) (c % 2 ^ 16) + 2 ^ 16 * one (a / 2 ^ 16) (b / 2 ^ 16) (c / 2 ^ 16))))

/-- The registers of a two-source operation and its rounding mode are defined. -/
def okBinary (f : VForm) (g : Group) : Bool :=
  okReg g f.ty f.dst && okReg g f.ty f.sa && okSrcB g f && (Rnd.ofField f.rnd.toNat).isSome

/-! ### FADD to FCMP -/

def execFadd (g : Nat) (f : VForm) (s : State) : Out :=
  .next (s.runV g f (okBinary f) (fpEach f (fun fmt r a b _ => fmt.encode r false (FVal.addWith r a b))))

def execFmul (g : Nat) (f : VForm) (s : State) : Out :=
  .next (s.runV g f (okBinary f) (fpEach f (fun fmt r a b _ => fmt.encode r false (FVal.mul a b))))

/-- FFMA rounds the exact product and sum once (R96). -/
def execFfma (g : Nat) (f : VForm) (s : State) : Out :=
  .next (s.runV g f (fun x => okBinary f x && okReg x f.ty f.sc)
    (fpEach f (fun fmt r a b c => fmt.encode r false (FVal.addWith r (FVal.mul a b) c))))

/-- The smaller of two values: a NaN gives way to the other, and -0 lies below +0 (R96). -/
def fminVal (a b : FVal) : FVal :=
  if a.isNan then b else if b.isNan then a
  else if FVal.lt a b then a else if FVal.lt b a then b
  else match a with
    | .fin true 0 _ => a
    | _ => b

/-- The larger of two values. -/
def fmaxVal (a b : FVal) : FVal := (fminVal a.neg b.neg).neg

def execFmin (g : Nat) (f : VForm) (s : State) : Out :=
  .next (s.runV g f (okBinary f) (fpEach f (fun fmt r a b _ => fmt.encode r false (fminVal a b))))

def execFmax (g : Nat) (f : VForm) (s : State) : Out :=
  .next (s.runV g f (okBinary f) (fpEach f (fun fmt r a b _ => fmt.encode r false (fmaxVal a b))))

/-- FCMP writes a predicate bit of each executing thread (R78, R96). -/
def execFcmp (g : Nat) (c : Cond) (f : VForm) (s : State) : Out :=
  .next (s.runV g f
    (fun x => decide (f.dst.toNat < 8) && okReg x f.ty f.sa && okSrcB x f && (Rnd.ofField f.rnd.toNat).isSome)
    (fun x e =>
      let fmt := typeFmt f.ty
      let cmp := fun a b => fcompare c (modified fmt (absA f) (negA f) a) (modified fmt (absB f) (negB f) b)
      x.each e (fun h t =>
        h.setPred f.dst.toNat t
          (if f.ty = 0 then cmp (x.reg f.sa.toNat t).toNat (x.srcB f t).toNat
           else if f.ty = 1 then cmp (x.pair f.sa.toNat t).toNat (x.srcB64 f t).toNat
           else
             let a := (x.reg f.sa.toNat t).toNat
             let b := (x.srcB f t).toNat
             Config.packedCmp (cmp (a % 2 ^ 16) (b % 2 ^ 16)) (cmp (a / 2 ^ 16) (b / 2 ^ 16))))))

/-! ### Square root and the approximate instructions -/

/-- A one-source operation: FP32 and FP64 only unless `packed`, RND 0 where it selects nothing (R148). -/
def okUnary (f : VForm) (double packed rounds : Bool) (g : Group) : Bool :=
  okReg g f.ty f.dst && okReg g f.ty f.sa && (f.ty == 0 || (f.ty == 1 && double) || packed) &&
    (if rounds then (Rnd.ofField f.rnd.toNat).isSome else f.rnd == 0)

/-- FSQRT is correctly rounded (R96). -/
def execFsqrt (g : Nat) (f : VForm) (s : State) : Out :=
  .next (s.runV g f (okUnary f true true true) (fpEach f (fun fmt r a _ _ => fmt.encode r false a.sqrt)))

/-- `n` units in the last place of a format at an exact value (R148). -/
def ulps (fmt : Fmt) (n : Nat) (v : FVal) : FVal :=
  match fmt.float with
  | some p => FVal.mul (.fin false n 0) (p.ulp v)
  | none => .fin false 0 0

/-- A result that hardware approximates: any value within the bound of the exact one, the exact infinities,
NaNs and zeros standing (R148, R149). -/
def approximate (op : Nat) (fmt : Fmt) (x exact bound : FVal) : Nat :=
  match exact with
  | .fin _ 0 _ => fmt.encode .rne false exact
  | .fin .. => withinBound fmt exact bound (Config.approx op (fmt.encode .rne false x))
  | _ => fmt.encode .rne false exact

/-- FRCP: 1 ulp in FP32, correctly rounded in FP64 (R96, R148). -/
def execFrcp (g : Nat) (f : VForm) (s : State) : Out :=
  .next (s.runV g f (okUnary f true false (f.ty == 1)) (fpEach f (fun fmt r a _ _ =>
    if fmt = .fp64 then fmt.encode r false a.recip else approximate 0x08 fmt a a.recip (ulps fmt 1 a.recip))))

/-- FRSQ: at most 1 ulp (R148). -/
def execFrsq (g : Nat) (f : VForm) (s : State) : Out :=
  .next (s.runV g f (okUnary f true false false) (fpEach f (fun fmt _ a _ _ =>
    approximate 0x09 fmt a a.sqrt.recip (ulps fmt 1 a.sqrt.recip))))

/-- A finite value is an integer. -/
def FVal.integral : FVal → Bool
  | .fin _ m e => decide (0 ≤ e) || m % 2 ^ (-e).toNat == 0
  | _ => false

/-- FEX2: at most 2 ulp, exact for integers, +0 below the smallest subnormal (R148, R149). -/
def execFex2 (g : Nat) (f : VForm) (s : State) : Out :=
  .next (s.runV g f (okUnary f false false false) (fpEach f (fun fmt _ a _ _ =>
    let exact := a.exp2
    if FVal.lt exact (.fin false 1 (-149)) then 0
    else if a.integral then fmt.encode .rne false exact
    else approximate 0x0B fmt a exact (ulps fmt 2 exact))))

/-- The magnitude is a power of two. -/
def FVal.powerOfTwo : FVal → Bool
  | .fin _ m _ => m != 0 && m == 2 ^ Nat.log2 m
  | _ => false

/-- FLG2: exact for powers of two, an absolute error of 2^-22 inside [0.5, 2], 2 ulp outside (R148). -/
def execFlg2 (g : Nat) (f : VForm) (s : State) : Out :=
  .next (s.runV g f (okUnary f false false false) (fpEach f (fun fmt _ a _ _ =>
    let exact := a.log2
    let inside := !FVal.lt a (.fin false 1 (-1)) && !FVal.lt (.fin false 2 0) a
    if a.powerOfTwo && decide (0 < a.sgn) then fmt.encode .rne false exact
    else approximate 0x0C fmt a exact (if inside then .fin false 1 (-22) else ulps fmt 2 exact))))

/-- A sine or cosine: an absolute error of 2^-21 up to 2^17, and for larger values some value in [-1, 1]
(R148, R149). -/
def sinusoid (op shift : Nat) (fmt : Fmt) (a : FVal) : Nat :=
  let exact := a.trig shift
  if FVal.lt (.fin false (2 ^ 17) 0) a.abs && !a.isNan && a != .inf true && a != .inf false then
    let raw := Config.approx op (fmt.encode .rne false a)
    let v := fmt.decode (raw % 2 ^ 32)
    if v.isNan || FVal.lt (.fin false 1 0) v.abs then fmt.encode .rne false exact else raw % 2 ^ 32
  else if a.isZero then fmt.encode .rne false exact
  else approximate op fmt a exact (.fin false 1 (-21))

def execFsin (g : Nat) (f : VForm) (s : State) : Out :=
  .next (s.runV g f (okUnary f false false false) (fpEach f (fun fmt _ a _ _ => sinusoid 0x0D 0 fmt a)))

def execFcos (g : Nat) (f : VForm) (s : State) : Out :=
  .next (s.runV g f (okUnary f false false false) (fpEach f (fun fmt _ a _ _ => sinusoid 0x0E 1 fmt a)))

/-! ### ACVT -/

/-- The value of an anchored slot of `w` bits (R143). -/
def slotVal (w v : Nat) (anchor : Int) : FVal :=
  FVal.ofScaled (signedOf w v) (anchor - (if w = 64 then 48 else 104))

/-- The registers of ACVT are as R147 gives. -/
def okAcvt (f : VForm) (g : Group) : Bool :=
  f.sel == 1 && decide (f.sb.toNat < 64) && (f.ty == 0 || f.ty == 1) && (Rnd.ofField f.rnd.toNat).isSome &&
    !f.sat && f.negAbs == 0 && decide (f.sub.toNat < 2) && okReg g f.ty f.dst &&
    (if f.sub = 0 then g.namesPair f.sa.toNat else f.sa.toNat % 4 == 0 && g.names f.sa.toNat 4)

/-- ACVT converts a slot held in registers with one rounding (R147). -/
def execAcvt (g : Nat) (f : VForm) (s : State) : Out :=
  .next (s.runV g f (okAcvt f) (fun x e =>
    let fmt := typeFmt f.ty
    let anchor := signedOf 16 (x.ureg f.sb.toNat).toNat
    x.each e (fun h t =>
      let w := if f.sub = 0 then 64 else 128
      let lo := (x.pair f.sa.toNat t).toNat
      let v := if f.sub = 0 then lo else lo + 2 ^ 64 * (x.pair (f.sa.toNat + 2) t).toNat
      let c := fmt.encode ((Rnd.ofField f.rnd.toNat).getD .rne) false (slotVal w v anchor)
      if f.ty = 0 then h.setReg f.dst.toNat t (BitVec.ofNat 32 c) else h.setPair f.dst.toNat t (BitVec.ofNat 64 c))))

/-! ### Twin thread -/

/-- The pair of a register pair, hi in the low register (R90). -/
def Group.twin (g : Group) (r t : Nat) : FVal := twinVal (g.reg r t).toNat (g.reg (r + 1) t).toNat

def Group.setTwin (g : Group) (r t : Nat) (v : FVal) : Group :=
  let p := twinOf v
  (g.setReg r t (BitVec.ofNat 32 p.1)).setReg (r + 1) t (BitVec.ofNat 32 p.2)

/-- SEL, TYPE, RND, SAT, NEG and ABS are zero and the registers are as R151 gives. -/
def okTwin (f : VForm) (pairA pairB pairC : Bool) (g : Group) : Bool :=
  f.sel == 0 && f.ty == 0 && f.rnd == 0 && !f.sat && f.negAbs == 0 && g.namesPair f.dst.toNat &&
    (if pairA then g.namesPair f.sa.toNat else g.names f.sa.toNat 1) &&
    (if pairB then g.namesPair f.sb.toNat else g.names f.sb.toNat 1) && (!pairC || g.namesPair f.sc.toNat)

/-- A twin-thread instruction: defined at command-stream level 2 alone (R151). -/
def State.runTwin (s : State) (i : Nat) (f : VForm) (ok : Group → Bool) (k : Group → Nat → FVal) : State :=
  s.runV i f (fun g => s.levelOf g == 2 && ok g) (fun g e => g.each e (fun h t => h.setTwin f.dst.toNat t (k g t)))

def execTwAdd (g : Nat) (f : VForm) (s : State) : Out :=
  .next (s.runTwin g f (okTwin f true true false)
    (fun x t => FVal.addWith .rne (x.twin f.sa.toNat t) (x.twin f.sb.toNat t)))

/-- The FP32 value of a register. -/
def Group.f32 (g : Group) (r t : Nat) : FVal := Fmt.fp32.decode (g.reg r t).toNat

def execTwAcc (g : Nat) (f : VForm) (s : State) : Out :=
  .next (s.runTwin g f (okTwin f false false true)
    (fun x t => FVal.addWith .rne (x.twin f.sc.toNat t) (FVal.mul (x.f32 f.sa.toNat t) (x.f32 f.sb.toNat t))))

def execTwMul (g : Nat) (f : VForm) (s : State) : Out :=
  .next (s.runTwin g f (okTwin f true false false)
    (fun x t => FVal.mul (x.twin f.sa.toNat t) (x.f32 f.sb.toNat t)))

/-! ### CVT -/

/-- A format occupies a register pair in a conversion (R82). -/
def Fmt.isPair (f : Fmt) : Bool := f == .fp64 || f == .tw32

/-- The registers and fields of a conversion are as R95 gives. -/
def okCvt (op : OpField) (f : VForm) (src dst : Fmt) (g : Group) : Bool :=
  decide (op.toNat < 32) && f.sel == 0 && f.sb == 0 && decide (f.sc.toNat < 32) && f.ty == 0 && !negB f && !absB f &&
    (Rnd.ofField f.rnd.toNat).isSome && src != .bolt && dst != .bolt && !(dst == .b1 && f.sat) &&
    (if src.isPair then g.namesPair f.sa.toNat else g.names f.sa.toNat 1) &&
    (if dst.isPair then g.namesPair f.dst.toNat else g.names f.dst.toNat 1) &&
    (if src.bits < 32 then decide (f.sc.toNat < 32 / src.bits) else f.sc == 0)

/-- The source value of a conversion (R95). -/
def cvtSource (src : Fmt) (f : VForm) (g : Group) (t : Nat) : FVal :=
  let v :=
    if src = .tw32 then g.twin f.sa.toNat t
    else if src = .fp64 then src.decode (g.pair f.sa.toNat t).toNat
    else src.decode ((g.reg f.sa.toNat t).toNat / 2 ^ (src.bits * f.sc.toNat) % 2 ^ src.bits)
  let v := if absA f then v.abs else v
  if negA f then v.neg else v

/-- The pair of a conversion to TW32 (R94): hi rounded by the mode, lo the rest, then normalised; a source
beyond the FP32 range stands in hi alone. TW32 holds every value of its own, which converts exactly whatever the mode. -/
def cvtTwin (r : Rnd) (satfin : Bool) (v : FVal) : Nat × Nat :=
  let hi := Fmt.fp32.encode r satfin v
  let large := FVal.lt (Fmt.fp32.decode 0x7F7FFFFF) v.abs
  match Fmt.fp32.decode hi with
  | .fin s m e =>
    if large then (hi, 0)
    else
      -- a zero keeps its sign
      let lo := Fmt.fp32.encode .rne false (FVal.addWith .rne v (FVal.neg (.fin s m e)))
      if v.isZero then (hi, 0) else twinOf (twinVal hi lo)
  | _ => (hi, 0)

/-- The clamp of a TW32 result to [0, 1] (R94). -/
def twinSat (p : Nat × Nat) : Nat × Nat :=
  let v := twinVal p.1 p.2
  if v.sgn ≤ 0 then (0, 0) else if FVal.lt (.fin false 1 0) v then (0x3F800000, 0) else p

/-- A result narrower than 32 bits in the low bits of its register: sign-extended for I2, I4, I8 and I16,
else zero-extended (R95). -/
def widen (f : Fmt) (c : Nat) : U32 :=
  if f = .i2 ∨ f = .i4 ∨ f = .i8 ∨ f = .i16 then BitVec.ofInt 32 (signedOf f.bits c) else BitVec.ofNat 32 c

/-- CVT (R94, R95). -/
def execCvt (g : Nat) (op : OpField) (f : VForm) (s : State) : Out :=
  .next (
    let src := Fmt.ofCode op.toNat
    let dst := Fmt.ofCode (f.sub.toNat % 32)
    s.runV g f
      (fun x => match src, dst with
        | some a, some b => okCvt op f a b x
        | _, _ => false)
      (fun x e =>
        let a := src.getD .fp32
        let b := dst.getD .fp32
        let r := (Rnd.ofField f.rnd.toNat).getD .rne
        x.each e (fun h t =>
          let v := cvtSource a f x t
          if b = .tw32 then
            let p := cvtTwin (if a = .tw32 then .rne else r) (bit f.sub 5) v
            let p := if f.sat then twinSat p else p
            (h.setReg f.dst.toNat t (BitVec.ofNat 32 p.1)).setReg (f.dst.toNat + 1) t (BitVec.ofNat 32 p.2)
          else
            let c := b.encode r (bit f.sub 5) v
            let c := if f.sat then b.sat01 c else c
            if b = .fp64 then h.setPair f.dst.toNat t (BitVec.ofNat 64 c) else h.setReg f.dst.toNat t (widen b c))))

end Sys2Proof.Machine
end

