-- ==== Sys2Proof/Machine/VectorInt.lean ====
section
/-! DEFINITION. The integer, move, uniform, special-value, shuffle, vote and random instructions (R58, R64,
R65, R75 to R78, R166 to R168). -/

namespace Sys2Proof.Machine

open Sys2Proof

/-! ### Integer instructions -/

/-- An integer source after ABS and NEG (R78). -/
def intSource (abs neg : Bool) (v : U32) : U32 :=
  let v := if abs && v.msb then -v else v
  if neg then -v else v

/-- The SAT clamp to [0, 1] of an integer result (R78). -/
def intSat (signed : Bool) (v : U32) : U32 := if asInt signed v ≤ 0 then 0 else 1

/-- The signedness with which an operation reads its result. -/
def signedResult : IntOp → Bool
  | .shr b => b
  | .icmp _ b => b
  | .imin b => b
  | .imax b => b
  | _ => true

/-- A shift by fewer than 32 places, or the value that the rules leave open. -/
def shifted (op : Nat) (a b : U32) (r : U32) : U32 := if b.toNat < 32 then r else Config.wideShift op a b

/-- The result of an integer operation that writes a vector register (R77). -/
def intResult (op : IntOp) (a b c : U32) : U32 :=
  match op with
  | .iadd => a + b
  | .imad => a * b + c
  | .shl => shifted 0 a b (a <<< b.toNat)
  | .shr signed => if signed then shifted 1 a b (a.sshiftRight b.toNat) else shifted 2 a b (a >>> b.toNat)
  | .and => a &&& b
  | .or => a ||| b
  | .xor => a ^^^ b
  | .imin signed => if asInt signed b < asInt signed a then b else a
  | .imax signed => if asInt signed a < asInt signed b then b else a
  | .icmp .. => 0

/-- The registers that an integer operation names are defined (R56, R78). -/
def okInt (op : IntOp) (f : VForm) (g : Group) : Bool :=
  g.names f.sa.toNat 1 && g.okB f &&
    (match op with
     | .icmp .. => decide (f.dst.toNat < 8)
     | .imad => g.names f.dst.toNat 1 && g.names f.sc.toNat 1
     | _ => g.names f.dst.toNat 1)

/-- An integer operation on every executing thread; a compare writes a predicate bit (R77, R78). -/
def execIntegerInstruction (g : Nat) (op : IntOp) (f : VForm) (s : State) : Out :=
  .next (s.runV g f (okInt op f) (fun x e =>
    x.each e (fun h t =>
      let a := intSource (absA f) (negA f) (x.reg f.sa.toNat t)
      let b := intSource (absB f) (negB f) (x.srcB f t)
      match op with
      | .icmp c signed => h.setPred f.dst.toNat t (icompare c (asInt signed a) (asInt signed b))
      | _ =>
        let r := intResult op a b (x.reg f.sc.toNat t)
        h.setReg f.dst.toNat t (if f.sat then intSat (signedResult op) r else r))))

/-! ### Moves and uniform instructions -/

/-- A uniform instruction runs once for the group, whatever its executing set (R58, R61). -/
def State.runU (s : State) (i : Nat) (f : VForm) (ok : Bool) (k : Group → Group) : State :=
  match s.mayIssue i with
  | none => s
  | some g =>
    if !ok then s.trap g 1 (lowest (g.executing f.pneg f.pred)) else s.setGroup i ((k g).advance (vWords f))

/-- Source B of a uniform instruction: a uniform register or an immediate. -/
def uniformB (f : VForm) (g : Group) : U32 := if f.sel = 1 then g.ureg f.sb.toNat else f.imm

/-- The registers of a uniform instruction are uniform ones. -/
def okUniform (f : VForm) (readsA : Bool) : Bool :=
  decide (f.dst.toNat < 64) && (!readsA || decide (f.sa.toNat < 64)) &&
    (f.sel == 2 || (f.sel == 1 && decide (f.sb.toNat < 64)))

/-- MOV and SEL write a vector register of every executing thread; UMOV and UADD a uniform register (R58,
R77). -/
def execMoveUniformInstruction (g : Nat) (op : MoveOp) (f : VForm) (s : State) : Out :=
  match op with
  | .mov =>
    .next (s.runV g f (fun x => x.names f.dst.toNat 1 && x.okB f)
      (fun x e => x.each e (fun h t => h.setReg f.dst.toNat t (x.srcB f t))))
  | .sel p =>
    .next (s.runV g f (fun x => x.names f.dst.toNat 1 && x.names f.sa.toNat 1 && x.okB f)
      (fun x e => x.each e (fun h t =>
        h.setReg f.dst.toNat t (if bit (x.pred p.toNat) t then x.reg f.sa.toNat t else x.srcB f t))))
  | .umov => .next (s.runU g f (okUniform f false) (fun x => x.setUreg f.dst.toNat (uniformB f x)))
  | .uadd =>
    .next (s.runU g f (okUniform f true)
      (fun x => x.setUreg f.dst.toNat (x.ureg f.sa.toNat + uniformB f x)))

/-! ### S2R -/

/-- The stitch counter that a program reads: TILE is the tile of a fragment program and 0xFFFF in a vertex program
(R166, R328). -/
def State.programStitch (s : State) (g : Group) : U64 :=
  match s.jobs.find g.job with
  | none => 0
  | some v => BitVec.ofNat 64 (v.stitch + (match g.role with
    | .fragment tile _ => tile % 2 ^ 16
    | .vertex _ _ => 0xFFFF
    | .kernel => 0))

/-- The 128-bit seed of the group's launch (R167). -/
def State.programSeed (s : State) (g : Group) : Nat :=
  match (s.jobs.find g.job).bind Job.parent with
  | none => 0
  | some l =>
    match (s.jobs.find l).bind Job.launch with
    | none => 0
    | some x => x.seedLo.toNat + 2 ^ 64 * x.seedHi.toNat

/-- The grid of a kernel: blocks in x, y and z (R273). -/
def State.gridOf (s : State) (g : Group) : Nat × Nat × Nat :=
  match s.jobs.find g.job with
  | none => (1, 1, 1)
  | some v => if v.kind = 1 then (field v.payload 8 4, field v.payload 12 2, field v.payload 14 2) else (1, 1, 1)

/-- The value of a launch-relative special register for thread `t` (R76). -/
def State.special (s : State) (g : Group) (sel : S2rSel) (t : Nat) : U32 :=
  let b := (s.blocks.find g.block).getD
    { job := g.job, linear := 0, cluster := 0, rank := 0, size := 1, core := 0, base := 0, bytes := 0, groups := [] }
  let d := s.gridOf g
  let n := BitVec.ofNat 32
  match sel with
  | .thread => n t
  | .group => n g.index
  | .blockX => n (b.linear % d.1)
  | .blockY => n (b.linear / d.1 % d.2.1)
  | .blockZ => n (b.linear / (d.1 * d.2.1))
  | .blockLinear => n b.linear
  | .rank => n b.rank
  | .clusterSize => n b.size
  | .gridX => n d.1
  | .gridY => n d.2.1
  | .gridZ => n d.2.2
  | .stitchLo => (s.programStitch g).truncate 32
  | .stitchHi => (s.programStitch g >>> 32).truncate 32
  | .seed w => n (s.programSeed g / 2 ^ (32 * w.toNat))
  | .clock c => if s.strictGroup g then 0 else c

/-- S2R; a read of CLOCK in a relaxed context counts as loose (R75, R76, R165). -/
def execS2r (g : Nat) (sel : S2rSel) (f : VForm) (s : State) : Out :=
  .next (
    let t := s.runV g f (fun x => x.names f.dst.toNat 1)
      (fun x e => x.each e (fun h t => h.setReg f.dst.toNat t (s.special x sel t)))
    match sel, s.mayIssue g with
    | .clock _, some x =>
      if x.executing f.pneg f.pred != 0 && x.names f.dst.toNat 1 && f.sel != 3 then t.loosen x.job else t
    | _, _ => t)

/-! ### SHFL and VOTE -/

/-- The source index of thread `t` in a mode, none outside 0 to 63 (R64). -/
def shflSource (mode t b : Nat) : Option Nat :=
  match mode with
  | 0 => some (b % 64)
  | 1 => if b ≤ t then some (t - b) else none
  | 2 => if t + b ≤ 63 then some (t + b) else none
  | _ => some (Nat.xor t (b % 64))

/-- The predicate that takes SHFL's output bit: DST (R78), or a free one where DST is above 7. -/
def outBit (f : VForm) : Nat := if f.dst.toNat < 8 then f.dst.toNat else Config.shuffleBit f.dst.toNat % 8

/-- SHFL: the value goes to the register and the output bit to the predicate that DST names; every read comes before any
write (R64, R78). -/
def execShfl (g : Nat) (f : VForm) (s : State) : Out :=
  .next (s.runV g f
    (fun x => x.names f.dst.toNat 1 && x.names f.sa.toNat 1 && x.okB f && decide (f.sub.toNat < 4))
    (fun x e => x.each e (fun h t =>
      match shflSource f.sub.toNat t (x.srcB f t).toNat with
      | none => (h.setReg f.dst.toNat t (x.reg f.sa.toNat t)).setPred (outBit f) t false
      | some i =>
        if bit e i then (h.setReg f.dst.toNat t (x.reg f.sa.toNat i)).setPred (outBit f) t true
        else (h.setReg f.dst.toNat t 0).setPred (outBit f) t false)))

/-- VOTE reads the predicate of SA over the executing set and writes the uniform register DST, a pair for
BALLOT; it writes even for an empty set (R61, R65). -/
def execVote (g : Nat) (f : VForm) (s : State) : Out :=
  .next (
    match s.mayIssue g with
    | none => s
    | some x =>
      let e := x.executing f.pneg f.pred
      let m := e &&& x.pred f.sa.toNat
      let ok := f.sel != 3 && decide (f.sa.toNat < 8) && decide (f.sub.toNat < 4) && decide (f.dst.toNat < 64) &&
        (f.sub != 2 || f.dst.toNat % 2 == 0)
      if !ok then s.trap x 1 (lowest e) else
      let y := match f.sub.toNat with
        | 0 => x.setUreg f.dst.toNat (if m = e then 1 else 0)
        | 1 => x.setUreg f.dst.toNat (if m = 0 then 0 else 1)
        | 2 => (x.setUreg f.dst.toNat (m.truncate 32)).setUreg (f.dst.toNat + 1) ((m >>> 32).truncate 32)
        | _ => x.setUreg f.dst.toNat (BitVec.ofNat 32 (popcount m))
      s.setGroup g (y.advance (vWords f)))

/-! ### PHILOX -/

/-- One round of Philox4x32 on (c0, c1, c2, c3) with a key (R167). -/
def philoxRound (k0 k1 : U32) (c : U32 × U32 × U32 × U32) : U32 × U32 × U32 × U32 :=
  let p0 := 0xD2511F53 * c.1.toNat
  let p1 := 0xCD9E8D57 * c.2.2.1.toNat
  (BitVec.ofNat 32 (p1 / 2 ^ 32) ^^^ c.2.1 ^^^ k0, BitVec.ofNat 32 p1,
    BitVec.ofNat 32 (p0 / 2 ^ 32) ^^^ c.2.2.2 ^^^ k1, BitVec.ofNat 32 p0)

/-- `n` rounds, the key bumped between them. -/
def philoxRounds : Nat → U32 → U32 → U32 × U32 × U32 × U32 → U32 × U32 × U32 × U32
  | 0, _, _, c => c
  | n + 1, k0, k1, c => philoxRounds n (k0 + 0x9E3779B9) (k1 + 0xBB67AE85) (philoxRound k0 k1 c)

/-- The four words of PHILOX for a seed, stitch counter, thread position and call index (R167). -/
def philoxWords (seed stitch pos call : Nat) : U32 × U32 × U32 × U32 :=
  let n := BitVec.ofNat 32
  philoxRounds 10 (n seed) (n (seed / 2 ^ 32))
    (n call, n pos, n stitch ^^^ n (seed / 2 ^ 64), n (stitch / 2 ^ 32) ^^^ n (seed / 2 ^ 96))

/-- The thread's linear position, the counter c1 (R167, R328). -/
def State.linearThread (s : State) (g : Group) (t : Nat) : Nat :=
  match g.role with
  | .vertex draw base => draw * 2 ^ 24 + base + t
  | .fragment _ frags =>
    match frags[t]? with
    | some f => f.ord * 8192 + f.y % 32 * 256 + f.x % 32 * 8 + f.sample
    | none => 0
  | .kernel =>
    match s.blocks.find g.block with
    | none => 64 * g.index + t
    | some b => b.linear * (64 * b.groups.length) + 64 * g.index + t

/-- PHILOX writes its four words to DST to DST+3 (R167, R168). -/
def execPhilox (g : Nat) (f : VForm) (s : State) : Out :=
  .next (s.runV g f
    (fun x => f.dst.toNat % 4 == 0 && x.names f.dst.toNat 4 && x.okB f && f.sa == 0 && f.sc == 0 && f.rnd == 0 &&
      !f.sat && f.ty == 0 && f.negAbs == 0 && f.sub == 0)
    (fun x e => x.each e (fun h t =>
      let w := philoxWords (s.programSeed x) (s.programStitch x).toNat (s.linearThread x t) (x.srcB f t).toNat
      (((h.setReg f.dst.toNat t w.1).setReg (f.dst.toNat + 1) t w.2.1).setReg (f.dst.toNat + 2) t w.2.2.1).setReg
        (f.dst.toNat + 3) t w.2.2.2)))

end Sys2Proof.Machine
end

