-- ==== Sys2Proof/Machine/Dispatch.lean ====
section
/-! DEFINITION. The one dispatch of the commands to their meanings. -/

namespace Sys2Proof.Machine

open Sys2Proof

/-- A command's effect on everything but the queue. -/
def exec (i : Instr) (s : State) : Host.Outcome State Fault Refusal :=
  match i with
  | .dieResetRelease inputs => Sys2Proof.Machine.execDieResetRelease inputs s
  | .dieResetAssert => Sys2Proof.Machine.execDieResetAssert s
  | .vrPgLoss => Sys2Proof.Machine.execVrPgLoss s
  | .hostLinkTrainRetry m0 m1 now => Sys2Proof.Machine.execHostLinkTrainRetry m0 m1 now s
  | .thimbleWatchdogExpiry t now => Sys2Proof.Machine.execThimbleWatchdogExpiry t now s
  | .frontEndRestart cause now => Sys2Proof.Machine.execFrontEndRestart cause now s
  | .ptnApplyGo cycles => Sys2Proof.Machine.execPtnApplyGo cycles s
  | .ptnValidateOnly cycles => Sys2Proof.Machine.execPtnValidateOnly cycles s
  | .applyAbandon cycles => Sys2Proof.Machine.execApplyAbandon cycles s
  | .ptnLiveWrite off v => Sys2Proof.Machine.execPtnLiveWrite off v s
  | .liveShadowTakeup p off => Sys2Proof.Machine.execLiveShadowTakeup p off s
  | .ptnStaticWrite off v => Sys2Proof.Machine.execPtnStaticWrite off v s
  | .ptnHaltReq v => Sys2Proof.Machine.execPtnHaltReq v s
  | .partitionHalted p => Sys2Proof.Machine.execPartitionHalted p s
  | .regulatorRefill => Sys2Proof.Machine.execRegulatorRefill s
  | .commandCommit job w => Sys2Proof.Machine.execCommandCommit job w s
  | .tileStoreCommit job tile e => Sys2Proof.Machine.execTileStoreCommit job tile e s
  | .dispatch => Sys2Proof.Machine.execDispatch s
  | .preemption job => Sys2Proof.Machine.execPreemption job s
  | .commandTimeout t => Sys2Proof.Machine.execCommandTimeout t s
  | .fadd g f => Sys2Proof.Machine.execFadd g f s
  | .fmul g f => Sys2Proof.Machine.execFmul g f s
  | .ffma g f => Sys2Proof.Machine.execFfma g f s
  | .fmin g f => Sys2Proof.Machine.execFmin g f s
  | .fmax g f => Sys2Proof.Machine.execFmax g f s
  | .fcmp g c f => Sys2Proof.Machine.execFcmp g c f s
  | .frcp g f => Sys2Proof.Machine.execFrcp g f s
  | .frsq g f => Sys2Proof.Machine.execFrsq g f s
  | .fsqrt g f => Sys2Proof.Machine.execFsqrt g f s
  | .fex2 g f => Sys2Proof.Machine.execFex2 g f s
  | .flg2 g f => Sys2Proof.Machine.execFlg2 g f s
  | .fsin g f => Sys2Proof.Machine.execFsin g f s
  | .fcos g f => Sys2Proof.Machine.execFcos g f s
  | .acvt g f => Sys2Proof.Machine.execAcvt g f s
  | .twAdd g f => Sys2Proof.Machine.execTwAdd g f s
  | .twAcc g f => Sys2Proof.Machine.execTwAcc g f s
  | .twMul g f => Sys2Proof.Machine.execTwMul g f s
  | .cvt g op f => Sys2Proof.Machine.execCvt g op f s
  | .integerInstruction g op f => Sys2Proof.Machine.execIntegerInstruction g op f s
  | .moveUniformInstruction g op f => Sys2Proof.Machine.execMoveUniformInstruction g op f s
  | .s2r g sel f => Sys2Proof.Machine.execS2r g sel f s
  | .shfl g f => Sys2Proof.Machine.execShfl g f s
  | .vote g f => Sys2Proof.Machine.execVote g f s
  | .bra g f => Sys2Proof.Machine.execBra g f s
  | .call g f => Sys2Proof.Machine.execCall g f s
  | .ret g f => Sys2Proof.Machine.execRet g f s
  | .exit g f => Sys2Proof.Machine.execExit g f s
  | .barSync g f => Sys2Proof.Machine.execBarSync g f s
  | .barArrive g f => Sys2Proof.Machine.execBarArrive g f s
  | .cbar g f => Sys2Proof.Machine.execCbar g f s
  | .fence g f => Sys2Proof.Machine.execFence g f s
  | .ld g f e => Sys2Proof.Machine.execLd g f e s
  | .st g f e => Sys2Proof.Machine.execSt g f e s
  | .atom g op f e => Sys2Proof.Machine.execAtom g op f e s
  | .atomCas g f e => Sys2Proof.Machine.execAtomCas g f e s
  | .atomAfadd g f e => Sys2Proof.Machine.execAtomAfadd g f e s
  | .philox g f => Sys2Proof.Machine.execPhilox g f s
  | .mloadA g f => Sys2Proof.Machine.execMloadA g f s
  | .mloadB g f => Sys2Proof.Machine.execMloadB g f s
  | .manchor g f => Sys2Proof.Machine.execManchor g f s
  | .mma g f => Sys2Proof.Machine.execMma g f s
  | .mstore g f => Sys2Proof.Machine.execMstore g f s
  | .madd g f => Sys2Proof.Machine.execMadd g f s
  | .residueFailure core engine bolt job => Sys2Proof.Machine.execResidueFailure core engine bolt job s
  | .texSample g f => Sys2Proof.Machine.execTexSample g f s
  | .texSampleLod g f => Sys2Proof.Machine.execTexSampleLod g f s
  | .texFetch g f => Sys2Proof.Machine.execTexFetch g f s
  | .imageStore g f => Sys2Proof.Machine.execImageStore g f s
  | .traceStart g f => Sys2Proof.Machine.execTraceStart g f s
  | .traceAccept g f => Sys2Proof.Machine.execTraceAccept g f s
  | .traceReject g f => Sys2Proof.Machine.execTraceReject g f s
  | .launch q stamp => Sys2Proof.Machine.execLaunch q stamp s
  | .copy job => Sys2Proof.Machine.execCopy job s
  | .fill job => Sys2Proof.Machine.execFill job s
  | .compress job n e => Sys2Proof.Machine.execCompress job n e s
  | .decompress job n e => Sys2Proof.Machine.execDecompress job n e s
  | .baste job => Sys2Proof.Machine.execBaste job s
  | .eventRecord q stamp => Sys2Proof.Machine.execEventRecord q stamp s
  | .eventWait q stamp => Sys2Proof.Machine.execEventWait q stamp s
  | .queueWaitResume q stamp => Sys2Proof.Machine.execQueueWaitResume q stamp s
  | .suspend q stamp => Sys2Proof.Machine.execSuspend q stamp s
  | .resume q stamp => Sys2Proof.Machine.execResume q stamp s
  | .cancel q stamp => Sys2Proof.Machine.execCancel q stamp s
  | .suspendKillTimeout job => Sys2Proof.Machine.execSuspendKillTimeout job s
  | .registerGraph q stamp => Sys2Proof.Machine.execRegisterGraph q stamp s
  | .graphUnregister q stamp => Sys2Proof.Machine.execGraphUnregister q stamp s
  | .patchGraphNode q stamp => Sys2Proof.Machine.execPatchGraphNode q stamp s
  | .patchGraphParameter q stamp => Sys2Proof.Machine.execPatchGraphParameter q stamp s
  | .deferredParameterWrite c graph blk => Sys2Proof.Machine.execDeferredParameterWrite c graph blk s
  | .nop q stamp => Sys2Proof.Machine.execNop q stamp s
  | .packLoad job stamp => Sys2Proof.Machine.execPackLoad job stamp s
  | .partitionContextSwitch job => Sys2Proof.Machine.execPartitionContextSwitch job s
  | .sqWrite q v => Sys2Proof.Machine.execSqWrite q v s
  | .cqRead q v => Sys2Proof.Machine.execCqRead q v s
  | .feCtxOpen fn => Sys2Proof.Machine.execFeCtxOpen fn s
  | .feCtxDestroy v => Sys2Proof.Machine.execFeCtxDestroy v s
  | .contextDestroyDrained c => Sys2Proof.Machine.execContextDestroyDrained c s
  | .feQueueCreate => Sys2Proof.Machine.execFeQueueCreate s
  | .feQueueDestroy q => Sys2Proof.Machine.execFeQueueDestroy q s
  | .queueDestroyRecord q stamp => Sys2Proof.Machine.execQueueDestroyRecord q stamp s
  | .feQueueContinue q => Sys2Proof.Machine.execFeQueueContinue q s
  | .feEventSignal fn v => Sys2Proof.Machine.execFeEventSignal fn v s
  | .feEventFail fn v => Sys2Proof.Machine.execFeEventFail fn v s
  | .feEventReset fn v => Sys2Proof.Machine.execFeEventReset fn v s
  | .idApertureWrite v => Sys2Proof.Machine.execIdApertureWrite v s
  | .pageWalk c va acc => Sys2Proof.Machine.execPageWalk c va acc s
  | .pageFault job va acc => Sys2Proof.Machine.execPageFault job va acc s
  | .mmuFaultResume v => Sys2Proof.Machine.execMmuFaultResume v s
  | .mmuFaultAbort v => Sys2Proof.Machine.execMmuFaultAbort v s
  | .mmuInvGo v => Sys2Proof.Machine.execMmuInvGo v s
  | .invalidationDone => Sys2Proof.Machine.execInvalidationDone s
  | .fltCtxResume c => Sys2Proof.Machine.execFltCtxResume c s
  | .fltCtxAbort c => Sys2Proof.Machine.execFltCtxAbort c s
  | .fltCtxInvGo c => Sys2Proof.Machine.execFltCtxInvGo c s
  | .contextLoss c err => Sys2Proof.Machine.execContextLoss c err s
  | .fqReadWrite c v => Sys2Proof.Machine.execFqReadWrite c v s
  | .pqReadWrite p v => Sys2Proof.Machine.execPqReadWrite p v s
  | .rowSpare unit row => Sys2Proof.Machine.execRowSpare unit row s
  | .wayDisable w => Sys2Proof.Machine.execWayDisable w s
  | .hotspotWindow p h => Sys2Proof.Machine.execHotspotWindow p h s
  | .lateDelivery job => Sys2Proof.Machine.execLateDelivery job s
  | .strictFreezeResume job refresh retry => Sys2Proof.Machine.execStrictFreezeResume job refresh retry s
  | .linkRetrain l => Sys2Proof.Machine.execLinkRetrain l s
  | .linkLost l now => Sys2Proof.Machine.execLinkLost l now s
  | .seamFlitReceive fl => Sys2Proof.Machine.execSeamFlitReceive fl s
  | .cxlMemAccess a => Sys2Proof.Machine.execCxlMemAccess a s
  | .cxlCacheSnoop addr inv => Sys2Proof.Machine.execCxlCacheSnoop addr inv s
  | .logEnableWrite p v => Sys2Proof.Machine.execLogEnableWrite p v s
  | .logTailWrite p v => Sys2Proof.Machine.execLogTailWrite p v s
  | .detClear => Sys2Proof.Machine.execDetClear s
  | .counterLoRead off => Sys2Proof.Machine.execCounterLoRead off s
  | .cluMxClear n => Sys2Proof.Machine.execCluMxClear n s
  | .cluMemClear n => Sys2Proof.Machine.execCluMemClear n s
  | .cmpClear => Sys2Proof.Machine.execCmpClear s
  | .splRetainWrite v => Sys2Proof.Machine.execSplRetainWrite v s
  | .spoolScrub errs => Sys2Proof.Machine.execSpoolScrub errs s
  | .l3cEnable v => Sys2Proof.Machine.execL3cEnable v s
  | .l3cInvalidate => Sys2Proof.Machine.execL3cInvalidate s
  | .l1Enable n v => Sys2Proof.Machine.execL1Enable n v s
  | .l2Enable n v => Sys2Proof.Machine.execL2Enable n v s
  | .l1Invalidate n => Sys2Proof.Machine.execL1Invalidate n s
  | .l2Invalidate n => Sys2Proof.Machine.execL2Invalidate n s
  | .cacheOperationDone u => Sys2Proof.Machine.execCacheOperationDone u s
  | .modeset p train => Sys2Proof.Machine.execModeset p train s
  | .flipReset p => Sys2Proof.Machine.execFlipReset p s
  | .flipWrite p v => Sys2Proof.Machine.execFlipWrite p v s
  | .flipSetCheck p => Sys2Proof.Machine.execFlipSetCheck p s
  | .flipLatch p => Sys2Proof.Machine.execFlipLatch p s
  | .verticalBlank p => Sys2Proof.Machine.execVerticalBlank p s
  | .lineBufferUnderflow p lines => Sys2Proof.Machine.execLineBufferUnderflow p lines s
  | .notchSignature p r missing => Sys2Proof.Machine.execNotchSignature p r missing s
  | .inkWrite p v => Sys2Proof.Machine.execInkWrite p v s
  | .inkPredictionExpiry p => Sys2Proof.Machine.execInkPredictionExpiry p s
  | .hpdConnect o sink train => Sys2Proof.Machine.execHpdConnect o sink train s
  | .hpdDisconnect o => Sys2Proof.Machine.execHpdDisconnect o s
  | .irqHpd o train => Sys2Proof.Machine.execIrqHpd o train s
  | .dspMirrorWrite v => Sys2Proof.Machine.execDspMirrorWrite v s
  | .interruptAssert src => Sys2Proof.Machine.execInterruptAssert src s
  | .msixMessageSend vec => Sys2Proof.Machine.execMsixMessageSend vec s
  | .icEoi vf v => Sys2Proof.Machine.execIcEoi vf v s
  | .icSourceEnable src v => Sys2Proof.Machine.execIcSourceEnable src v s
  | .icVectorWrite src v => Sys2Proof.Machine.execIcVectorWrite src v s
  | .thimbleInterrupt src => Sys2Proof.Machine.execThimbleInterrupt src s
  | .pwrPlatformWrite v => Sys2Proof.Machine.execPwrPlatformWrite v s
  | .pwrLevelReq v => Sys2Proof.Machine.execPwrLevelReq v s
  | .levelChange => Sys2Proof.Machine.execLevelChange s
  | .coolantLoss => Sys2Proof.Machine.execCoolantLoss s
  | .coolantRestore => Sys2Proof.Machine.execCoolantRestore s
  | .sensorSample temps => Sys2Proof.Machine.execSensorSample temps s
  | .thermalThrottleStep => Sys2Proof.Machine.execThermalThrottleStep s
  | .thermalTrip => Sys2Proof.Machine.execThermalTrip s
  | .criticalStop => Sys2Proof.Machine.execCriticalStop s
  | .powerLimitWindow energy => Sys2Proof.Machine.execPowerLimitWindow energy s
  | .islandClockGate core => Sys2Proof.Machine.execIslandClockGate core s
  | .sleepDoze => Sys2Proof.Machine.execSleepDoze s
  | .sleepNap => Sys2Proof.Machine.execSleepNap s
  | .sleepHold => Sys2Proof.Machine.execSleepHold s
  | .sleepOff => Sys2Proof.Machine.execSleepOff s
  | .sleepEntryRefused => Sys2Proof.Machine.execSleepEntryRefused s
  | .wakePin w => Sys2Proof.Machine.execWakePin w s
  | .sidebandWake => Sys2Proof.Machine.execSidebandWake s
  | .retestDue slot => Sys2Proof.Machine.execRetestDue slot s
  | .retestSegment slot found => Sys2Proof.Machine.execRetestSegment slot found s
  | .quarantineSlotTest slot found => Sys2Proof.Machine.execQuarantineSlotTest slot found s
  | .slotRejoin slot => Sys2Proof.Machine.execSlotRejoin slot s
  | .darningMapWrite => Sys2Proof.Machine.execDarningMapWrite s
  | .poweredHoursWrite h => Sys2Proof.Machine.execPoweredHoursWrite h s
  | .entdaa addr => Sys2Proof.Machine.execEntdaa addr s
  | .rstdaa => Sys2Proof.Machine.execRstdaa s
  | .enec ev => Sys2Proof.Machine.execEnec ev s
  | .disec ev => Sys2Proof.Machine.execDisec ev s
  | .getpid => Sys2Proof.Machine.execGetpid s
  | .getbcr => Sys2Proof.Machine.execGetbcr s
  | .getdcr => Sys2Proof.Machine.execGetdcr s
  | .getstatus => Sys2Proof.Machine.execGetstatus s
  | .getmxds => Sys2Proof.Machine.execGetmxds s
  | .setmwl v => Sys2Proof.Machine.execSetmwl v s
  | .getmwl => Sys2Proof.Machine.execGetmwl s
  | .setmrl v => Sys2Proof.Machine.execSetmrl v s
  | .getmrl => Sys2Proof.Machine.execGetmrl s
  | .enthdr0 => Sys2Proof.Machine.execEnthdr0 s
  | .rstact v => Sys2Proof.Machine.execRstact v s
  | .serviceResponseRead => Sys2Proof.Machine.execServiceResponseRead s
  | .info tag => Sys2Proof.Machine.execInfo tag s
  | .readReg tag off => Sys2Proof.Machine.execReadReg tag off s
  | .writeReg tag off v => Sys2Proof.Machine.execWriteReg tag off v s
  | .wake tag => Sys2Proof.Machine.execWake tag s
  | .uploadBegin tag len handle => Sys2Proof.Machine.execUploadBegin tag len handle s
  | .uploadBlock tag idx data crc => Sys2Proof.Machine.execUploadBlock tag idx data crc s
  | .uploadEnd tag => Sys2Proof.Machine.execUploadEnd tag s
  | .uploadStatus tag => Sys2Proof.Machine.execUploadStatus tag s
  | .prepare tag e partner => Sys2Proof.Machine.execPrepare tag e partner s
  | .commit tag e partner => Sys2Proof.Machine.execCommit tag e partner s
  | .slotBCopy => Sys2Proof.Machine.execSlotBCopy s
  | .getPubkey tag => Sys2Proof.Machine.execGetPubkey tag s
  | .attest tag nonce => Sys2Proof.Machine.execAttest tag nonce s
  | .makerChallenge tag => Sys2Proof.Machine.execMakerChallenge tag s
  | .makerEnter tag token => Sys2Proof.Machine.execMakerEnter tag token s
  | .dramRefresh ch cycles => Sys2Proof.Machine.execDramRefresh ch cycles s
  | .refreshRateRead rates => Sys2Proof.Machine.execRefreshRateRead rates s
  | .dramScrub errs => Sys2Proof.Machine.execDramScrub errs s
  | .bypass => Sys2Proof.Machine.execBypass s
  | .idcode => Sys2Proof.Machine.execIdcode s
  | .samplePreload => Sys2Proof.Machine.execSamplePreload s
  | .extest => Sys2Proof.Machine.execExtest s
  | .clamp => Sys2Proof.Machine.execClamp s
  | .highz => Sys2Proof.Machine.execHighz s
  | .registerWrite bar off size v => Sys2Proof.Machine.execRegisterWrite bar off size v s
  | .powerLoss => Sys2Proof.Machine.execPowerLoss s
  | .linkRetrained l now => Sys2Proof.Machine.execLinkRetrained l now s
  | .sectorProgrammed => Sys2Proof.Machine.execSectorProgrammed s
  | .retestOverdue slot => Sys2Proof.Machine.execRetestOverdue slot s
  | .msixEntryUnmask e => Sys2Proof.Machine.execMsixEntryUnmask e s
  | .undefinedEncoding g word => Sys2Proof.Machine.execUndefinedEncoding g word s
  | .undefinedSlotOpcode q => Sys2Proof.Machine.execUndefinedSlotOpcode q s
  | .undefinedServiceCommand tag cmd => Sys2Proof.Machine.execUndefinedServiceCommand tag cmd s

end Sys2Proof.Machine
end

