-- ==== Sys2Proof/Machine/Words.lean ====
section
/-! DEFINITION. The words of thread instructions: the four forms as 64-bit words, and the instructions whose CLASS and
OP the rules give, with the instruction that a word stands for (R77 to R80, R95, R108, R147, R151, R168, R339).
The rules give no OP values for the classes 0x0, 0x3 and 0xA and for the atomics of class 0x5, and no SUB values for the
comparisons of FCMP: which operation such a word stands for is Config's, and no word is written for them. Commands carry instructions already read; nothing else uses these definitions but
`State.fetched`. -/

namespace Sys2Proof.Machine

open Sys2Proof

/-! ### Forms -/

/-- Bits [63:48] (R77). -/
def headBits (pneg : Bool) (pred : BitVec 3) (cls : BitVec 4) (op : BitVec 6) (sel : BitVec 2) : BitVec 16 :=
  BitVec.ofBool pneg ++ pred ++ cls ++ op ++ sel

/-- The first word of form V (R78). -/
def vWord (f : VForm) (cls : BitVec 4) (op : BitVec 6) : U64 :=
  headBits f.pneg f.pred cls op f.sel ++
    (f.dst ++ f.sa ++ f.sb ++ f.sc ++ f.rnd ++ BitVec.ofBool f.sat ++ f.ty ++ f.negAbs ++ f.sub)

/-- The fields of a word of form V, with the immediate of its second word. -/
def vOfWord (w : U64) (imm : U32) : VForm :=
  { pneg := w.getLsbD 63, pred := w.extractLsb' 60 3, sel := w.extractLsb' 48 2, dst := w.extractLsb' 40 8,
    sa := w.extractLsb' 32 8, sb := w.extractLsb' 24 8, sc := w.extractLsb' 16 8, rnd := w.extractLsb' 13 3,
    sat := w.getLsbD 12, ty := w.extractLsb' 10 2, negAbs := w.extractLsb' 6 4, sub := w.extractLsb' 0 6, imm := imm }

/-- The words of form V: SEL 2 adds a second word whose bits [31:0] hold the immediate (R78). -/
def vWordList (f : VForm) (cls : BitVec 4) (op : BitVec 6) : List U64 :=
  if f.sel = 2 then [vWord f cls op, f.imm.setWidth 64] else [vWord f cls op]

/-- Form M (R79). -/
def mWord (f : MForm) (cls : BitVec 4) (op : BitVec 6) : U64 :=
  headBits f.pneg f.pred cls op f.space ++ (f.data ++ f.addr ++ f.size ++ f.sem ++ f.scope ++ f.offset)

def mOfWord (w : U64) : MForm :=
  { pneg := w.getLsbD 63, pred := w.extractLsb' 60 3, space := w.extractLsb' 48 2, data := w.extractLsb' 40 8,
    addr := w.extractLsb' 32 8, size := w.extractLsb' 29 3, sem := w.extractLsb' 27 2, scope := w.extractLsb' 24 3,
    offset := w.extractLsb' 0 24 }

/-- Form B (R80); bits [49:48] have no meaning in it and are written as 0. -/
def bWord (f : BForm) (op : BitVec 6) : U64 :=
  headBits f.pneg f.pred 0x8 op 0 ++ (f.target ++ f.join)

def bOfWord (w : U64) : BForm :=
  { pneg := w.getLsbD 63, pred := w.extractLsb' 60 3, target := w.extractLsb' 24 24, join := w.extractLsb' 0 24 }

/-- Form X (R80): bit [49] is the engine; bit [48] has no meaning in it and is written as 0. -/
def xWord (f : XForm) (op : BitVec 6) : U64 :=
  headBits f.pneg f.pred 0x9 op (BitVec.ofBool f.engine ++ 0#1) ++ (f.a ++ f.b ++ f.out ++ f.fmtA ++ f.fmtB ++ f.flags)

def xOfWord (w : U64) : XForm :=
  { pneg := w.getLsbD 63, pred := w.extractLsb' 60 3, engine := w.getLsbD 49, a := w.extractLsb' 40 8,
    b := w.extractLsb' 32 8, out := w.extractLsb' 24 8, fmtA := w.extractLsb' 19 5, fmtB := w.extractLsb' 14 5,
    flags := w.extractLsb' 0 14 }

/-! ### Instructions -/

/-- CLASS and OP of the thread instructions for which the rules give them. -/
def opOf : Instr → Option (BitVec 4 × BitVec 6)
  | .fadd _ _ => some (0x1, 0x00)
  | .fmul _ _ => some (0x1, 0x01)
  | .ffma _ _ => some (0x1, 0x02)
  | .fmin _ _ => some (0x1, 0x03)
  | .fmax _ _ => some (0x1, 0x04)
  | .frcp _ _ => some (0x1, 0x08)
  | .frsq _ _ => some (0x1, 0x09)
  | .fsqrt _ _ => some (0x1, 0x0A)
  | .fex2 _ _ => some (0x1, 0x0B)
  | .flg2 _ _ => some (0x1, 0x0C)
  | .fsin _ _ => some (0x1, 0x0D)
  | .fcos _ _ => some (0x1, 0x0E)
  | .twAdd _ _ => some (0x1, 0x10)
  | .twAcc _ _ => some (0x1, 0x11)
  | .twMul _ _ => some (0x1, 0x12)
  | .acvt _ _ => some (0x1, 0x14)
  | .cvt _ op _ => some (0x2, op)
  | .ld _ _ _ => some (0x4, 0x00)
  | .st _ _ _ => some (0x4, 0x01)
  | .shfl _ _ => some (0x6, 0x00)
  | .vote _ _ => some (0x6, 0x01)
  | .barSync _ _ => some (0x7, 0x00)
  | .barArrive _ _ => some (0x7, 0x01)
  | .cbar _ _ => some (0x7, 0x02)
  | .fence _ _ => some (0x7, 0x03)
  | .bra _ _ => some (0x8, 0x00)
  | .call _ _ => some (0x8, 0x01)
  | .ret _ _ => some (0x8, 0x02)
  | .exit _ _ => some (0x8, 0x03)
  | .mloadA _ _ => some (0x9, 0x00)
  | .mloadB _ _ => some (0x9, 0x01)
  | .manchor _ _ => some (0x9, 0x02)
  | .mma _ _ => some (0x9, 0x03)
  | .mstore _ _ => some (0x9, 0x04)
  | .madd _ _ => some (0x9, 0x05)
  | .traceStart _ _ => some (0xB, 0x00)
  | .traceAccept _ _ => some (0xB, 0x00)
  | .traceReject _ _ => some (0xB, 0x00)
  | .philox _ _ => some (0xC, 0x00)
  | _ => none

/-- The words of an instruction whose CLASS and OP the rules give. -/
def encodeWords (i : Instr) : Option (List U64) :=
  (opOf i).bind (fun c =>
    match i with
    | .fadd _ f | .fmul _ f | .ffma _ f | .fmin _ f | .fmax _ f | .frcp _ f | .frsq _ f | .fsqrt _ f | .fex2 _ f
    | .flg2 _ f | .fsin _ f | .fcos _ f | .twAdd _ f | .twAcc _ f | .twMul _ f | .acvt _ f | .cvt _ _ f | .shfl _ f
    | .vote _ f | .barSync _ f | .barArrive _ f | .cbar _ f | .fence _ f | .traceStart _ f | .traceAccept _ f
    | .traceReject _ f | .philox _ f => some (vWordList f c.1 c.2)
    | .ld _ f _ | .st _ f _ => some [mWord f c.1 c.2]
    | .bra _ f | .call _ f | .ret _ f | .exit _ f => some [bWord f c.2]
    | .mloadA _ f | .mloadB _ f | .manchor _ f | .mma _ f | .mstore _ f | .madd _ f => some [xWord f c.2]
    | _ => none)

/-- The instruction of class 0x1 with an OP. -/
def decodeFloat (g op : Nat) (f : VForm) : Option Instr :=
  match op with
  | 0x00 => some (.fadd g f)
  | 0x01 => some (.fmul g f)
  | 0x02 => some (.ffma g f)
  | 0x03 => some (.fmin g f)
  | 0x04 => some (.fmax g f)
  | 0x08 => some (.frcp g f)
  | 0x09 => some (.frsq g f)
  | 0x0A => some (.fsqrt g f)
  | 0x0B => some (.fex2 g f)
  | 0x0C => some (.flg2 g f)
  | 0x0D => some (.fsin g f)
  | 0x0E => some (.fcos g f)
  | 0x10 => some (.twAdd g f)
  | 0x11 => some (.twAcc g f)
  | 0x12 => some (.twMul g f)
  | 0x14 => some (.acvt g f)
  | _ => none

/-- The operations of the classes to which R77 gives no OP values, in the order that Config.opIndex numbers. -/
def allConds : List Cond := [.eq, .ne, .lt, .le, .gt, .ge]

def intOps : List IntOp :=
  [.iadd, .imad, .shl, .shr false, .shr true, .and, .or, .xor, .imin false, .imin true, .imax false, .imax true] ++
    allConds.flatMap (fun c => [.icmp c false, .icmp c true])

def s2rSels : List S2rSel :=
  [.thread, .group, .blockX, .blockY, .blockZ, .blockLinear, .rank, .clusterSize, .gridX, .gridY, .gridZ, .stitchLo,
    .stitchHi, .seed 0, .seed 1, .seed 2, .seed 3, .clock 0]

def moveOps (g : Nat) (f : VForm) : List Instr :=
  ([MoveOp.mov, .umov, .uadd] ++ (List.range 8).map (fun p => MoveOp.sel (BitVec.ofNat 3 p))).map
      (Instr.moveUniformInstruction g · f) ++
    s2rSels.map (Instr.s2r g · f)

def atomOps (g : Nat) (f : MForm) : List Instr :=
  (([false, true].flatMap (fun r =>
      [AtomOp.iadd r, .and r, .or r, .xor r, .imin r false, .imin r true, .imax r false, .imax r true, .fadd r]) ++
    [AtomOp.exch]).map (Instr.atom g · f .none)) ++ [.atomCas g f .none, .atomAfadd g f .none]

def texOps (g : Nat) (f : VForm) : List Instr := [.texSample g f, .texSampleLod g f, .texFetch g f, .imageStore g f]

/-- The instruction of group `g` that a word stands for, with the immediate of its second word: an undefined encoding for the
reserved classes and for an OP that its class lacks (R77 to R80, R335, R339). -/
def decodeWord (g : Nat) (w : U64) (imm : U32) : Option Instr :=
  let v := vOfWord w imm
  let m := mOfWord w
  let b := bOfWord w
  let x := xOfWord w
  let op := (w.extractLsb' 50 6).toNat
  let undef := some (Instr.undefinedEncoding g w)
  match (w.extractLsb' 56 4).toNat with
  | 0x0 => (((intOps[Config.opIndex 0x0 op v.sub.toNat]?).map (Instr.integerInstruction g · v))).orElse (fun _ => undef)
  | 0x1 =>
    if op = 0x05 then (((allConds[Config.opIndex 0x1 op v.sub.toNat]?).map (Instr.fcmp g · v))).orElse (fun _ => undef)
    else (decodeFloat g op v).orElse (fun _ => undef)
  | 0x2 => some (.cvt g (w.extractLsb' 50 6) v)
  | 0x3 => ((moveOps g v)[Config.opIndex 0x3 op v.sub.toNat]?).orElse (fun _ => undef)
  | 0x4 => match op with
    | 0 => some (.ld g m .none)
    | 1 => some (.st g m .none)
    | _ => undef
  | 0x5 => ((atomOps g m)[Config.opIndex 0x5 op 0]?).orElse (fun _ => undef)
  | 0x6 => match op with
    | 0 => some (.shfl g v)
    | 1 => some (.vote g v)
    | _ => undef
  | 0x7 => match op with
    | 0 => some (.barSync g v)
    | 1 => some (.barArrive g v)
    | 2 => some (.cbar g v)
    | 3 => some (.fence g v)
    | _ => undef
  | 0x8 => match op with
    | 0 => some (.bra g b)
    | 1 => some (.call g b)
    | 2 => some (.ret g b)
    | 3 => some (.exit g b)
    | _ => undef
  | 0x9 => match op with
    | 0 => some (.mloadA g x)
    | 1 => some (.mloadB g x)
    | 2 => some (.manchor g x)
    | 3 => some (.mma g x)
    | 4 => some (.mstore g x)
    | 5 => some (.madd g x)
    | _ => undef
  | 0xA => if Config.opIndex 0xA op 0 = 0 then (texOps g v)[v.sub.toNat % 4]? else undef
  | 0xB => if op ≠ 0 then undef else match (v.sub).toNat with
    | 0 => some (.traceStart g v)
    | 1 => some (.traceAccept g v)
    | 2 => some (.traceReject g v)
    | _ => undef
  | 0xC => if op = 0 then some (.philox g v) else undef
  | _ => undef

/-- The first word of a list has a second word: form V with SEL 2. -/
def isLong (w : U64) : Bool :=
  !([0x4, 0x5, 0x8, 0x9, 0xD, 0xE, 0xF].contains (w.extractLsb' 56 4).toNat) && w.extractLsb' 48 2 == 2#2

/-- The instruction at the head of a list of words, and the words after it. -/
def decodeWords (g : Nat) : List U64 → Option (Instr × List U64)
  | [] => none
  | w :: rest =>
    if isLong w then
      match rest with
      | [] => none
      | v :: rest => (decodeWord g w (v.setWidth 32)).map (fun i => (i, rest))
    else (decodeWord g w 0).map (fun i => (i, rest))

/-- The instruction that a group of a kernel stands at: the words at its code address and offset, little-endian
(R77, R272). -/
def State.fetched (s : State) (g : Nat) : Option Instr :=
  match s.groups.find g with
  | none => none
  | some x =>
    match s.jobs.find x.job with
    | none => none
    | some v =>
      let at' := fun (i : Nat) => BitVec.ofNat 64 (ofBytes (s.vread v.ctx (field v.payload 0 8 + 8 * (x.pc + i)) 8))
      (decodeWords g [at' 0, at' 1]).map Prod.fst

end Sys2Proof.Machine
end

