-- ==== Sys2Proof/WellFormed.lean ====
section
/-! DEFINITION. The commands whose operands lie in the ranges that the rules give them. A command outside its range is
an event that cannot happen; it leaves the state unchanged or reads what an unlisted unit reads. -/

namespace Sys2Proof

/-- The immediate stands only in the long form (R78). -/
def VForm.wf (f : VForm) : Bool := f.sel == 2 || f.imm == 0

/-- An aligned 32-bit register offset in BAR0 (R10, R237). -/
def wfOffset (off : Nat) : Bool := off % 4 == 0 && decide (off < 0x1000000)

/-- Indices of the replicated units of a die. -/
def wfPartition (p : Nat) : Bool := decide (p < 16)
def wfContext (c : Nat) : Bool := decide (c < 256)
def wfQueue (q : Nat) : Bool := decide (q < 1024)
def wfCluster (n : Nat) : Bool := decide (n < 8)
def wfCore (k : Nat) : Bool := decide (k < 64)
def wfPipe (p : Nat) : Bool := decide (p < 4)
def wfVector (v : Nat) : Bool := decide (v < 64)

/-- A cache error names one of the three levels (R209). -/
def MemEvent.wf : MemEvent → Bool
  | .cacheUncorrectable level _ _ _ => decide (1 ≤ level.toNat)
  | .cacheCorrected level _ _ => decide (1 ≤ level.toNat)
  | _ => true

def SramUnit.wf : SramUnit → Bool
  | .spool b n => decide (b < 8) && decide (n < 32)
  | .localMem k b => wfCore k && decide (b < 32)
  | .tileBuffer k => wfCore k

def TimeoutOf.wf : TimeoutOf → Bool
  | .job _ => true
  | .head q => wfQueue q

/-- An interrupt source: 0 to 127 to the host, 128 to 255 to the Thimble cores, 256 to 511 of the contexts (R391, R394). -/
def wfSource (src : Nat) : Bool := decide (src < 512)

/-- Training results of one module: at most 16 lanes in use after repair (R467, R468). -/
def ModuleTrain.wf (m : ModuleTrain) : Bool := decide (m.width ≤ 64) && decide (m.rate ≤ 64)

/-- A command's operands lie in their ranges. -/
def Instr.wf : Instr → Bool
  | .dieResetRelease i => i.host0.wf && i.host1.wf && i.seam0.wf && i.seam1.wf &&
      i.badSlots.all (fun e => wfCluster e.1 && decide (e.2 < 9))
  | .hostLinkTrainRetry m0 m1 _ => m0.wf && m1.wf
  | .thimbleWatchdogExpiry t _ => decide (t < 6)
  | .ptnLiveWrite off _ | .ptnStaticWrite off _ | .counterLoRead off => wfOffset off
  | .liveShadowTakeup p off => wfPartition p && wfOffset off
  | .partitionHalted p | .hotspotWindow p _ | .logEnableWrite p _ | .logTailWrite p _ | .pqReadWrite p _ => wfPartition p
  | .tileStoreCommit _ _ e | .compress _ _ e | .decompress _ _ e => e.wf
  | .commandTimeout t => t.wf
  | .fadd _ f | .fmul _ f | .ffma _ f | .fmin _ f | .fmax _ f | .fcmp _ _ f | .frcp _ f | .frsq _ f | .fsqrt _ f
  | .fex2 _ f | .flg2 _ f | .fsin _ f | .fcos _ f | .acvt _ f | .twAdd _ f | .twAcc _ f | .twMul _ f | .cvt _ _ f
  | .integerInstruction _ _ f | .moveUniformInstruction _ _ f | .s2r _ _ f | .shfl _ f | .vote _ f | .barSync _ f
  | .barArrive _ f | .cbar _ f | .fence _ f | .philox _ f => f.wf
  | .texSample _ f => f.wf && f.sub.toNat % 4 == 0
  | .texSampleLod _ f => f.wf && f.sub.toNat % 4 == 1
  | .texFetch _ f => f.wf && f.sub.toNat % 4 == 2
  | .imageStore _ f => f.wf && f.sub.toNat % 4 == 3
  | .traceStart _ f => f.wf && f.sub == 0
  | .traceAccept _ f => f.wf && f.sub == 1
  | .traceReject _ f => f.wf && f.sub == 2
  | .ld _ _ e | .st _ _ e | .atom _ _ _ e | .atomCas _ _ e | .atomAfadd _ _ e => e.wf
  | .residueFailure k e _ _ => wfCore k && decide (e < 2)
  | .launch q _ | .eventRecord q _ | .eventWait q _ | .queueWaitResume q _ | .suspend q _ | .resume q _ | .cancel q _
  | .registerGraph q _ | .graphUnregister q _ | .patchGraphNode q _ | .patchGraphParameter q _ | .nop q _ | .sqWrite q _
  | .cqRead q _ | .feQueueDestroy q | .queueDestroyRecord q _ | .feQueueContinue q | .undefinedSlotOpcode q => wfQueue q
  | .deferredParameterWrite c _ _ | .contextDestroyDrained c | .fltCtxResume c | .fltCtxAbort c
  | .fltCtxInvGo c | .contextLoss c _ | .fqReadWrite c _ => wfContext c
  | .pageWalk c _ a => wfContext c && a.core.all wfCore
  | .feCtxOpen fn | .feEventSignal fn _ | .feEventFail fn _ | .feEventReset fn _ => decide (fn < 16)
  | .rowSpare u _ => u.wf
  | .wayDisable w => decide (w < 16)
  | .cluMxClear n | .cluMemClear n | .l1Enable n _ | .l2Enable n _ | .l1Invalidate n | .l2Invalidate n => wfCluster n
  | .spoolScrub es => es.all (fun e => decide (e.bank < 8) && decide (e.sub < 32))
  | .cacheOperationDone u => match u with
    | .l3 => true
    | .l1 n | .l2 n => wfCluster n
  | .modeset p _ | .flipReset p | .flipWrite p _ | .flipSetCheck p | .flipLatch p | .verticalBlank p
  | .lineBufferUnderflow p _ | .inkWrite p _ | .inkPredictionExpiry p => wfPipe p
  | .notchSignature p r _ => wfPipe p && decide (r < 16)
  | .hpdConnect o _ _ | .hpdDisconnect o | .irqHpd o _ => decide (o < 3)
  | .interruptAssert src | .icSourceEnable src _ | .icVectorWrite src _ | .thimbleInterrupt src => wfSource src
  | .msixMessageSend v | .msixEntryUnmask v => decide (v ≤ 64)
  | .islandClockGate k | .retestDue k | .retestSegment k _ | .quarantineSlotTest k _ | .slotRejoin k | .retestOverdue k =>
    wfCore k
  | .wakePin w => decide (w < 4)
  | .entdaa a => decide (a < 128)
  | .readReg _ off | .writeReg _ off _ => decide (off < 2 ^ 32)
  | .uploadBlock _ _ d _ => d.length == 4096
  | .attest _ n => n.length == 32
  | .dramRefresh ch _ => decide (ch < 16)
  | .refreshRateRead rs => rs.length == 16
  | .dramScrub es => es.all (fun e => decide (e.channel < 16))
  | .registerWrite bar _ size _ => decide (bar < 48) && (size == 1 || size == 2 || size == 4)
  | .seamFlitReceive fl => decide (fl.messages.length ≤ 248)
  | .cxlMemAccess a => match a with
    | .read addr _ => addr % 64 == 0
    | .write addr bs => decide (addr % 64 + bs.length ≤ 64)
  | .cxlCacheSnoop a _ => a % 64 == 0
  | .dieResetAssert | .vrPgLoss | .frontEndRestart _ _ | .ptnApplyGo _ | .ptnValidateOnly _ | .applyAbandon _
  | .ptnHaltReq _ | .regulatorRefill | .commandCommit _ _ | .dispatch | .preemption _ | .bra _ _ | .call _ _ | .ret _ _
  | .exit _ _ | .mloadA _ _ | .mloadB _ _ | .manchor _ _ | .mma _ _ | .mstore _ _ | .madd _ _ | .copy _ | .fill _
  | .baste _ | .suspendKillTimeout _ | .packLoad _ _ | .partitionContextSwitch _
  | .feCtxDestroy _ | .feQueueCreate | .idApertureWrite _ | .pageFault _ _ _ | .mmuFaultResume _ | .mmuFaultAbort _
  | .mmuInvGo _ | .invalidationDone | .lateDelivery _ | .strictFreezeResume _ _ _ | .linkRetrain _ | .linkLost _ _
  | .detClear | .cmpClear | .splRetainWrite _ | .l3cEnable _ | .l3cInvalidate | .dspMirrorWrite _ | .icEoi _ _
  | .pwrPlatformWrite _ | .pwrLevelReq _ | .levelChange | .coolantLoss | .coolantRestore | .sensorSample _
  | .thermalThrottleStep | .thermalTrip | .criticalStop | .powerLimitWindow _ | .sleepDoze | .sleepNap | .sleepHold
  | .sleepOff | .sleepEntryRefused | .sidebandWake | .darningMapWrite | .poweredHoursWrite _ | .rstdaa | .enec _
  | .disec _ | .getpid | .getbcr | .getdcr | .getstatus | .getmxds | .setmwl _ | .getmwl | .setmrl _ | .getmrl
  | .enthdr0 | .rstact _ | .serviceResponseRead | .info _ | .wake _ | .uploadBegin _ _ _ | .uploadEnd _
  | .uploadStatus _ | .prepare _ _ _ | .commit _ _ _ | .slotBCopy | .getPubkey _ | .makerChallenge _ | .makerEnter _ _
  | .bypass | .idcode | .samplePreload | .extest | .clamp | .highz | .powerLoss | .linkRetrained _ _ | .sectorProgrammed
  | .undefinedEncoding _ _ | .undefinedServiceCommand _ _ => true

/-- A word gives the instruction back: its operands are well-formed, and nothing has happened on an access's way. -/
def Instr.readable (i : Instr) : Bool :=
  i.wf &&
    match i with
    | .ld _ _ e | .st _ _ e => e == .none
    | _ => true

end Sys2Proof
end

