-- ==== Sys2Proof/Safety.lean ====
section
/-! DEFINITION. What counts as a safe run, and the terms in which claims about thread instructions speak. -/

namespace Sys2Proof

open Sys2Proof.Machine

/-- A step that neither faults nor refuses. -/
def Machine.State.Safe (s : State) : Prop := ∃ t, step s = .next t

/-- Memory in its canonical form, device memory and the flash alike. -/
def Machine.State.Canonical (s : State) : Prop := s.mem.wf = true ∧ s.flash.wf = true

/-- Group `x`, at key `g`, may issue an instruction with this guard, and its executing set is not empty (R60, R61). -/
def Issues (s : State) (g : Nat) (x : Group) (pneg : Bool) (p : BitVec 3) : Prop :=
  s.mayIssue g = some x ∧ x.executing pneg p ≠ 0

/-- `y` is group `x` past an instruction of `n` words, but for its vector registers; each thread of `e` holds the words
`k t` in the registers from `d` on, and every other register is as in `x`. -/
def Lanes (x y : Group) (n d : Nat) (e : U64) (k : Nat → List U32) : Prop :=
  y = { x.advance n with regs := y.regs } ∧
  ∀ r t, t < 64 → y.reg r t =
    if bit e t = true ∧ d ≤ r ∧ r < d + (k t).length then (k t).getD (r - d) 0 else x.reg r t

/-- `y` is group `x` past an instruction of `n` words, but for one predicate register: each thread of `e` has the bit
`k t` in predicate `d`, p7 stays as it reads, and every other predicate and bit is as in `x` (R59). -/
def PredLanes (x y : Group) (n d : Nat) (e : U64) (k : Nat → Bool) : Prop :=
  y = { x.advance n with preds := y.preds } ∧
  ∀ p t, t < 64 → bit (y.pred p) t = if bit e t = true ∧ p = d ∧ d ≠ 7 then k t else bit (x.pred p) t

/-- The words that a 64-bit value takes in a register pair, low word first (R57). -/
def pairWords (v : U64) : List U32 := [v.truncate 32, (v >>> 32).truncate 32]

/-- The pair of a twin-thread value, hi in the low register (R90). -/
def twinWords (v : FVal) : List U32 := [BitVec.ofNat 32 (twinOf v).1, BitVec.ofNat 32 (twinOf v).2]

/-- The words of DST that an operation of up to three sources gives thread `t`: one FP32 or FP64 value, or the two
halves of a pair, with ABS, NEG, RND and SAT as R78 and R96 have them. -/
def fpWords (f : VForm) (op : Fmt → Rnd → FVal → FVal → FVal → Nat) (x : Group) (t : Nat) : List U32 :=
  let m := typeFmt f.ty
  let one := fun a b c =>
    let v := op m ((Rnd.ofField f.rnd.toNat).getD .rne) (modified m (absA f) (negA f) a) (modified m (absB f) (negB f) b)
      (m.decode c)
    if f.sat then m.sat01 v else v
  let a := (x.reg f.sa.toNat t).toNat
  let b := (x.srcB f t).toNat
  let c := (x.reg f.sc.toNat t).toNat
  if f.ty = 1 then
    pairWords (BitVec.ofNat 64
      (one (x.pair f.sa.toNat t).toNat (x.srcB64 f t).toNat (x.pair f.sc.toNat t).toNat))
  else if f.ty = 0 then [BitVec.ofNat 32 (one a b c)]
  else [BitVec.ofNat 32 (one (a % 65536) (b % 65536) (c % 65536) + 65536 * one (a / 65536) (b / 65536) (c / 65536))]

/-- An operation in continuation form passes every check it makes and goes on in `t`. -/
def Goes (op : (State → State) → State) (t : State) : Prop := ∀ k, op k = k t

/-- The same, for an operation that hands something on. -/
def GoesWith {α : Type} (op : (State → α → State) → State) (t : State) (a : α) : Prop := ∀ k, op k = k t a

/-- A request of the service port is answered in state `u`: the die has an address, does not sleep in Hold, and what the
last command returned is gone (R443, R444). -/
def Asks (s u : State) : Prop :=
  s.svcUp = true ∧ s.svc.addr ≠ none ∧ s.pwr.state ≠ .hold ∧
  u = { s with svc := { s.svc with reply := [], nack := false, ibis := [], hdr := false, response := none } }

/-! ### Instructions as words -/

/-- The group that a thread instruction names. -/
def Instr.groupOf : Instr → Nat
  | .fadd g _ | .fmul g _ | .ffma g _ | .fmin g _ | .fmax g _ | .frcp g _ | .frsq g _ | .fsqrt g _ | .fex2 g _
  | .flg2 g _ | .fsin g _ | .fcos g _ | .acvt g _ | .twAdd g _ | .twAcc g _ | .twMul g _ | .cvt g _ _ | .shfl g _
  | .vote g _ | .barSync g _ | .barArrive g _ | .cbar g _ | .fence g _ | .ld g _ _ | .st g _ _ | .bra g _ | .call g _
  | .ret g _ | .exit g _ | .philox g _ | .mloadA g _ | .mloadB g _ | .manchor g _ | .mma g _ | .mstore g _ | .madd g _
  | .traceStart g _ | .traceAccept g _ | .traceReject g _ => g
  | _ => 0

/-- The fields that every TRACE instruction uses have defined values, on a part that has the ray unit (R339, R341). -/
def okTrace (s : State) (x : Group) (f : VForm) : Bool :=
  s.hasRay && f.sel == 1 && f.sb.toNat % 2 == 0 && decide (f.sb.toNat < 64) && f.sa.toNat % 4 == 0 &&
    f.dst.toNat % 4 == 0 && x.names f.sa.toNat 8 && x.names f.dst.toNat 8

/-- The fields of an instruction of form V that runs for its executing set have values that the rules define, for a
group in a state (R56, R57, R78, R95, R147, R148, R151, R168, R335, R339). -/
def Instr.defined (s : State) (x : Group) : Instr → Bool
  | .fadd _ f | .fmul _ f | .fmin _ f | .fmax _ f => okBinary f x
  | .ffma _ f => okBinary f x && okReg x f.ty f.sc
  | .fcmp _ _ f => decide (f.dst.toNat < 8) && okReg x f.ty f.sa && okSrcB x f && (Rnd.ofField f.rnd.toNat).isSome
  | .frcp _ f => okUnary f true false (f.ty == 1) x
  | .frsq _ f => okUnary f true false false x
  | .fsqrt _ f => okUnary f true true true x
  | .fex2 _ f | .flg2 _ f | .fsin _ f | .fcos _ f => okUnary f false false false x
  | .acvt _ f => okAcvt f x
  | .twAdd _ f => s.levelOf x == 2 && okTwin f true true false x
  | .twAcc _ f => s.levelOf x == 2 && okTwin f false false true x
  | .twMul _ f => s.levelOf x == 2 && okTwin f true false false x
  | .cvt _ op f =>
    match Fmt.ofCode op.toNat, Fmt.ofCode (f.sub.toNat % 32) with
    | some a, some b => okCvt op f a b x
    | _, _ => false
  | .integerInstruction _ op f => okInt op f x
  | .moveUniformInstruction _ .mov f => x.names f.dst.toNat 1 && x.okB f
  | .moveUniformInstruction _ (.sel _) f => x.names f.dst.toNat 1 && x.names f.sa.toNat 1 && x.okB f
  | .s2r _ _ f => x.names f.dst.toNat 1
  | .shfl _ f => x.names f.dst.toNat 1 && x.names f.sa.toNat 1 && x.okB f && decide (f.sub.toNat < 4)
  | .barSync _ f | .barArrive _ f => f.sel != 2 && !(f.sel == 1 && decide (64 ≤ f.sb.toNat))
  | .fence _ f => f.sub.toNat % 8 != 7
  | .philox _ f => f.dst.toNat % 4 == 0 && x.names f.dst.toNat 4 && x.okB f && f.sa == 0 && f.sc == 0 && f.rnd == 0 &&
      !f.sat && f.ty == 0 && f.negAbs == 0 && f.sub == 0
  | .texSample _ f | .texSampleLod _ f | .texFetch _ f =>
    f.sel == 1 && f.sb.toNat % 4 == 0 && decide (f.sb.toNat < 64) && x.names f.dst.toNat 4 && x.names f.sc.toNat 1 &&
      x.names f.sa.toNat 2
  | .imageStore _ f => f.sel == 1 && f.sb.toNat % 4 == 0 && decide (f.sb.toNat < 64) && x.names f.dst.toNat 4 &&
      x.names f.sa.toNat 2 && !(bit f.sub 2 && s.strictGroup x)
  | .traceStart _ f => okTrace s x f && x.names f.sc.toNat 1
  | .traceAccept _ f => okTrace s x f && (x.names f.sc.toNat 1 ||
      (threads (x.executing f.pneg f.pred)).all (fun t => (x.rays.find t).all (fun y => !y.procedural)))
  | .traceReject _ f => okTrace s x f
  | _ => true

/-- The instructions of form V that run for the threads of their executing set, with group and fields. -/
def Instr.laneForm : Instr → Option (Nat × VForm)
  | .fadd g f | .fmul g f | .ffma g f | .fmin g f | .fmax g f | .fcmp g _ f | .frcp g f | .frsq g f | .fsqrt g f
  | .fex2 g f | .flg2 g f | .fsin g f | .fcos g f | .acvt g f | .twAdd g f | .twAcc g f | .twMul g f | .cvt g _ f
  | .integerInstruction g _ f | .moveUniformInstruction g .mov f | .moveUniformInstruction g (.sel _) f | .s2r g _ f
  | .shfl g f | .barSync g f | .barArrive g f | .cbar g f | .fence g f | .philox g f | .texSample g f
  | .texSampleLod g f | .texFetch g f | .imageStore g f | .traceStart g f | .traceAccept g f | .traceReject g f =>
    some (g, f)
  | _ => none

end Sys2Proof
end

