-- ==== Sys2Proof/Certificates/Slice0/Obligations.lean ====
section
/-! DEFINITION. What the provers are asked: statements about the commands of the block, by the chapters of the manual. -/

open Sys2Proof Sys2Proof.Machine

/-! ### The block and its queue -/

/-- A step takes the command at the front of the queue and answers what its effect on the rest answers. -/
def Obligations.StepRunsFrontCommand : Prop :=
  ∀ (c : Instr) (s : State), step (s.withCommand c) = exec c s

/-- On an empty queue the block idles: nothing changes but a start that commands have found on its way, which goes on
(the model's choice, assumption 2). No command ends the machine: each answers a next state. -/
def Obligations.IdleGoesOnAndNothingStops : Prop :=
  (∀ s : State, s.pending = [] →
     step s = .next s.startTick ∧ (s.die.waiting = none → step s = .next s)) ∧
  (∀ (c : Instr) (s : State), ∃ t, exec c s = .next t)

/-! ### Words of instructions -/

/-- The worked example of the encodings: FFMA.F32.RNE g12 = g4 * g5 + g6 under p1, as its word and as its stored
bytes; with it a MANCHOR, a BRA and a long form. Where the manual's words leave a case to the reader it takes the
model's own reading, in entries 10 and 11 of the assumption log, which are no rule of the manual. -/
def Obligations.WordsReadAsTheSpecWritesThem : Prop :=
  (∀ g : Nat, decodeWords g [0x11080C0405060000] =
    some (.ffma g ⟨false, 1, 0, 12, 4, 5, 6, 0, false, 0, 0, 0, 0⟩, [])) ∧
  toBytes 8 0x11080C0405060000 = [0x00, 0x00, 0x06, 0x05, 0x04, 0x0C, 0x08, 0x11] ∧
  (∀ g : Nat, decodeWords g [0x790A0408000DC021] =
    some (.manchor g ⟨false, 7, true, 4, 8, 0, 1, 23, 33⟩, [])) ∧
  (∀ g : Nat, decodeWords g [0xF800FFFFFE000004] = some (.bra g ⟨true, 7, 0xFFFFFE, 4⟩, [])) ∧
  (∀ g : Nat, decodeWords g [0x7102050600000000, 0x3F800000] =
    some (.fadd g ⟨false, 7, 2, 5, 6, 0, 0, 0, false, 0, 0, 0, 0x3F800000⟩, []))

/-- Every instruction whose CLASS and OP the rules give is read back from its words, whatever words follow. Where the
manual's words leave a case to the reader it takes the model's own reading, in entries 10 and 11 of the assumption
log, which are no rule of the manual. -/
def Obligations.WordsRoundTrip : Prop :=
  ∀ (i : Instr) (ws rest : List U64), i.readable = true → encodeWords i = some ws →
    decodeWords i.groupOf (ws ++ rest) = some (i, rest)

/-! ### Registers, guards and lanes -/

/-- Predicate p7 reads all ones in every group, so that its guard lets every active thread execute, and a write to it
changes nothing; so a compare into p7 leaves every predicate as it was. -/
def Obligations.PredicateSevenIsFixed : Prop :=
  (∀ x : Group, x.pred 7 = 0xFFFFFFFFFFFFFFFF ∧ x.executing false 7 = x.active ∧ x.executing true 7 = 0) ∧
  (∀ (x : Group) (t : Nat) (b : Bool), x.setPred 7 t b = x) ∧
  (∀ (s : State) (g : Nat) (x : Group) (c : Cond) (f : VForm),
    f.dst = 7 → s.mayIssue g = some x → f.sel ≠ 3 → okReg x f.ty f.sa = true → okSrcB x f = true →
    (Rnd.ofField f.rnd.toNat).isSome = true →
    exec (.fcmp g c f) s = .next (s.setGroup g (x.advance (vWords f)))) ∧
  (∀ (s : State) (g : Nat) (x : Group) (c : Cond) (b : Bool) (f : VForm),
    f.dst = 7 → s.mayIssue g = some x → f.sel ≠ 3 → x.names f.sa.toNat 1 = true → x.okB f = true →
    exec (.integerInstruction g (.icmp c b) f) s = .next (s.setGroup g (x.advance (vWords f))))

/-- An instruction of form V whose executing set is empty only moves its group on; VOTE and the uniform instructions,
which act even then, are not among these. Where the manual's words leave a case to the reader it takes the model's own
reading, in entry 25 of the assumption log, which is no rule of the manual. -/
def Obligations.EmptyExecutingSet : Prop :=
  ∀ (i : Instr) (s : State) (g : Nat) (f : VForm) (x : Group), i.laneForm = some (g, f) →
    s.mayIssue g = some x → x.executing f.pneg f.pred = 0 →
    exec i s = .next (s.setGroup g (x.advance (vWords f)))

/-- FADD, FMUL, FFMA, FMIN, FMAX and FSQRT give each executing thread the exact result rounded once, of one FP32 or
FP64 value or of the two halves of a pair. Where the manual's words leave a case to the reader it takes the model's
own reading, in entries 16 and 18 of the assumption log, which are no rule of the manual. -/
def Obligations.FloatingPointLanes : Prop :=
  ∀ (s : State) (g : Nat) (x : Group) (f : VForm), Issues s g x f.pneg f.pred → f.sel ≠ 3 →
    let e := x.executing f.pneg f.pred
    let gives := fun (i : Instr) (op : Fmt → Rnd → FVal → FVal → FVal → FVal) =>
      ∃ y, exec i s = .next (s.setGroup g y) ∧
        Lanes x y (vWords f) f.dst.toNat e (fpWords f (fun m r a b c => m.encode r false (op m r a b c)) x)
    (okBinary f x = true →
      gives (.fadd g f) (fun _ r a b _ => FVal.addWith r a b) ∧ gives (.fmul g f) (fun _ _ a b _ => FVal.mul a b) ∧
      gives (.fmin g f) (fun _ _ a b _ => fminVal a b) ∧
      gives (.fmax g f) (fun _ _ a b _ => (fminVal a.neg b.neg).neg) ∧
      (okReg x f.ty f.sc = true → gives (.ffma g f) (fun _ r a b c => FVal.addWith r (FVal.mul a b) c))) ∧
    (okUnary f true true true x = true → gives (.fsqrt g f) (fun _ _ a _ _ => a.sqrt))

/-- FCMP and the integer compare write one predicate bit of each executing thread; which bit two packed results give
is free. Where the manual's words leave a case to the reader it takes the model's own reading, in entries 16, 17, 18
and 19 of the assumption log, which are no rule of the manual. -/
def Obligations.ComparesWritePredicates : Prop :=
  ∀ (s : State) (g : Nat) (x : Group) (c : Cond) (f : VForm), Issues s g x f.pneg f.pred → f.sel ≠ 3 →
    f.dst.toNat < 8 →
    let e := x.executing f.pneg f.pred
    (f.ty = 0 → okReg x f.ty f.sa = true → okSrcB x f = true → (Rnd.ofField f.rnd.toNat).isSome = true →
      ∃ y, exec (.fcmp g c f) s = .next (s.setGroup g y) ∧
        PredLanes x y (vWords f) f.dst.toNat e (fun t =>
          fcompare c (modified .fp32 (absA f) (negA f) (x.reg f.sa.toNat t).toNat)
            (modified .fp32 (absB f) (negB f) (x.srcB f t).toNat))) ∧
    (f.ty = 1 → okReg x f.ty f.sa = true → okSrcB x f = true → (Rnd.ofField f.rnd.toNat).isSome = true →
      ∃ y, exec (.fcmp g c f) s = .next (s.setGroup g y) ∧
        PredLanes x y (vWords f) f.dst.toNat e (fun t =>
          fcompare c (modified .fp64 (absA f) (negA f) (x.pair f.sa.toNat t).toNat)
            (modified .fp64 (absB f) (negB f) (x.srcB64 f t).toNat))) ∧
    (f.ty = 2 ∨ f.ty = 3 → okReg x f.ty f.sa = true → okSrcB x f = true → (Rnd.ofField f.rnd.toNat).isSome = true →
      let one := fun (a b : Nat) =>
        fcompare c (modified (typeFmt f.ty) (absA f) (negA f) a) (modified (typeFmt f.ty) (absB f) (negB f) b)
      ∃ y, exec (.fcmp g c f) s = .next (s.setGroup g y) ∧
        PredLanes x y (vWords f) f.dst.toNat e (fun t =>
          let a := (x.reg f.sa.toNat t).toNat
          let b := (x.srcB f t).toNat
          Config.packedCmp (one (a % 65536) (b % 65536)) (one (a / 65536) (b / 65536)))) ∧
    (∀ signed : Bool, x.names f.sa.toNat 1 = true → x.okB f = true →
      ∃ y, exec (.integerInstruction g (.icmp c signed) f) s = .next (s.setGroup g y) ∧
        PredLanes x y (vWords f) f.dst.toNat e (fun t =>
          icompare c (asInt signed (intSource (absA f) (negA f) (x.reg f.sa.toNat t)))
            (asInt signed (intSource (absB f) (negB f) (x.srcB f t)))))

/-- FRCP, FRSQ, FEX2, FLG2, FSIN and FCOS: FP64 FRCP is correctly rounded, FEX2 is exact for integers and +0 below the
smallest subnormal, FLG2 is exact for powers of two, and every other result lies within the bound of R148 of the exact
one (the value within it is free). ACVT rounds the exact slot value once; the twin-thread instructions of level 2 give
the pair of the exact sum or product; CVT gives the code of its source value in the target format, FP64 and twin
values as a pair. Where the manual's words leave a case to the reader it takes the model's own reading, in entries 15,
16 and 18 of the assumption log, which are no rule of the manual. -/
def Obligations.ApproximateAndConversionLanes : Prop :=
  (∀ (s : State) (g : Nat) (x : Group) (f : VForm), Issues s g x f.pneg f.pred → f.sel ≠ 3 →
     let e := x.executing f.pneg f.pred
     let gives := fun (i : Instr) (op : Fmt → Rnd → FVal → Nat) =>
       ∃ y, exec i s = .next (s.setGroup g y) ∧
         Lanes x y (vWords f) f.dst.toNat e (fpWords f (fun m r a _ _ => op m r a) x)
     (okUnary f true false (f.ty == 1) x = true → gives (.frcp g f) (fun m r a =>
       if m = .fp64 then m.encode r false a.recip else approximate 0x08 m a a.recip (ulps m 1 a.recip))) ∧
     (okUnary f true false false x = true → gives (.frsq g f) (fun m _ a =>
       approximate 0x09 m a a.sqrt.recip (ulps m 1 a.sqrt.recip))) ∧
     (okUnary f false false false x = true →
       gives (.fex2 g f) (fun m _ a =>
         if FVal.lt a.exp2 (.fin false 1 (-149)) then 0
         else if a.integral then m.encode .rne false a.exp2 else approximate 0x0B m a a.exp2 (ulps m 2 a.exp2)) ∧
       gives (.flg2 g f) (fun m _ a =>
         if a.powerOfTwo && decide (0 < a.sgn) then m.encode .rne false a.log2
         else approximate 0x0C m a a.log2
           (if !FVal.lt a (.fin false 1 (-1)) && !FVal.lt (.fin false 2 0) a then .fin false 1 (-22)
            else ulps m 2 a.log2)) ∧
       gives (.fsin g f) (fun m _ a => sinusoid 0x0D 0 m a) ∧ gives (.fcos g f) (fun m _ a => sinusoid 0x0E 1 m a))) ∧
  (∀ (s : State) (g : Nat) (x : Group) (f : VForm), Issues s g x f.pneg f.pred → f.sel ≠ 3 →
     let e := x.executing f.pneg f.pred
     let gives := fun (i : Instr) (k : Nat → List U32) =>
       ∃ y, exec i s = .next (s.setGroup g y) ∧ Lanes x y (vWords f) f.dst.toNat e k
     (okAcvt f x = true → gives (.acvt g f) (fun t =>
       let lo := (x.pair f.sa.toNat t).toNat
       let v := if f.sub = 0 then slotVal 64 lo (signedOf 16 (x.ureg f.sb.toNat).toNat)
         else slotVal 128 (lo + 2 ^ 64 * (x.pair (f.sa.toNat + 2) t).toNat) (signedOf 16 (x.ureg f.sb.toNat).toNat)
       let c := (typeFmt f.ty).encode ((Rnd.ofField f.rnd.toNat).getD .rne) false v
       if f.ty = 0 then [BitVec.ofNat 32 c] else pairWords (BitVec.ofNat 64 c))) ∧
     (s.levelOf x = 2 →
       (okTwin f true true false x = true →
         gives (.twAdd g f) (fun t => twinWords (FVal.addWith .rne (x.twin f.sa.toNat t) (x.twin f.sb.toNat t)))) ∧
       (okTwin f false false true x = true →
         gives (.twAcc g f) (fun t => twinWords
           (FVal.addWith .rne (x.twin f.sc.toNat t) (FVal.mul (x.f32 f.sa.toNat t) (x.f32 f.sb.toNat t))))) ∧
       (okTwin f true false false x = true →
         gives (.twMul g f) (fun t => twinWords (FVal.mul (x.twin f.sa.toNat t) (x.f32 f.sb.toNat t))))) ∧
     (∀ (op : OpField) (a b : Fmt), Fmt.ofCode op.toNat = some a → Fmt.ofCode (f.sub.toNat % 32) = some b →
       okCvt op f a b x = true → b.isPair = false →
       gives (.cvt g op f) (fun t =>
         let c := b.encode ((Rnd.ofField f.rnd.toNat).getD .rne) (bit f.sub 5) (cvtSource a f x t)
         [widen b (if f.sat then b.sat01 c else c)])) ∧
     (∀ (op : OpField) (a : Fmt), Fmt.ofCode op.toNat = some a →
       (Fmt.ofCode (f.sub.toNat % 32) = some .fp64 → okCvt op f a .fp64 x = true →
         gives (.cvt g op f) (fun t =>
           let c := Fmt.fp64.encode ((Rnd.ofField f.rnd.toNat).getD .rne) (bit f.sub 5) (cvtSource a f x t)
           pairWords (BitVec.ofNat 64 (if f.sat then Fmt.fp64.sat01 c else c)))) ∧
       (Fmt.ofCode (f.sub.toNat % 32) = some .tw32 → okCvt op f a .tw32 x = true →
         gives (.cvt g op f) (fun t =>
           let p := cvtTwin (if a = .tw32 then .rne else (Rnd.ofField f.rnd.toNat).getD .rne) (bit f.sub 5) (cvtSource a f x t)
           let q := if f.sat then twinSat p else p
           [BitVec.ofNat 32 q.1, BitVec.ofNat 32 q.2]))))

/-- Integer operations, MOV, SEL and S2R write DST of each executing thread; UMOV and UADD write a uniform register
once for the group, whatever its executing set. S2R of the clock counts as loose, and in a strict program reads 0.
VOTE: ALL, ANY, BALLOT and COUNT of the predicate that SA names (the model's reading, assumption 22) over the
executing set; for an empty one ALL writes 1 and the others 0. Where the manual's words leave a case to the reader it
takes the model's own reading, in entries 14, 18, 19, 20, 21 and 22 of the assumption log, which are no rule of the
manual. -/
def Obligations.IntegerMovesAndVotes : Prop :=
  (∀ (s : State) (g : Nat) (x : Group) (f : VForm), f.sel ≠ 3 →
     let e := x.executing f.pneg f.pred
     let gives := fun (i : Instr) (k : Nat → U32) =>
       ∃ y, exec i s = .next (s.setGroup g y) ∧ Lanes x y (vWords f) f.dst.toNat e (fun t => [k t])
     (Issues s g x f.pneg f.pred →
       (∀ op : IntOp, (∀ c b, op ≠ .icmp c b) → okInt op f x = true →
         gives (.integerInstruction g op f) (fun t =>
           let r := intResult op (intSource (absA f) (negA f) (x.reg f.sa.toNat t))
             (intSource (absB f) (negB f) (x.srcB f t)) (x.reg f.sc.toNat t)
           if f.sat then intSat (signedResult op) r else r)) ∧
       (x.names f.dst.toNat 1 = true → x.okB f = true → gives (.moveUniformInstruction g .mov f) (x.srcB f)) ∧
       (∀ p, x.names f.dst.toNat 1 = true → x.names f.sa.toNat 1 = true → x.okB f = true →
         gives (.moveUniformInstruction g (.sel p) f) (fun t =>
           if bit (x.pred p.toNat) t then x.reg f.sa.toNat t else x.srcB f t)) ∧
       (∀ sel, x.names f.dst.toNat 1 = true → (∀ c, sel ≠ .clock c) →
         gives (.s2r g sel f) (fun t => s.special x sel t)) ∧
       (∀ c, x.names f.dst.toNat 1 = true → ∃ y, exec (.s2r g (.clock c) f) s = .next ((s.setGroup g y).loosen x.job) ∧
         Lanes x y (vWords f) f.dst.toNat e (fun _ => [if s.strictGroup x then 0 else c]))) ∧
     (s.mayIssue g = some x → f.sel = 1 ∨ f.sel = 2 → f.dst.toNat < 64 → (f.sel = 1 → f.sb.toNat < 64) →
       let b := if f.sel = 1 then x.ureg f.sb.toNat else f.imm
       (∃ y, exec (.moveUniformInstruction g .umov f) s = .next (s.setGroup g y) ∧
         y = { x.advance (vWords f) with uregs := y.uregs } ∧
         ∀ r, y.ureg r = if r = f.dst.toNat then b else x.ureg r) ∧
       (f.sa.toNat < 64 → ∃ y, exec (.moveUniformInstruction g .uadd f) s = .next (s.setGroup g y) ∧
         y = { x.advance (vWords f) with uregs := y.uregs } ∧
         ∀ r, y.ureg r = if r = f.dst.toNat then x.ureg f.sa.toNat + b else x.ureg r))) ∧
  (∀ (s : State) (g : Nat) (x : Group) (f : VForm), s.mayIssue g = some x → f.sel ≠ 3 → f.sa.toNat < 8 →
     f.dst.toNat < 64 → (f.sub = 2 → f.dst.toNat % 2 = 0) →
     let e := x.executing f.pneg f.pred
     let m := e &&& x.pred f.sa.toNat
     let gives := fun (w : Nat → U32) (n : Nat) =>
       ∃ y, exec (.vote g f) s = .next (s.setGroup g y) ∧ y = { x.advance (vWords f) with uregs := y.uregs } ∧
         ∀ r, y.ureg r = if f.dst.toNat ≤ r ∧ r < f.dst.toNat + n then w (r - f.dst.toNat) else x.ureg r
     (f.sub = 0 → gives (fun _ => if (List.range 64).all (fun t => !bit e t || bit (x.pred f.sa.toNat) t) then 1 else 0) 1) ∧
     (f.sub = 1 → gives (fun _ => if (List.range 64).any (fun t => bit e t && bit (x.pred f.sa.toNat) t) then 1 else 0) 1) ∧
     (f.sub = 2 → gives (fun i => if i = 0 then m.truncate 32 else (m >>> 32).truncate 32) 2) ∧
     (f.sub = 3 → gives (fun _ => BitVec.ofNat 32
       ((List.range 64).countP (fun t => bit e t && bit (x.pred f.sa.toNat) t))) 1))

/-- SHFL: the value and the output bit of each executing thread are as R64 decides them; the bit goes to the predicate
that DST names, a free one where DST is above 7 (assumption 22). PHILOX writes the four words of Philox4x32-10 for the
seed, the stitch counter, the thread's position and its call index. Which predicate takes the output bit for a DST
above 7 is not ruled on; there it is a free one (entry 22 of the assumption log). -/
def Obligations.ShuffleAndPhilox : Prop :=
  (∀ (s : State) (g : Nat) (x : Group) (f : VForm), Issues s g x f.pneg f.pred → f.sel ≠ 3 →
     x.names f.dst.toNat 1 = true → x.names f.sa.toNat 1 = true → x.okB f = true → f.sub.toNat < 4 →
     let e := x.executing f.pneg f.pred
     ∃ y, exec (.shfl g f) s = .next (s.setGroup g y) ∧
       y = { x.advance (vWords f) with regs := y.regs, preds := y.preds } ∧
       ∀ t, t < 64 →
         let b := (x.srcB f t).toNat
         let src : Option Nat :=
           if f.sub.toNat = 0 then some (b % 64)
           else if f.sub.toNat = 1 then (if b ≤ t then some (t - b) else none)
           else if f.sub.toNat = 2 then (if t + b < 64 then some (t + b) else none)
           else some (t ^^^ (b % 64))
         let v := match src with
           | none => x.reg f.sa.toNat t
           | some i => if bit e i then x.reg f.sa.toNat i else 0
         let hit := match src with
           | none => false
           | some i => bit e i
         (∀ r, y.reg r t = if bit e t = true ∧ r = f.dst.toNat then v else x.reg r t) ∧
         (∀ p, bit (y.pred p) t =
           if bit e t = true ∧ p = outBit f ∧ p ≠ 7 then hit else bit (x.pred p) t)) ∧
  (∀ (s : State) (g : Nat) (x : Group) (f : VForm), Issues s g x f.pneg f.pred → f.sel ≠ 3 → f.dst.toNat % 4 = 0 →
     x.names f.dst.toNat 4 = true → x.okB f = true → f.sa = 0 → f.sc = 0 → f.rnd = 0 → f.sat = false → f.ty = 0 →
     f.negAbs = 0 → f.sub = 0 →
     ∃ y, exec (.philox g f) s = .next (s.setGroup g y) ∧
       Lanes x y (vWords f) f.dst.toNat (x.executing f.pneg f.pred) (fun t =>
         let w := philoxWords (s.programSeed x) (s.programStitch x).toNat (s.linearThread x t) (x.srcB f t).toNat
         [w.1, w.2.1, w.2.2.1, w.2.2.2]))

/-! ### Traps, control flow, memory and matrix instructions -/

/-- A field value that the rules do not define traps with kind 1 at the lowest executing thread, the SEL value 3 in
every instruction of form V among them; so do an instruction that the manual does not define, and a VOTE or a uniform
instruction with such a field. Where the manual's words leave a case to the reader it takes the model's own reading,
in entries 18, 29 and 111 of the assumption log, which are no rule of the manual. -/
def Obligations.UndefinedEncodingsTrap : Prop :=
  (∀ (i : Instr) (s : State) (g : Nat) (f : VForm) (x : Group), i.laneForm = some (g, f) →
    Issues s g x f.pneg f.pred → f.sel = 3 ∨ i.defined s x = false →
    exec i s = .next (s.trap x 1 (lowest (x.executing f.pneg f.pred)))) ∧
  (∀ (s : State) (g : Nat) (w : U64) (x : Group), s.mayIssue g = some x →
    let e := x.executing (bit w 63) (w.extractLsb' 60 3)
    (e ≠ 0 → exec (.undefinedEncoding g w) s = .next (s.trap x 1 (lowest e))) ∧
    (e = 0 → exec (.undefinedEncoding g w) s = .next (s.setGroup g (x.advance 1)))) ∧
  (∀ (s : State) (g : Nat) (f : VForm) (x : Group), s.mayIssue g = some x →
    f.sel = 3 ∨ 8 ≤ f.sa.toNat ∨ 4 ≤ f.sub.toNat ∨ 64 ≤ f.dst.toNat ∨ (f.sub = 2 ∧ f.dst.toNat % 2 = 1) →
    exec (.vote g f) s = .next (s.trap x 1 (lowest (x.executing f.pneg f.pred)))) ∧
  (∀ (s : State) (g : Nat) (f : VForm) (x : Group), s.mayIssue g = some x →
    f.sel = 0 ∨ f.sel = 3 ∨ 64 ≤ f.dst.toNat ∨ (f.sel = 1 ∧ 64 ≤ f.sb.toNat) →
    exec (.moveUniformInstruction g .umov f) s = .next (s.trap x 1 (lowest (x.executing f.pneg f.pred))))

/-- BRA: threads that agree jump together or fall through together; else the join address with the active mask is
pushed, then the fall-through address with the threads that do not branch, and the branching threads run first at the
target. A path goes on with the top entry's address and its live threads when it reaches the entry's join address, and
at no other address. Putting a group back changes that group alone, where all of its stack stands on chip. CALL keeps
the address after it and goes to its target; RET goes back to the innermost kept address; EXIT takes the executing
threads out of the live and active masks and out of every stack entry, and the group goes on with the rest or retires.
Where the manual's words leave a case to the reader it takes the model's own reading, in entries 24, 30 and 124 of the
assumption log, which are no rule of the manual. -/
def Obligations.BranchesCallsAndExits : Prop :=
  ((∀ (s : State) (g : Nat) (x : Group) (f : BForm), s.mayIssue g = some x →
     let e := x.executing f.pneg f.pred
     let target := jump x.pc f.target
     let join := jump x.pc f.join
     (e = 0 → exec (.bra g f) s = .next (s.setGroup g (x.goto (x.pc + 1)))) ∧
     (e ≠ 0 → e = x.active → exec (.bra g f) s = .next (s.setGroup g (x.goto target))) ∧
     (e ≠ 0 → e ≠ x.active → x.stack.length + 2 ≤ s.stackLimit x →
       exec (.bra g f) s = .next (s.setGroup g (Group.goto
         { x with active := e, stack := (join, x.pc + 1, x.active &&& ~~~e) :: (join, join, x.active) :: x.stack }
         target))) ∧
     (e ≠ 0 → e ≠ x.active → s.stackLimit x < x.stack.length + 2 →
       exec (.bra g f) s = .next (s.trap x 1 (lowest e)))) ∧
   (∀ (x : Group) (join a : Nat) (m : U64) (st : List (Nat × Nat × U64)), x.stack = (join, a, m) :: st →
     x.goto join = Group.goto { x with active := m &&& x.live, stack := st } a) ∧
   (∀ (x : Group) (pc join a : Nat) (m : U64) (st : List (Nat × Nat × U64)), x.stack = (join, a, m) :: st → pc ≠ join →
     x.goto pc = { x with pc := pc }) ∧
   (∀ (x : Group) (pc : Nat), x.stack = [] → x.goto pc = { x with pc := pc }) ∧
   (∀ (s : State) (g : Nat) (x : Group), x.stack.length ≤ 16 → x.spilled = [] →
     s.setGroup g x = { s with groups := s.groups.set g x })) ∧
  (∀ (s : State) (g : Nat) (x : Group) (f : BForm), Issues s g x f.pneg f.pred →
     let e := x.executing f.pneg f.pred
     exec (.call g f) s = .next (s.setGroup g (Group.goto { x with calls := (x.pc + 1) :: x.calls } (jump x.pc f.target))) ∧
     (∀ a rest, x.calls = a :: rest →
       exec (.ret g f) s = .next (s.setGroup g (Group.goto { x with calls := rest } a))) ∧
     (x.calls = [] → exec (.ret g f) s = .next (s.trap x 1 (lowest e))) ∧
     (let y := { x with live := x.live &&& ~~~e, active := x.active &&& ~~~e,
                        stack := x.stack.map (fun q => (q.1, q.2.1, q.2.2 &&& ~~~e)) }
      (y.live ≠ 0 → exec (.exit g f) s = .next (s.setGroup g (y.goto (x.pc + 1)))) ∧
      (y.live = 0 → exec (.exit g f) s = .next
        (((((s.setGroup g { y with retired := true }).capture y).settleBlock x.block).retireBlock x.block).jobProgress
          x.job))))

/-- Barriers and fences: an executing set other than the live mask traps before anything is counted; an arrival that
does not complete its barrier is counted, and BAR.SYNC and CBAR wait; the last arrival frees every group that waited,
or at b15 of a PARKABLE kernel under suspension parks the block; FENCE does what a release and then an acquire at its
scope do: at die scope or wider the deltas of its cluster are added at their homes, at cluster scope or wider its
core's L1 is invalidated, and at package scope or wider the sibling-homed lines of its L2 are written back and
invalidated. Where the manual's words leave a case to the reader it takes the model's own reading, in entries 23, 28,
30, 48 and 107 of the assumption log, which are no rule of the manual. -/
def Obligations.BarriersAndFences : Prop :=
  ∀ (s : State) (g : Nat) (x : Group) (f : VForm), Issues s g x f.pneg f.pred →
    let e := x.executing f.pneg f.pred
    (f.sel = 0 ∨ (f.sel = 1 ∧ f.sb.toNat < 64) → e ≠ x.live →
      exec (.barSync g f) s = .next (s.trapAt x (.divergence false) (lowest e)) ∧
      exec (.barArrive g f) s = .next (s.trapAt x (.divergence false) (lowest e))) ∧
    (f.sel ≠ 3 → e ≠ x.live → exec (.cbar g f) s = .next (s.trapAt x (.divergence false) (lowest e))) ∧
    (∀ b : Block, s.blocks.find x.block = some b → e = x.live →
      let n := f.sa.toNat % 16
      let y : Barrier := b.barriers.get {} n
      let arrived : Nat → List Nat → State := fun want w => s.setBlock x.block { b with
        barriers := b.barriers.set n { arrived := y.arrived + 1, expected := if f.sel = 1 then some want else none,
                                       waiting := w } }
      let waits : Group := { x.advance (vWords f) with wait := .barrier n }
      let count : State → Nat := fun u =>
        if f.sel = 1 then (x.ureg f.sb.toNat).toNat else (u.liveGroups x.block).length
      let named := (x.ureg f.sb.toNat).toNat
      let u := (arrived named (g :: y.waiting)).setGroup g waits
      let v := (arrived named y.waiting).setGroup g (x.advance (vWords f))
      (f.sel = 0 ∨ (f.sel = 1 ∧ f.sb.toNat < 64) →
        (u.blocks.find x.block = (arrived named (g :: y.waiting)).blocks.find x.block → y.arrived + 1 ≠ count u →
          exec (.barSync g f) s = .next u) ∧
        (v.blocks.find x.block = (arrived named y.waiting).blocks.find x.block → y.arrived + 1 ≠ count v →
          exec (.barArrive g f) s = .next v) ∧
        (x.stack.length ≤ 16 → x.spilled = [] → y.arrived + 1 = count u →
          n ≠ 15 ∨ (∀ v, s.jobs.find b.job = some v → v.suspending = false) →
          ∃ t, exec (.barSync g f) s = .next t ∧ t.groups.find g = some { x.advance (vWords f) with wait := .none } ∧
          (∀ k z, k ≠ g → s.groups.find k = some z → k ∈ y.waiting →
            t.groups.find k = some { z with wait := .none }) ∧
          (∀ z, t.blocks.find x.block = some z → z.barriers.find n = none)) ∧
        (∀ v, s.jobs.find b.job = some v → v.parkable = true → v.suspending = true → y.arrived + 1 = count u → n = 15 →
          (∀ k z, (k, z) ∈ u.liveGroups x.block → (k = g ∨ k ∈ y.waiting) ∧ z.stack = []) → x.stack.length ≤ 16 →
          x.spilled = [] →
          ∃ t z, exec (.barSync g f) s = .next t ∧ t.blocks.find x.block = some z ∧ z.parked = true)) ∧
      (f.sel ≠ 3 →
        let v := (s.setBlock x.block { b with cbar := g :: b.cbar }).setGroup g
          { x.advance (vWords f) with wait := .cbar }
        (v.blocks.find x.block = some { b with cbar := g :: b.cbar } →
          (v.clusterBlocks b).any (fun q => (v.liveGroups q.1).any (fun z => !q.2.cbar.contains z.1)) = true →
          exec (.cbar g f) s = .next v) ∧
        (v.blocks.find x.block = some { b with cbar := g :: b.cbar } →
          (v.clusterBlocks b).all (fun q => (v.liveGroups q.1).all (fun z => q.2.cbar.contains z.1)) = true →
          b.retired = false →
          ∃ t, exec (.cbar g f) s = .next t ∧
            ∀ k z, v.groups.find k = some z → (∃ q ∈ v.clusterBlocks b, k ∈ q.2.cbar) →
              t.groups.find k = some { z with wait := .none }))) ∧
    (f.sel ≠ 3 → f.sub.toNat % 8 ≠ 7 →
      let scope := f.sub.toNat % 8
      let c := s.clusterOf x
      let u := if scope < 4 then s
        else s.flushDeltas (fun d => d.cluster == c && (decide (5 ≤ scope) || target d.pa != 1))
      let v := if scope < 5 then u else u.l2Flush c
      let w := if scope < 3 then v else v.l1Clear ((v.blocks.find x.block).elim 0 Block.core)
      let z := if scope < 5 then w
        else w.l2Clear (fun k l => k == w.clusterOf x && target (l.tag * 128) == 1)
      exec (.fence g f) s = .next (z.setGroup g (x.advance (vWords f))))

/-- What stands between a memory instruction and its effect: defined fields, no thread's trap, and in global space the
probe of every page and the credit of its partition. LD gives each executing thread the bytes at its address, little-
endian, and then acquires where SEM asks for it; ST writes each thread's value there in ascending thread order, a
helper thread of a fragment group excepted, which writes nothing. Where the manual's words leave a case to the reader
it takes the model's own reading, in entries 25, 26, 27, 28, 48, 106, 109 and 118 of the assumption log, which are no
rule of the manual. -/
def Obligations.LoadsAndStores : Prop :=
  (∀ (s : State) (g : Nat) (x : Group) (f : MForm) (off : Int) (ok : Group → Bool) (acc : Access),
     Issues s g x f.pneg f.pred → f.size.toNat ≤ 4 → f.sem ≠ 3 → f.scope ≠ 7 → x.okAddr f = true → ok x = true →
     let n := 2 ^ f.size.toNat
     let as := (threads (x.executing f.pneg f.pred)).map (fun t => (t, x.addrAt f off t))
     s.accessTrap x f.space.toNat n as = none →
     (f.space = 1 ∨ f.space = 2 → ∀ k, s.runM g f off ok acc .none k = k s x as) ∧
     (f.space = 3 →
       let u := s.spoolAccess (s.partOfGroup x) acc (as.map (fun a => (a.2, n)))
       acc = .read ∨ u.packWrite x 3 as = none → ∀ k, s.runM g f off ok acc .none k = k u x as) ∧
     (f.space = 0 → ∀ t, Goes (fun k => (s.onGroup x).probedAs true x.job 0 (as.map (fun a => (a.2, n, acc))) k) t →
       ∀ k, s.runM g f off ok acc .none k = k t x as)) ∧
  (∀ (s t : State) (g : Nat) (x : Group) (f : MForm) (e : MemEvent) (as : List (Nat × Nat)),
     let n := 2 ^ f.size.toNat
     ((∀ k, s.runM g f f.offset.toInt (fun y => y.okData f.data.toNat n) .read e k = k t x as) →
       (as.map Prod.fst).Nodup → (∀ a ∈ as, a.1 < 64) → f.size.toNat ≤ 4 →
       let u := t.mergeDeltas x f.space.toNat as
       let v := fun (a : Nat × Nat) => ofBytes (u.spaceRead (u.ctxOf x) x.block f.space.toNat a.2 n)
       let w := if f.sem = 2 then u.acquire x f.scope.toNat else u
       (∃ y, exec (.ld g f e) s = .next (w.setGroup g y) ∧ y = { x.advance 1 with regs := y.regs } ∧
         (4 ≤ n → ∀ a ∈ as, ∀ i, i < n / 4 → y.reg (f.data.toNat + i) a.1 = BitVec.ofNat 32 (v a / 2 ^ (32 * i))) ∧
         (n < 4 → ∀ a ∈ as, (y.reg f.data.toNat a.1).toNat % 2 ^ (8 * n) = v a % 2 ^ (8 * n)) ∧
         (∀ r i, i < 64 → (∀ a ∈ as, a.1 ≠ i) ∨ r < f.data.toNat ∨ f.data.toNat + max 1 (n / 4) ≤ r →
           y.reg r i = x.reg r i))) ∧
     ((∀ k, s.runM g f f.offset.toInt (fun y => y.okData f.data.toNat n) .write e k = k t x as) →
       let u := if f.sem = 2 then t.release x f.scope.toNat else t
       exec (.st g f e) s = .next (((x.writers as).foldl (fun (v : State) a =>
         v.storeAt x f.space.toNat a.2 n (x.data f.data.toNat a.1 n)) u).setGroup g (x.advance 1))))

/-- A thread's store changes the bytes it names and no other byte of memory: of a global address, those at the
physical address that the access translates to, where the core's L2 does not hold them as a line that the sibling die
homes; of a local one, those of the target block at the offset. Where the manual's words leave a case to the reader it
takes the model's own reading, in entries 25, 28, 48, 106 and 118 of the assumption log, which are no rule of the
manual. -/
def Obligations.StoreFrame : Prop :=
  ∀ (s : State) (x : Group) (a n v : Nat), s.mem.wf = true → 0 < n → a % 4096 + n ≤ 4096 →
    (∀ p, s.reachOf (s.ctxOf x) a 1 .write = some p →
     let t := s.storeAt x 0 a n v
     ((∀ b, p ≤ b → b < p + n → s.keeps b = false) → ∀ b, t.mem.byte b = if p ≤ b ∧ b < p + n then BitVec.ofNat 8 (v / 256 ^ (b - p)) else s.mem.byte b) ∧
      t.groups = s.groups ∧ t.blocks = s.blocks ∧ t.ctxs = s.ctxs ∧ t.queues = s.queues ∧ t.jobs = s.jobs ∧
      t.pending = s.pending) ∧
    (∀ b o (z : Block), s.localPlace x.block 1 a = some (b, o) → s.blocks.find b = some z → z.mem.wf = true →
      ∃ w, s.storeAt x 1 a n v = { s with blocks := s.blocks.set b { z with mem := w } } ∧
        ∀ k, w.byte k = if o ≤ k ∧ k < o + n then BitVec.ofNat 8 (v / 256 ^ (k - o)) else z.mem.byte k)

/-- ATOM, ATOM.CAS and ATOM.AFADD: each executing thread in ascending order computes the new value from the old one;
the old value goes to DATA where it is asked for. A relaxed command counts an operation whose outcome depends on
order. An AFADD operand that is not finite or not below 2^A traps and adds nothing. A helper thread writes nothing.
Where the manual's words leave a case to the reader it takes the model's own reading, in entries 26, 27, 28, 48, 108,
109, 110 and 118 of the assumption log, which are no rule of the manual. -/
def Obligations.AtomicsOneAtATime : Prop :=
  ∀ (s t : State) (g : Nat) (x : Group) (f : MForm) (e : MemEvent) (as : List (Nat × Nat)),
    let n := 2 ^ f.size.toNat
    let m := t.mergeDeltas x f.space.toNat as
    let run := fun (u : State) (returns : Bool) (new : Nat → Nat → Nat) =>
      let r := as.foldl (fun (st : State × Group) a =>
        let old := ofBytes (st.1.spaceRead (st.1.ctxOf x) x.block f.space.toNat a.2 n)
        (if x.helper a.1 then st.1 else st.1.storeAt x f.space.toNat a.2 n (new a.1 old),
          if returns then st.2.setData f.data.toNat a.1 n old else st.2))
        (if f.sem = 2 then u.release x f.scope.toNat else u, x)
      (if f.sem = 2 then r.1.acquire x f.scope.toNat else r.1).setGroup g (r.2.advance 1)
    (∀ op : AtomOp,
      (∀ k, s.runM g f f.offset.toInt (fun y => y.okData (f.data.toNat + 1) n &&
        (!atomReturns op || y.okData f.data.toNat n) &&
        (match op with
         | .fadd _ => !s.strictGroup y && (n == 4 || n == 8)
         | _ => true)) .atomic e k = k t x as) →
      exec (.atom g op f e) s = .next (run (if atomLoose op then m.loosen x.job else m) (atomReturns op)
        (fun i old => atomResult op n old (x.data (f.data.toNat + 1) i n)))) ∧
    ((∀ k, s.runM g f f.offset.toInt (fun y => y.okData f.data.toNat n && y.okData (f.data.toNat + 1) n) .atomic e k =
        k t x as) →
      exec (.atomCas g f e) s = .next (run (m.loosen x.job) true (fun i old =>
        if old = x.data f.data.toNat i n then x.data (f.data.toNat + 1) i n else old))) ∧
    ((∀ k, s.runM g f (f.offset.toNat / 256 : Nat) (okAfadd f) .atomic e k = k t x as) →
      let anchor := signedOf 16 (x.ureg (f.offset.toNat % 256)).toNat
      ((∀ a ∈ as, afaddEnters (afaddOperand f x a.1) anchor = true) → f.space ≠ 0 →
        exec (.atomAfadd g f e) s = .next (((x.writers as).foldl (fun (v : State) a =>
          let old := ofBytes (v.spaceRead (v.ctxOf x) x.block f.space.toNat a.2 n)
          v.storeAt x f.space.toNat a.2 n
            ((old + wrapTo (8 * n) (floorScaled (afaddOperand f x a.1) (afaddBelow f - anchor))) % 2 ^ (8 * n)))
          t).setGroup g (x.advance 1))) ∧
      ((∀ a ∈ as, afaddEnters (afaddOperand f x a.1) anchor = true) → f.space = 0 →
        exec (.atomAfadd g f e) s = .next (((x.writers as).foldl (fun (v : State) a =>
          v.addDelta x a.2 n (wrapTo (8 * n) (floorScaled (afaddOperand f x a.1) (afaddBelow f - anchor))))
          t).setGroup g (x.advance 1))) ∧
      (∀ a rest, as = a :: rest → afaddEnters (afaddOperand f x a.1) anchor = false →
        ∃ k, exec (.atomAfadd g f e) s = .next (t.free.2.trap x k a.1)))

/-- MLOAD puts a chunk into the half that its flags name; MANCHOR fixes a bank's anchors and clears its Bolts. MSTORE
runs the epilogue of a bank whose Bolts agree with their residues on its tile and writes it; MADD adds a tile of
spills to such a bank's Bolts; a Bolt that disagrees is a failed residue check of its engine. A matrix instruction
whose executing set is partial traps, and one of an engine that the block did not declare is an undefined encoding.
Where the manual's words leave a case to the reader it takes the model's own reading, in entries 31, 32, 34, 48, 105,
118 and 120 of the assumption log, which are no rule of the manual. -/
def Obligations.MatrixLoadsStoresAndAdds : Prop :=
  (∀ (s s1 s2 : State) (g : Nat) (x : Group) (b : Block) (f : XForm),
     Issues s g x f.pneg f.pred → x.executing f.pneg f.pred = x.live → s.blocks.find x.block = some b →
     (if f.engine then 2 else 1) ≤ b.engines → f.flags.toNat < 64 →
     (∀ (isB : Bool) (d : OpDesc) (t : Td),
       let u := if isB then f.b else f.a
       let fmt := if isB then f.fmtB else f.fmtA
       let l := min 32 ((if isB then t.cols else t.rows) - d.origin)
       let m := min (32 * 2 ^ d.kc) ((if isB then t.rows else t.cols) - d.k0)
       let rs := if l = 0 || m = 0 then []
         else if isB then t.lines d.k0 d.origin (d.k0 + m - 1) (d.origin + l - 1) ++
           t.scaleLines d.k0 d.origin (d.k0 + m - 1) (d.origin + l - 1)
         else t.lines d.origin d.k0 (d.origin + l - 1) (d.k0 + m - 1) ++
           t.scaleLines d.origin d.k0 (d.origin + l - 1) (d.k0 + m - 1)
       (xPair f = true → isB = false ∧ f.engine = false ∧ b.engines = 2) → xSweep f = false → u.toNat < 64 →
       u.toNat % 4 = 0 → x.opDesc u.toNat = some d →
       (∀ trap, GoesWith (fun k => (s.onGroup x).withTd x.job d.td true trap k) s1 t) → operandTrap t fmt isB = none →
       32 * (32 * 2 ^ d.kc) * t.fmt.bits / 8 ≤ 32768 →
       (∀ trap, Goes (fun k => s1.mxRanges true x.job (s1.ctx (s1.ctxOf x)).partition x.block trap t.space rs .read [] k) s2) →
       let ls := (List.range l).map (fun i => s2.chunkLine (s1.ctxOf x) x.block t isB (d.origin + i) d.k0 m)
       let h : MxHalf :=
         { td := d.td, fmt := fmt.toNat, kc := d.kc, codes := ls.map Prod.fst, scales := ls.map Prod.snd }
       let put := fun (y : MxEngine) => { y with halves := y.halves.set (if isB then xBH f else xAH f) h }
       let v := s2.updMx x.block f.engine.toNat put
       exec (if isB then .mloadB g f else .mloadA g f) s =
         .next ((if xPair f then v.updMx x.block 1 put else v).setGroup g (x.advance 1))) ∧
     (∀ (s3 s4 : State) (da db : OpDesc) (ta tb : Td) (ua ub : Bool), xPair f = false →
       f.a.toNat < 64 → f.a.toNat % 4 = 0 → f.b.toNat < 64 → f.b.toNat % 4 = 0 →
       x.opDesc f.a.toNat = some da → x.opDesc f.b.toNat = some db →
       (∀ trap, GoesWith (fun k => (s.onGroup x).withTd x.job da.td true trap k) s1 ta) →
       (∀ trap, GoesWith (fun k => s1.withTd x.job db.td true trap k) s2 tb) →
       operandTrap ta f.fmtA false = none → operandTrap tb f.fmtB true = none →
       GoesWith (fun k => s2.withTerms x ta false (xSweep f) da.origin k) s3 ua →
       GoesWith (fun k => s3.withTerms x tb true (xSweep f) db.origin k) s4 ub →
       exec (.manchor g f) s = .next ((s4.updMx x.block f.engine.toNat (fun y => { y with
         banks := y.banks.set (xBank f)
           { rows := s4.terms (s4.ctxOf x) x.block ta false ua da.origin,
             cols := s4.terms (s4.ctxOf x) x.block tb true ub db.origin, bolts := [] } })).setGroup g (x.advance 1)))) ∧
  (∀ (s s1 s2 s3 : State) (g : Nat) (x : Group) (b : Block) (f : XForm),
     Issues s g x f.pneg f.pred → s.blocks.find x.block = some b →
     (x.executing f.pneg f.pred = x.live → (if f.engine then 2 else 1) ≤ b.engines → f.flags.toNat < 64 →
       xPair f = false → xSweep f = false → f.out.toNat < 64 → f.out.toNat % 4 = 0 →
       ∀ (k : MxBank) (va : Nat) (e : Epilogue) (t : Td),
         (b.mx.get {} f.engine.toNat : MxEngine).banks.find (xBank f) = some k → x.descAddr f.out.toNat = some va →
         let i0 := (x.ureg (f.out.toNat + 2)).toNat % 2 ^ 26
         let j0 := (x.ureg (f.out.toNat + 3)).toNat % 2 ^ 26
         let r := min 32 (t.rows - i0)
         let n := min 32 (t.cols - j0)
         let w := e.writes t i0 j0 r n
         (k.bolts.all (fun q => q.2.agrees) = false → ∀ i ∈ [Instr.mstore g f, .madd g f],
           exec i s = .next ((s.onGroup x).residueFailed b.core f.engine.toNat true x.job)) ∧
         (k.bolts.all (fun q => q.2.agrees) = true →
           (∀ trap q, (s.onGroup x).withEpilogue x.job va true false trap q = q s1 e t) →
           (∀ trap, Goes (fun q => s1.mxRanges true x.job (s1.ctx (s1.ctxOf x)).partition x.block trap t.space w.1 .write
             (e.reads i0 j0 r n ++ w.2) q) s2) →
           Goes (fun q => s2.beginSummary x.job (s1.ctxOf x) e t q) s3 →
           exec (.mstore g f) s = .next (((s3.writeTile (s1.ctxOf x) x.block e t i0
             j0 r n (fun i j => (k.bolts.get {} (32 * i + j), anchorOf ((k.rows[i]?).getD none)
               ((k.cols[j]?).getD none)))).noteTile x.job (s1.ctxOf x) t.space w).setGroup g (x.advance 1))) ∧
         (∀ m : TMap Bolt, k.bolts.all (fun q => q.2.agrees) = true →
           (∀ trap q, (s.onGroup x).withEpilogue x.job va true true trap q = q s1 e t) →
           (∀ trap, Goes (fun q => s1.mxRanges true x.job (s1.ctx (s1.ctxOf x)).partition x.block trap t.space
             (if r = 0 || n = 0 then [] else t.lines i0 j0 (i0 + r - 1) (j0 + n - 1)) .read [] q) s2) →
           (List.range r).foldl (fun m i => (List.range n).foldl (fun (m : Option (TMap Bolt)) j => m.bind (fun m =>
             (Bolt.addSpill (m.get {} (32 * i + j)) (anchorOf ((k.rows[i]?).getD none) ((k.cols[j]?).getD none))
               (s2.spaceRead (s1.ctxOf x) x.block t.space (t.where_ (i0 + i) (j0 + j)).1 32)).map
               (fun y => m.set (32 * i + j) y))) m) (some k.bolts) = some m →
           exec (.madd g f) s = .next ((s2.updMx x.block f.engine.toNat (fun y =>
             { y with banks := y.banks.set (xBank f) { k with bolts := m } })).setGroup g (x.advance 1)))) ∧
     (x.executing f.pneg f.pred ≠ x.live → ∀ i ∈ [Instr.mloadA g f, .mloadB g f, .manchor g f, .mma g f, .mstore g f,
         .madd g f],
       exec i s = .next (s.trapAt x (.divergence true) (lowest (x.executing f.pneg f.pred)))) ∧
     (x.executing f.pneg f.pred = x.live → b.engines < (if f.engine then 2 else 1) →
       ∀ i ∈ [Instr.mloadA g f, .mloadB g f, .manchor g f, .mma g f, .mstore g f, .madd g f],
         exec i s = .next (s.trap x 1 (lowest (x.executing f.pneg f.pred)))))

/-- MMA adds to each Bolt of a bank the dot product of its row of the A half and its column of the B half, what lies
beyond an operand's extent or in a half that is not loaded counting as zero, and changes no anchor. Where the manual's
words leave a case to the reader it takes the model's own reading, in entries 31 and 32 of the assumption log, which
are no rule of the manual. -/
def Obligations.MmaAddsDotProducts : Prop :=
  ∀ (s : State) (g : Nat) (x : Group) (b : Block) (f : XForm) (fa fb : Fmt) (k : MxBank),
    Issues s g x f.pneg f.pred → x.executing f.pneg f.pred = x.live → s.blocks.find x.block = some b →
    (if f.engine then 2 else 1) ≤ b.engines → f.flags.toNat < 64 → xPair f = false → xSweep f = false →
    Fmt.ofCode f.fmtA.toNat = some fa → Fmt.ofCode f.fmtB.toNat = some fb → pairAllowed fa fb (b.faithful f.engine) = true →
    let y : MxEngine := b.mx.get {} f.engine.toNat
    let ha := y.halves.find (xAH f)
    let hb := y.halves.find (xBH f)
    let la := halfValues ha
    let lb := halfValues hb
    y.banks.find (xBank f) = some k → (∀ h, ha = some h → h.fmt = f.fmtA.toNat) → (∀ h, hb = some h → h.fmt = f.fmtB.toNat) →
    (∀ h h', ha = some h → hb = some h' → h.kc = h'.kc) → staleLines k.rows la = false → staleLines k.cols lb = false →
    ∃ m : TMap Bolt,
      exec (.mma g f) s = .next (((s.onGroup x).updMx x.block f.engine.toNat (fun y =>
        { y with banks := y.banks.set (xBank f) { k with bolts := m } })).setGroup g (x.advance 1)) ∧
      ∀ i j, i < 32 → j < 32 → m.get {} (32 * i + j) =
        Bolt.dot (k.bolts.get {} (32 * i + j)) (anchorOf ((k.rows[i]?).getD none) ((k.cols[j]?).getD none)) fa
          (b.faithful f.engine) (la.getD i []) (lb.getD j [])

/-! ### Textures and rays -/

/-- TEX: with its descriptor and sampler readable, a sample gives each executing thread the four exact weighted sums
of the texels that its sampler's filters and modes name, each rounded once, or the result of its comparison; a fetch
gives one texel of level 0, or the outside value; an image store gives each texel inside the image the code of the
thread's words. A helper thread stores nothing. Where the manual's words leave a case to the reader it takes the
model's own reading, in entries 65, 66, 114 and 118 of the assumption log, which are no rule of the manual. -/
def Obligations.TexturesAndImages : Prop :=
  ∀ (s s1 s2 : State) (g : Nat) (x : Group) (f : VForm) (t : Tex), Issues s g x f.pneg f.pred →
    f.sel = 1 → f.sb.toNat % 4 = 0 → f.sb.toNat < 64 → x.names f.dst.toNat 4 = true → x.names f.sa.toNat 2 = true →
    let e := x.executing f.pneg f.pred
    let d := (x.upair f.sb.toNat).toNat
    let m := (x.upair (f.sb.toNat + 2)).toNat
    let c := s.ctxOf x
    let sm := s1.vread c m 16
    let words := fun (ws : List U32) => (List.range 4).map (fun i => (ws[i]?).getD 0)
    d % 64 = 0 → Goes (fun k => (s.onGroup x).probedAs true x.job 0 [(d, 64, .read), (m, 16, .read)] k) s1 → Tex.parse (s1.vread c d 64) = some t →
    (∀ lod : Bool, x.names f.sc.toNat 1 = true → x.names f.sa.toNat (coordCount t.kind false) = true →
      let n := coordCount t.kind false
      let taps := fun th => t.taps sm (coords x f th n) (if lod then [] else quadCoords x f th n)
      let place := fun (l z : Nat) (q : Nat × Nat) =>
        (l % t.levels, z % (t.levelSize (l % t.levels)).2.2, q.1 % (t.levelSize (l % t.levels)).1,
          q.2 % (t.levelSize (l % t.levels)).2.1)
      Goes (s1.withTexels x t ((threads e).flatMap (fun th => (taps th).filterMap (fun p =>
        p.2.2.1.map (place p.1 p.2.1))))) s2 →
      let vs := fun th => (taps th).map (fun p => (match p.2.2.1 with
        | none => borderWords sm
        | some q => s2.texel (s2.ctxOf x) t (place p.1 p.2.1 q), p.2.2.2))
      ∃ y, exec (if lod then .texSampleLod g f else .texSample g f) s = .next (s2.setGroup g y) ∧
        Lanes x y 1 f.dst.toNat e (fun th =>
          if field sm 3 1 / 8 % 2 = 1 then
            [BitVec.ofNat 32 (Config.compared t.desc (sm.map BitVec.toNat)
              (coords x f th n ++ (vs th).flatMap (fun v => v.1.map BitVec.toNat)))]
          else (List.range 4).map (filtered t.integer (vs th)))) ∧
    (x.names f.sc.toNat 1 = true → x.names f.sa.toNat (coordCount t.kind true) = true →
      let place := fun th => fetchPlace x f t.kind th (x.reg f.sc.toNat th).toNat
      Goes (s1.withTexels x t (((threads e).map place).filter t.holds)) s2 →
      ∃ y, exec (.texFetch g f) s = .next (s2.setGroup g y) ∧
        Lanes x y 1 f.dst.toNat e (fun th =>
          let p := place th
          words (if t.holds p then s2.texel (s2.ctxOf x) t p
            else (Config.outsideTexel (sm.map BitVec.toNat) [p.2.1, p.2.2.1, p.2.2.2]).map (BitVec.ofNat 32)))) ∧
    (bit f.sub 2 = false ∨ s.strictGroup x = false → x.names f.sa.toNat (coordCount t.kind true) = true →
      colourFormat t.sfmt = true →
      let layer := fun th => (Config.cubePlace t.desc (coords x f th (coordCount t.kind true))).1 % max 1 t.layers
      let ps := ((threads e).map (fun th => (th, fetchPlace x f t.kind th (layer th)))).filter
        (fun p => t.holds p.2 && !x.helper p.1)
      let at_ := fun (p : Place) => t.addr p.1 p.2.1 p.2.2.1 p.2.2.2
      let z := surfaceBytes t.sfmt
      Goes (fun k => s1.probedAs true x.job 0 (ps.map (fun p => (at_ p.2, z, .write))) k) s2 →
      exec (.imageStore g f) s = .next ((ps.foldl (fun (v : State) p =>
        v.storeAt x 0 (at_ p.2) z (storeSample t.sfmt ((List.range 4).map (fun i => x.reg (f.dst.toNat + i) p.1))))
        (if bit f.sub 2 then s2.loosen x.job else s2)).setGroup g (x.advance 1)))

/-- TRACE: where the traversals of its executing threads all end or meet a candidate, each of these threads holds its
eight result words in DST, and keeps its traversal exactly where a candidate waits for ACCEPT or REJECT; START begins
at the root, ACCEPT commits a candidate that is nearer, a procedural one at SC, and REJECT drops it, whatever SC
names. Each thread's traversal state is left in the group's private memory. A thread whose traversal is longer than
one command takes goes on from there in the group's next. Where the manual's words leave a case to the reader it takes
the model's own reading, in entries 24, 69, 70, 115 and 118 of the assumption log, which are no rule of the manual. -/
def Obligations.RayQueries : Prop :=
  ∀ (s s0 : State) (g : Nat) (x : Group) (f : VForm) (at_ : Nat → State) (from_ upto : Nat → Trav) (found : Nat → Bool),
    Issues s g x f.pneg f.pred → s.hasRay = true → f.sel = 1 → f.sb.toNat % 2 = 0 → f.sb.toNat < 64 →
    f.sa.toNat % 4 = 0 → f.dst.toNat % 4 = 0 → x.names f.sa.toNat 8 = true → x.names f.dst.toNat 8 = true →
    let ts := threads (x.executing f.pneg f.pred)
    Goes (fun k => (s.onGroup x).probedAs true x.job 0 (ts.map (fun th => (s.travAt x th, 256, .write))) k) s0 →
    x.traced = [] →
    let runs := fun (i : Instr) (start : State → Nat → Option Trav) =>
      (at_ 0 = s0 → (∀ n th, ts[n]? = some th → ∃ u,
        (x.going.find th).orElse (fun _ => start (at_ n) th) = some (from_ th) ∧
        traverse x.job ((at_ n).ctxOf x) traceFuel (at_ n) (from_ th) =
          (u, upto th, if found th then .candidate else .done) ∧
        (let v := u.vwrite (u.ctxOf x) (u.travAt x th) (upto th).bytes
         at_ (n + 1) = v.noteVirtual x.job (v.ctxOf x) (v.travAt x th) 256)) →
      ∃ y : Group, exec i s = .next ((at_ ts.length).setGroup g y) ∧
        y = { x.advance 1 with regs := y.regs, rays := y.rays, traced := [], going := [] } ∧
        (∀ th r, th < 64 → y.reg r th =
          if th ∈ ts ∧ f.dst.toNat ≤ r ∧ r < f.dst.toNat + 8 then
            (((upto th).words (found th))[r - f.dst.toNat]?).getD 0 else x.reg r th) ∧
        ∀ th, y.rays.find th =
          if th ∈ ts then (if found th then some (upto th) else none) else x.rays.find th) ∧
      (∀ th rest u y k, ts = th :: rest → (x.going.find th).orElse (fun _ => start s0 th) = some k →
        traverse x.job (s0.ctxOf x) traceFuel s0 k = (u, y, .more) →
        exec i s = .next { u with groups := u.groups.set g { x with going := x.going.set th y } })
    (x.names f.sc.toNat 1 = true → runs (.traceStart g f) (fun _ th =>
      some { root := (x.upair f.sb.toNat).toNat, flags := x.reg f.sc.toNat th,
             ray := (List.range 8).map (fun i => x.reg (f.sa.toNat + i) th),
             stack := [{ node := (x.upair f.sb.toNat).toNat, kind := 0 }] })) ∧
    runs (.traceReject g f) (fun v th => (v.traversal x th).map (fun k => { k with cand := none })) ∧
    (x.names f.sc.toNat 1 = true ∨ (∀ th ∈ ts, ∀ k, x.rays.find th = some k → k.procedural = false) →
      runs (.traceAccept g f) (fun v th => (v.traversal x th).map (fun k =>
        let z := { k with cand := none }
        match k.cand with
        | none => z
        | some h =>
          let h := if k.procedural then { h with t := x.reg f.sc.toNat th } else h
          if nearer k.ray k.far h.t then z.commit h else z)))

/-! ### Reset, start and restarts -/

/-- After reset, before anything has run: the die is in reset with its pin low and its stage before Tack, no context,
queue, command, partition or record exists, memory lists nothing, and nothing waits. Where the manual's words leave a
case to the reader it takes the model's own reading, in entries 7, 8, 9 and 98 of the assumption log, which are no
rule of the manual. -/
def Obligations.ResetLeavesNothing : Prop :=
  State.reset.die.inReset = true ∧ State.reset.die.pinLow = true ∧ State.reset.die.stage = .preTack ∧
  State.reset.mem = [] ∧ State.reset.flash = [] ∧ State.reset.Canonical ∧ State.reset.pending = [] ∧
  State.reset.jobs = [] ∧ (∀ c, (State.reset.ctx c).state = .closed) ∧ (∀ q, (State.reset.queue q).state = .free) ∧
  (∀ p, (State.reset.part p).enable = false) ∧ State.reset.feUp = false ∧ step State.reset = .next State.reset

/-- DIE_RST_N falling, a loss of VR_PG outside Hold and Off, and the loss of power: nothing on the die survives, and
memory loses the Spool; with the rails DRAM and its failing lines go too. Flash stays. Where the manual's words leave
a case to the reader it takes the model's own reading, in entries 7 and 98 of the assumption log, which are no rule of
the manual. -/
def Obligations.ResetStopsTheDie : Prop :=
  ∀ s : State,
    let off := fun (pin : Bool) (m : Mem) (lines : List Nat) =>
      ({ State.reset with
          die := { State.reset.die with part := s.die.part, stepping := s.die.stepping, pinLow := pin }
          mem := m, flash := s.flash, flt := { State.reset.flt with failing := lines }
          freeCtr := s.freeCtr, pending := s.pending } : State)
    let keeps := fun (m : Mem) (gone : Nat → Bool) =>
      s.mem.wf = true → m.wf = true ∧ ∀ a, m.byte a = if gone a then 0 else s.mem.byte a
    (∃ m, exec .dieResetAssert s = .next (off true m s.flt.failing) ∧ keeps m (fun a => target a == 3)) ∧
    (s.die.inReset = false → s.pwr.state ≠ .hold → s.pwr.state ≠ .off →
      ∃ m, exec .vrPgLoss s = .next (off s.die.pinLow m s.flt.failing) ∧ keeps m (fun a => target a == 3)) ∧
    (∃ m, exec .powerLoss s = .next (off true m []) ∧ keeps m (fun a => target a == 3 || target a == 0))

/-- The start, at the release of reset and again at a training retry with its modules: a die whose T0 RAM fails stays
before Tack, one without a host module waits there, and one that trains a host module reaches Tack, with its display
outputs mirroring; it holds there with reason 3 where its ROM check fails, and else goes on to the later stages unless
its inputs have commands find it in Tack. The later stages, at an idle step of a start that commands have found in
Tack (assumption 2): no slot that boots holds it with reason 1, no DRAM rate that trains with 2, equal straps with 4
and a missing partner at strap 1 with 5; else it reaches Fitting with its default partition. Where the manual's words
leave a case to the reader it takes the model's own reading, in entries 4, 87, 88 and 89 of the assumption log, which
are no rule of the manual. -/
def Obligations.StartReachesTackAndGoesOn : Prop :=
  (let starts := fun (c : Instr) (s : State) (i : StartInputs) =>
     let r := linkRate i.host0 i.host1 32
     (i.t0RamOk = false → ∃ t, exec c s = .next t ∧ t.die.inReset = false ∧ t.die.stage = .preTack ∧
       t.die.waiting = none ∧ t.die.strap = i.strap ∧ t.flash = s.flash) ∧
     (i.t0RamOk = true → r = 0 → ∃ t, exec c s = .next t ∧ t.die.inReset = false ∧ t.die.stage = .preTack ∧
       t.die.waiting = some i ∧ t.die.strap = i.strap ∧ t.flash = s.flash) ∧
     (i.t0RamOk = true → r ≠ 0 → i.romOk = false → ∃ t, exec c s = .next t ∧ t.die.stage = .tack ∧
       t.die.holdReason = 3 ∧ t.die.waiting = none ∧ t.die.strap = i.strap ∧ t.die.tackUs = i.tackUs) ∧
     (i.t0RamOk = true → r ≠ 0 → i.romOk = true → ∃ t,
       exec c s = .next (if i.pauseTack then t else t.startTick) ∧
       t.die.stage = .tack ∧ t.die.holdReason = 0 ∧ t.die.waiting = some i ∧ t.die.strap = i.strap ∧
       t.die.tackUs = i.tackUs ∧ t.pwr.coolantOk = i.coolantOk ∧ t.dsp.mirror = t.die.part.pipeMask ∧
       t.slk.modules.get {} 0 = trained i.host0 r 32 ∧ t.slk.modules.get {} 1 = trained i.host1 r 32 ∧
       ∀ p, p < t.die.part.pipes → p ≠ 0 ∨ bit i.badPipes 0 = false → (t.pipe p).mirroring = true)
   (∀ (s : State) (i : StartInputs), s.die.pinLow = true → starts (.dieResetRelease i) s i) ∧
   (∀ (s : State) (i : StartInputs) (m0 m1 : ModuleTrain) (now : Nat), s.die.waiting = some i → s.die.stage = .preTack →
     let late : U32 := BitVec.ofNat 32 now - i.tackUs
     starts (.hostLinkTrainRetry m0 m1 now) s
       { i with host0 := m0, host1 := m1, tackUs := BitVec.ofNat 32 now, fittingUs := i.fittingUs + late,
                finishedUs := i.finishedUs + late })) ∧
  (∀ (s : State) (i : StartInputs), s.pending = [] → s.die.waiting = some i → s.die.stage = .tack → ∃ t,
     step s = .next t ∧
     (s.boot i.partner = none → t.die.holdReason = 1 ∧ t.die.stage = .tack ∧ t.die.waiting = none) ∧
     (∀ b, s.boot i.partner = some b →
       (i.dramPass = false ∨ i.dramMts < 6400 → t.die.holdReason = 2 ∧ t.die.stage = .tack ∧ t.die.waiting = none) ∧
       (i.dramPass = true → 6400 ≤ i.dramMts → i.pauseFitting = true →
         t.die.fromSlotB = (b.base == slotB) ∧ t.die.stage ≠ .preTack ∧ t.die.stage ≠ .finished ∧
         t.die.inlineEcc = i.inlineEcc ∧ t.die.dramMib = min i.dramMib 65536 ∧
         (t.die.dramMts = 9600 ∨ t.die.dramMts = 8800 ∨ t.die.dramMts = 8000 ∨ t.die.dramMts = 6400) ∧
         t.die.dramMts ≤ i.dramMts ∧
         (t.die.stage = .tack → t.die.holdReason = 5 ∧ i.strap = true) ∧
         (t.die.stage = .fitting → t.die.holdReason ≠ 4 → t.die.waiting = some i → (t.part 0).enable = true ∧ t.die.fittingUs = i.fittingUs))))

/-- A front-end restart: every command leaves the engines, every context that runs is LOST with FRONT_END_RESTART and
its queues are STOPPED, an apply ends with that result, and the restart is counted with its cause; the third within
ten seconds stops dispatch. The watchdogs of T1 and T3 cause one, that of T5 stops self-test and scrubbing. Where the
manual's words leave a case to the reader it takes the model's own reading, in entry 71 of the assumption log, which
is no rule of the manual. -/
def Obligations.FrontEndRestarts : Prop :=
  (∀ (s : State) (cause : RestartCause) (now : Nat), s.die.inReset = false → s.die.stage ≠ .preTack → ∃ t,
    exec (.frontEndRestart cause now) s = .next t ∧ t.jobs = [] ∧ t.groups = [] ∧ t.blocks = [] ∧ t.ptn.apply = none ∧
    t.flt.restarts = satAdd16 s.flt.restarts 1 ∧ t.flt.cause = causeCode cause ∧
    (s.ptn.apply.isSome = true → t.ptn.busy = false ∧ t.ptn.result = 0x3F) ∧
    (∀ c, (s.ctx c).state = .running ∨ (s.ctx c).state = .faultWait →
      (t.ctx c).state = .lost ∧ (t.ctx c).loss = 0x3F ∧
      ∀ q, (s.queue q).ctx = c → (s.queue q).state ≠ .free → (s.queue q).state ≠ .destroying →
        (t.queue q).state = .stopped) ∧
    (∀ c, (s.ctx c).state = .running ∨ (s.ctx c).state = .faultWait → bit t.flt.events 1 = true) ∧
    (∀ a b rest, s.flt.restartTimes = a :: b :: rest → now - b ≤ 10000000 → t.fe.halted = true ∧ t.die.holdReason = 6) ∧
    bit t.flt.events 5 = true) ∧
  (∀ (s : State) (now : Nat), s.die.inReset = false → s.die.stage ≠ .preTack → s.thimbleUp 1 = true →
    exec (.thimbleWatchdogExpiry 1 now) s = exec (.frontEndRestart .t1Watchdog now) s) ∧
  (∀ (s : State) (now : Nat), s.die.inReset = false → s.die.stage ≠ .preTack → s.thimbleUp 3 = true →
    exec (.thimbleWatchdogExpiry 3 now) s = exec (.frontEndRestart .t3Watchdog now) s) ∧
  (∀ (s : State) (now : Nat), s.thimbleUp 5 = true → ∃ t, exec (.thimbleWatchdogExpiry 5 now) s = .next t ∧
    t.die = { s.die with t5Stopped := true } ∧ (t.source 11).pending = true) ∧
  (∀ (s : State) (n now : Nat), n = 0 ∨ n = 4 → exec (.thimbleWatchdogExpiry n now) s = .next s) ∧
  (∀ (s : State) (now : Nat), s.thimbleUp 2 = true → ∃ t, exec (.thimbleWatchdogExpiry 2 now) s = .next t ∧
    t = { s with dsp := t.dsp } ∧ ∀ p, t.pipe p = { s.pipe p with predicted := [] })

/-! ### Translation, faults and host objects -/

/-- PAGE_WALK: an access that a buffer of its core or cluster serves walks nothing and is served again; one that
misses is walked and counted, and its page goes into the buffers of the core that made it, unless an invalidation is
in progress, when nothing is installed. PAGE_FAULT: a running command's access that passes its checks stops nothing
and loses nothing; one that no retry can mend loses the context, and a replayable one stops the command in FAULT_WAIT
with its record written, or held where the queue has no room. MMU_INV_GO and FLT_CTX_INV_GO, an invalidation by either
register: the range's translations are gone at once, and a second one meanwhile is rejected. INVALIDATION_DONE, its
end, clears BUSY, counts, and reports. Where the manual's words leave a case to the reader it takes the model's own
reading, in entries 46, 47 and 71 of the assumption log, which are no rule of the manual. -/
def Obligations.WalksFaultsAndInvalidations : Prop :=
  ((∀ (s : State) (c : Nat) (va : U64) (acc : Access) (core : Option Nat), s.die.inReset = false →
     (s.ctx c).state ≠ .closed → va.toNat < 2 ^ 49 →
     let u := s.on core
     (∀ e, u.tlbHit c va.toNat = some e →
       ∃ t, exec (.pageWalk c va ⟨acc, core⟩) s = .next t ∧ t = { u with mmu := t.mmu } ∧ t.mmu.walks = s.mmu.walks ∧
         t.tlbHit c va.toNat = some e) ∧
     (u.tlbHit c va.toNat = none →
       ∃ t, exec (.pageWalk c va ⟨acc, core⟩) s = .next t ∧ t = { u with mmu := t.mmu } ∧
         t.mmu.walks = satAdd32 s.mmu.walks 1 ∧
         (∀ k e, core = some k → s.mmu.inval = none →
           (s.walk c va.toNat (s.walkStart c va.toNat).1 (s.walkStart c va.toNat).2).1 = .page e →
           t.tlbHit c va.toNat = some e) ∧
         (s.mmu.inval ≠ none → t.mmu = { s.mmu with walks := t.mmu.walks }))) ∧
   (∀ (s : State) (job : Nat) (v : Job) (va : U64) (acc : Access), s.die.inReset = false →
     s.jobs.find job = some v → v.st = .running → v.launch = none →
     let u := s.on none
     let r := u.probe v.ctx [(va.toNat, 1, acc)]
     (r.1 = none → r.2.dramAt v.ctx va.toNat 1 acc (acc == .write) = none →
       ∃ t, exec (.pageFault job va acc) s = .next t ∧ t.ctxs = s.ctxs ∧ t.queues = s.queues ∧ t.groups = s.groups ∧
         t.blocks = s.blocks ∧ ∀ k, k ≠ job → t.jobs.find k = s.jobs.find k) ∧
     (2 ^ 49 ≤ va.toNat → (s.ctx v.ctx).state = .running → s.ptn.apply = none → s.pwr.entry = none →
       ∃ t, exec (.pageFault job va acc) s = .next t ∧ (t.ctx v.ctx).state = .lost ∧
         (t.ctx v.ctx).causeSource = 0x02 ∧ (t.ctx v.ctx).faultPage = BitVec.ofNat 37 (va.toNat / 4096) ∧
         ∀ e ∈ t.jobs, e.2.ctx ≠ v.ctx) ∧
     (∀ l, va.toNat < 2 ^ 49 → s.mmu.inval = none →
       (s.walk v.ctx va.toNat (s.walkStart v.ctx va.toNat).1 (s.walkStart v.ctx va.toNat).2).1 = .absent l false →
       v.nonRestart = false → v.committed = false → (s.ctx v.ctx).state = .running → s.ptn.apply = none →
       s.pwr.entry = none →
       let x := s.ctx v.ctx
       let full := 2 ^ x.fqOrder ≤ (x.fqWrite - x.fqRead).toNat
       let a := x.fqBase + 32 * (x.fqWrite.toNat % 2 ^ x.fqOrder)
       full ∨ (s.windowOk x.partition a 32 true = true ∧ s.failingPart a 32 = false) →
       ∃ t, exec (.pageFault job va acc) s = .next t ∧ (t.ctx v.ctx).state = .faultWait ∧
         (t.ctx v.ctx).outstanding = true ∧ (t.ctx v.ctx).faultPage = BitVec.ofNat 37 (va.toNat / 4096) ∧
         (t.ctx v.ctx).faultSpan = 1 ∧ (t.ctx v.ctx).faults = satAdd32 x.faults 1 ∧
         (full → (t.ctx v.ctx).held.isSome = true ∧ (t.ctx v.ctx).fqWrite = x.fqWrite) ∧
         (¬ full → (t.ctx v.ctx).fqWrite = x.fqWrite + 1) ∧
         ∃ w, t.jobs.find job = some w ∧ w.st = .faultWait))) ∧
  (let gone := fun (c page pages : Nat) (m m' : Mmu) =>
     m'.inval = some { ctx := c, page := page, pages := pages } ∧ m'.walks = m.walks ∧
     (∀ e ∈ m'.entries, e ∈ m.entries ∧ (e.ctx = c → pages ≠ 0 ∧ (page + pages ≤ e.page ∨ e.page + e.pages ≤ page))) ∧
     ∀ e ∈ m'.walkCache, e ∈ m.walkCache
   (∀ (s : State) (w : U32),
     let u := s.hostWake false
     u.leaderUp = true → bit w 8 = true → u.mmu.inval = none →
     ∃ t, exec (.mmuInvGo w) s = .next t ∧ t = { u with mmu := t.mmu } ∧
       gone (w.toNat % 256) u.mmu.invVa.toNat u.mmu.invPages.toNat u.mmu t.mmu) ∧
   (∀ (s : State) (c : Nat),
     let u := s.hostWake false
     u.leaderUp = true → u.mmu.inval = none →
     ∃ t, exec (.fltCtxInvGo c) s = .next t ∧
       t = { u with mmu := t.mmu, ctxs := u.ctxs.set c { u.ctx c with invBusy := true, invRejected := false } } ∧
       gone c (u.ctx c).invVa.toNat (u.ctx c).invPages.toNat u.mmu t.mmu) ∧
   (∀ (s : State) (c : Nat) (w : U32),
     let u := s.hostWake false
     u.leaderUp = true → bit w 8 = true → u.mmu.inval ≠ none →
     (∃ t, exec (.mmuInvGo w) s = .next t ∧ t = { u with mmu := t.mmu } ∧ t.mmu.inval = u.mmu.inval ∧
       t.mmu.entries = u.mmu.entries ∧ bit t.mmu.events 4 = true) ∧
     exec (.fltCtxInvGo c) s = .next (u.updCtx c (fun x => { x with invRejected := true }))) ∧
   (∀ (s : State) (i : Inval), s.mmu.inval = some i →
     ∃ t, exec .invalidationDone s = .next t ∧
       t = { s with mmu := t.mmu, ctxs := s.ctxs.set i.ctx { s.ctx i.ctx with invBusy := false } } ∧
       t.mmu.inval = none ∧ t.mmu.doneSeq = s.mmu.doneSeq + 1 ∧ bit t.mmu.events 3 = true ∧
       t.mmu.entries = s.mmu.entries ∧ t.mmu.walkCache = s.mmu.walkCache))

/-- RESUME, by either register, lets a context in FAULT_WAIT run again and its waiting commands wait for their turn;
ABORT, by either register, loses it with CTX_LOST. A losing error: the context is LOST with its cause, its commands
leave the engines and its queues stop; no other context changes, and CTX_LOST is reported. Where the manual's words
leave a case to the reader it takes the model's own reading, in entries 28, 71, 101 and 127 of the assumption log,
which are no rule of the manual. -/
def Obligations.ResumeAbortAndLoss : Prop :=
  (∀ (s : State) (c : Nat) (w : U32),
     let u := s.hostWake false
     u.leaderUp = true → (u.ctx c).state = .faultWait → w.toNat % 256 = c →
     ((u.ctx c).held = none → ∃ t,
       (bit w 8 = true → bit w 9 = false → exec (.mmuFaultResume w) s = .next t) ∧
       exec (.fltCtxResume c) s = .next t ∧
       t = { u with ctxs := u.ctxs.set c { u.ctx c with state := .running, outstanding := false, faulting := none },
                    jobs := t.jobs } ∧
       ∀ j, t.jobs.find j = (u.jobs.find j).map (fun v =>
         if v.ctx = c ∧ v.st = .faultWait then { v with st := v.again } else v)) ∧
     (u.ptn.apply = none → u.pwr.entry = none → ∃ t,
       (bit w 9 = true → exec (.mmuFaultAbort w) s = .next t) ∧ exec (.fltCtxAbort c) s = .next t ∧
       (t.ctx c).state = .lost ∧ (t.ctx c).loss = 0x02 ∧
       (t.ctx c).causeSource = ((u.ctx c).faulting.map FaultRec.source).getD 0x01 ∧ (∀ e ∈ t.jobs, e.2.ctx ≠ c))) ∧
  (∀ (s : State) (c : Nat) (err : LosingError), s.die.inReset = false →
     (s.ctx c).state = .running ∨ (s.ctx c).state = .faultWait → s.ptn.apply = none → s.pwr.entry = none →
     let r := lossRecord s c 0 err
     ∃ t, exec (.contextLoss c err) s = .next t ∧ (t.ctx c).state = .lost ∧ (t.ctx c).loss = r.loss ∧
       (t.ctx c).causeStatus = r.status ∧ (t.ctx c).causeSource = r.source ∧ (t.ctx c).outstanding = false ∧
       (∀ e ∈ t.jobs, e ∈ s.jobs ∧ e.2.ctx ≠ c) ∧ (∀ d ∈ t.deltas, d.ctx ≠ c) ∧
       (∀ q, (s.queue q).ctx = c → (s.queue q).state ≠ .free → (s.queue q).state ≠ .destroying →
         (t.queue q).state = .stopped) ∧
       (∀ k, k ≠ c → t.ctx k = s.ctx k) ∧ bit t.flt.events 1 = true ∧ t.pending = s.pending)

/-- FQ_READ and PQ_READ take a read index within the records written and no other; what waited for room follows, an
OVERFLOW record first. Where the manual's words leave a case to the reader it takes the model's own reading, in entry
4 of the assumption log, which is no rule of the manual. -/
def Obligations.FaultQueueReads : Prop :=
  ∀ (s : State) (v : U32),
    let u := s.hostWake false
    u.leaderUp = true →
    (∀ c, (u.ctx c).state ≠ .closed →
      (((u.ctx c).fqWrite - (u.ctx c).fqRead).toNat < (v - (u.ctx c).fqRead).toNat →
        exec (.fqReadWrite c v) s = .next u) ∧
      ((v - (u.ctx c).fqRead).toNat ≤ ((u.ctx c).fqWrite - (u.ctx c).fqRead).toNat →
        (u.ctx c).held = none → (u.ctx c).fqDroppedSince = 0 →
        exec (.fqReadWrite c v) s = .next (u.updCtx c (fun x => { x with fqRead := v }))) ∧
      ((v - (u.ctx c).fqRead).toNat ≤ ((u.ctx c).fqWrite - (u.ctx c).fqRead).toNat →
        ((u.ctx c).fqWrite - v).toNat < 2 ^ (u.ctx c).fqOrder → (u.ctx c).fqDroppedSince ≠ 0 → (u.ctx c).held = none →
        let w := u.updCtx c (fun x => { x with fqRead := v })
        w.windowOk (w.ctx c).partition ((w.ctx c).fqBase + 32 * ((w.ctx c).fqWrite.toNat % 2 ^ (w.ctx c).fqOrder)) 32 true
          = true → w.failingPart ((w.ctx c).fqBase + 32 * ((w.ctx c).fqWrite.toNat % 2 ^ (w.ctx c).fqOrder)) 32 = false →
        ∃ t, exec (.fqReadWrite c v) s = .next t ∧ (t.ctx c).fqDroppedSince = 0 ∧
          (t.ctx c).fqWrite = (u.ctx c).fqWrite + 1 ∧
          t.mem = u.mem.putBytes ((u.ctx c).fqBase + 32 * ((u.ctx c).fqWrite.toNat % 2 ^ (u.ctx c).fqOrder))
            ((overflowRecord w c).bytes (u.ctx c).fqSeq))) ∧
    (∀ p, p < 16 →
      let w : PartFq := u.flt.pq.get {} p
      ((w.write - w.read).toNat < (v - w.read).toNat → exec (.pqReadWrite p v) s = .next u) ∧
      ((v - w.read).toNat ≤ (w.write - w.read).toNat → w.droppedSince = 0 ∨ w.enable = false →
        exec (.pqReadWrite p v) s = .next (u.setPq p { w with read := v })))

/-- OPEN: a request that passes every check takes the lowest closed index, in the mode and at the levels that it asks
for, and the response and the result follow; one that fails opens nothing and its result holds the reason. It is
dropped on a follower or while a command is in progress, and waits for an apply of its partition. DESTROY with ABORTED
or PRODUCER_LOST: the context and its queues are destroyed from then on and nothing of it runs; once its writes are
accepted it is CLOSED, its queues FREE, and no translation, delta or Spool granule of it is left. Where the manual's
words leave a case to the reader it takes the model's own reading, in entries 50 and 94 of the assumption log, which
are no rule of the manual. -/
def Obligations.OpeningAndDestroyingContexts : Prop :=
  (∀ (s : State) (fn : Nat),
     let u := s.hostWake true
     u.feUp = true →
     (u.fe.ctxBusy = true ∨ u.leader = false → exec (.feCtxOpen fn) s = .next (u.feEvent 3)) ∧
     (u.fe.ctxBusy = false → u.leader = true → u.die.stage ≠ .tack →
       (u.affectedNow u.openPart = true →
         exec (.feCtxOpen fn) s = .next { u with fe := { u.fe with ctxBusy := true, openWaits := some fn } }) ∧
       (u.affectedNow u.openPart = false → u.fe.halted = false →
         target u.fe.ctxReq = 0 ∧ u.fe.ctxReq + 128 ≤ u.capacity ∨ target u.fe.ctxReq = 2 →
         u.failing u.fe.ctxReq 128 = false →
         let r := OpenReq.parse (u.mem.bytes u.fe.ctxReq 128)
         (∀ c lv, r.reason u fn u.fe.ctxReq = 0 → u.freeCtx = some c → r.levels u.die.stage = some lv →
           u.failingPart r.resp 64 = false →
           ∃ t, exec (.feCtxOpen fn) s = .next t ∧ t.ctx c = r.ctx lv ∧ (∀ k, k ≠ c → t.ctx k = u.ctx k) ∧
             t.fe.ctxBusy = false ∧ t.fe.ctxStatus = 0 ∧ t.fe.csInUse = BitVec.ofNat 8 lv.1 ∧
             t.fe.ptnInUse = BitVec.ofNat 8 lv.2.1 ∧ t.fe.abiInUse = BitVec.ofNat 8 lv.2.2 ∧ t.fe.ctxContext = BitVec.ofNat 8 c ∧ bit t.fe.events 0 = true ∧
             t.queues = u.queues ∧ t.jobs = u.jobs) ∧
         (r.reason u fn u.fe.ctxReq ≠ 0 → ∃ t, exec (.feCtxOpen fn) s = .next t ∧ t.ctxs = u.ctxs ∧
           t.fe.ctxReason = BitVec.ofNat 8 (r.reason u fn u.fe.ctxReq) ∧
           t.fe.ctxStatus = (if r.reason u fn u.fe.ctxReq = 1 then 0x23 else 0x21) ∧ bit t.fe.events 0 = true)))) ∧
  ((∀ (s : State) (v : U32),
     let u := s.hostWake true
     let c := v.toNat % 256
     let status : U8 := (v >>> 16).truncate 8
     u.feUp = true →
     (u.fe.ctxBusy = true ∨ u.leader = false ∨ (status ≠ 0x01 ∧ status ≠ 0x05) ∨ (u.ctx c).state = .closed ∨
         (u.ctx c).state = .destroying → exec (.feCtxDestroy v) s = .next (u.feEvent 3)) ∧
     (u.fe.ctxBusy = false → u.leader = true → status = 0x01 ∨ status = 0x05 → (u.ctx c).state ≠ .closed →
       (u.ctx c).state ≠ .destroying → u.ptn.apply = none → u.pwr.entry = none →
       ∃ t, exec (.feCtxDestroy v) s = .next t ∧ t.fe.ctxBusy = true ∧ (t.ctx c).state = .destroying ∧
         (t.ctx c).destroyStatus = status ∧ (∀ e ∈ t.jobs, e ∈ u.jobs ∧ e.2.ctx ≠ c) ∧
         (∀ q, (u.queue q).ctx = c → (u.queue q).state ≠ .free → (t.queue q).state = .destroying) ∧
         ∀ k, k ≠ c → t.ctx k = u.ctx k)) ∧
   (∀ (s : State) (c : Nat), (s.ctx c).state = .destroying → s.ptn.apply = none → s.pwr.entry = none →
     ∃ t, exec (.contextDestroyDrained c) s = .next t ∧ (t.ctx c).state = .closed ∧ (t.ctx c).graphs = [] ∧
       (∀ q, (s.queue q).ctx = c → (s.queue q).state = .destroying → (t.queue q).state = .free) ∧
       (∀ e ∈ t.mmu.entries, e.ctx ≠ c) ∧ (∀ e ∈ t.mmu.walkCache, e.ctx ≠ c) ∧ (∀ d ∈ t.deltas, d.ctx ≠ c) ∧
       (∀ g ∈ t.spl.grans, g.2.st = .alloc → g.2.ctx ≠ c) ∧ t.fe.ctxBusy = false ∧ bit t.fe.events 0 = true))

/-- CREATE takes a queue descriptor that passes its checks and answers the reason of one that does not; DESTROY stops
a queue and, unless an error that it meets loses the context, no other, and its record and end follow; CONTINUE lets a
HALTED queue run. Where the manual's words leave a case to the reader it takes the model's own reading, in entries 50
and 98 of the assumption log, which are no rule of the manual. -/
def Obligations.CreatingAndDestroyingQueues : Prop :=
  (∀ s : State,
    let u := s.hostWake true
    let a := u.fe.queueDesc
    let b := u.mem.bytes a 64
    let done := fun (v : State) (status reason : U8) => ({ v with fe := { v.fe with
        queueBusy := false, queueStatus := status, queueReason := reason, events := setBit v.fe.events 1 true } } : State)
    u.feUp = true →
    (u.fe.queueBusy = true ∨ u.leader = false ∨ u.fe.halted = true →
      exec .feQueueCreate s = .next (u.feEvent 3)) ∧
    (u.fe.queueBusy = false → u.leader = true → u.fe.halted = false →
      target a = 0 ∧ a + 64 ≤ u.capacity ∨ target a = 2 → u.failing a 64 = false →
      (u.ctx (field b 2 1)).state = .closed ∨ u.windowOk (u.ctx (field b 2 1)).partition a 64 false = true →
      exec .feQueueCreate s = .next (if u.queueReason b = 0 then
          done { u with queues := u.queues.set (field b 0 2) (queueOf b) } 0 0
        else done u 0x21 (BitVec.ofNat 8 (u.queueReason b)))) ∧
    (∀ q,
      (u.fe.queueBusy = true ∨ u.leader = false ∨ (u.queue q).state ≠ .halted →
        exec (.feQueueContinue q) s = .next (u.feEvent 3)) ∧
      (u.fe.queueBusy = false → u.leader = true → (u.queue q).state = .halted →
        exec (.feQueueContinue q) s = .next (done (u.updQueue q (fun x => { x with state := .active })) 0 0)) ∧
      (u.fe.queueBusy = false → u.leader = true → (u.queue q).state ≠ .free → (u.queue q).state ≠ .destroying →
        u.ptn.apply = none → u.pwr.entry = none →
        ∃ t, exec (.feQueueDestroy q) s = .next t ∧ t.fe.queueBusy = true ∧ (t.queue q).state = .destroying ∧
          (t.queue q).destroyStatus = 0x01 ∧ (t.queue q).ownDestroy = true ∧
          (t.queue q).endedWithout = BitVec.ofNat 32 (u.queue q).unfinished.length ∧
          (∀ e ∈ t.jobs, e ∈ u.jobs ∧ ¬ (e.2.queue = q ∧ e.2.ctx = (u.queue q).ctx)) ∧
          ((t.ctx (u.queue q).ctx).state = (u.ctx (u.queue q).ctx).state → ∀ k, k ≠ q → t.queue k = u.queue k)))) ∧
  (∀ (s : State) (q : Nat) (stamp : U32), (s.queue q).state = .destroying → (s.queue q).ownDestroy = true →
    let x := s.queue q
    s.physFail x.ctx (x.cqBase + 32 * (x.cqWrite.toNat % 2 ^ x.cqOrder)) 32 true = none →
    s.physFail x.ctx x.rptr 8 true = none →
    ∃ t, exec (.queueDestroyRecord q stamp) s = .next t ∧ (t.queue q).state = .free ∧
      (t.queue q).cqWrite = (s.queue q).cqWrite + 1 ∧ t.fe.queueBusy = false ∧ t.fe.queueStatus = 0 ∧
      bit t.fe.events 1 = true ∧ t.ctxs = s.ctxs ∧ t.jobs = s.jobs)

/-- SIGNAL, FAIL and RESET act on the event object at FE_EVENT_ADDR, as one write of its 16 bytes: a signal that would
move the value back is ignored and counted in the object, the first error stays, and a reset clears both. Where the
windows do not hold the object, the answer is SELVEDGE. Where the manual's words leave a case to the reader it takes
the model's own reading, in entry 45 of the assumption log, which is no rule of the manual. -/
def Obligations.EventCommands : Prop :=
  ∀ (s : State) (fn : Nat) (v : U32),
    let u := s.hostWake true
    let a := u.fe.eventAddr
    let e := u.event a
    let x := u.fe.eventValue.toNat
    u.feUp = true → u.leader = true → u.fe.halted = false →
    (u.windowOk fn a 16 false = true ∧ u.windowOk fn a 16 true = true → u.failing a 16 = false →
      ∀ c ∈ [Instr.feEventSignal fn v, .feEventFail fn v, .feEventReset fn v], ∃ t, exec c s = .next t ∧
        t.fe.eventStatus = 0 ∧ bit t.fe.events 2 = true ∧ t.ctxs = u.ctxs ∧ t.queues = u.queues ∧
        ∃ n : EventObj, t.mem = u.mem.putBytes a (toBytes 8 n.value ++ toBytes 4 n.error ++ toBytes 4 n.flags) ∧
          (c = .feEventReset fn v → n.value = x % 2 ^ 64 ∧ n.error = 0 ∧ n.flags = e.flags % 65536) ∧
          (c = .feEventFail fn v → n.value = e.value ∧ n.flags = e.flags ∧
            n.error = if e.error = 0 then v.toNat / 256 % 256 + v.toNat / 65536 * 65536 else e.error) ∧
          (c = .feEventSignal fn v → (2 ^ 63 ≤ (x + 2 ^ 64 - e.value % 2 ^ 64) % 2 ^ 64 →
              n.value = e.value ∧ n.error = e.error ∧
              n.flags = e.flags % 65536 + min (e.flags / 65536 + 1) 0xFFFF * 65536 ∧ t.fe.eventIgnored = true) ∧
            ((x + 2 ^ 64 - e.value % 2 ^ 64) % 2 ^ 64 < 2 ^ 63 →
              n.value = x % 2 ^ 64 ∧ n.flags = e.flags ∧ t.fe.eventIgnored = false ∧
              n.error = if v.toNat / 256 % 256 ≠ 0 ∧ e.error = 0 then
                v.toNat / 256 % 256 + v.toNat / 65536 * 65536 else e.error))) ∧
    (u.windowOk fn a 16 false = false ∨ u.windowOk fn a 16 true = false →
      ∀ c ∈ [Instr.feEventSignal fn v, .feEventFail fn v, .feEventReset fn v],
        exec c s = .next ({ u with fe := { u.fe with eventStatus := 0x33 } } |>.feEvent 2))

/-! ### The pattern -/

/-- GO and VALIDATE_ONLY: dropped and reported while they may not run; a stream that fails its checks ends the apply
with PATTERN_INVALID and the record's offset, one that is only validated ends with OK, and neither changes a
partition. A GO that a non-restartable command of an affected partition holds out waits at step 2; APPLY_ABANDON ends
it with PATTERN_LIVE and nothing changes. An apply that nothing holds out: each affected partition's window is what
the stream gives, one that a complete stream does not name included, STATUS is OK, and the sequence number is the
stream's. Where the manual's words leave a case to the reader it takes the model's own reading, in entries 40, 102,
103, 104, 123 and 128 of the assumption log, which are no rule of the manual. -/
def Obligations.PatternApplies : Prop :=
  ((∀ (s : State) (cycles : U32),
     let u := s.hostWake false
     let ended := fun (result : U8) (off : U32) => ({ u with ptn := { u.ptn with
       busy := false, step := 0, result := result, failOffset := off, applyTime := cycles, apply := none,
       events := setBit u.ptn.events 0 true } } : State)
     u.feUp = true →
     (u.ptn.busy = true ∨ u.pwr.entry.isSome = true ∨ u.leader = false ∨ u.die.stage ≠ .finished →
       exec (.ptnApplyGo cycles) s = .next (u.ptnEvent 1) ∧ exec (.ptnValidateOnly cycles) s = .next (u.ptnEvent 1)) ∧
     (u.ptn.busy = false → u.pwr.entry = none → u.leader = true → u.die.stage = .finished → u.fe.openWaits = none →
       (∀ off, u.checkStream = .bad off →
         exec (.ptnApplyGo cycles) s = .next (ended 0x21 (BitVec.ofNat 32 off)) ∧
         exec (.ptnValidateOnly cycles) s = .next (ended 0x21 (BitVec.ofNat 32 off))) ∧
       (∀ result seq carried, u.checkStream = .ok result seq carried →
         exec (.ptnValidateOnly cycles) s = .next (ended 0x00 u.ptn.failOffset) ∧
         (∀ j v k, u.jobs.keys.Nodup → u.jobs.find j = some v → v.onEngines = true → v.nonRestart = true → v.launch = none →
           k ∈ affectedKeys u.dies u.ptn.parts result → (u.ctx v.ctx).partition = k % 16 →
           ∃ t a, exec (.ptnApplyGo cycles) s = .next t ∧ t.ptn.busy = true ∧ t.ptn.step = 2 ∧ t.ptn.apply = some a ∧
             a.result = result ∧ t.ptn.parts = u.ptn.parts)))) ∧
   (∀ (s : State) (cycles : U32), s.ptn.apply.isSome = true → s.fe.openWaits = none → s.pwr.entry = none →
     exec (.applyAbandon cycles) s = .next { s with ptn := { s.ptn with
       busy := false, step := 0, result := 0x20, applyTime := cycles, apply := none,
       events := setBit s.ptn.events 0 true } })) ∧
  (∀ (s : State) (cycles : U32) (result : TMap Part16) (seq : U32) (carried : List Nat),
     let u := s.hostWake false
     u.feUp = true → u.ptn.busy = false → u.pwr.entry = none → u.leader = true → u.die.stage = .finished →
     u.fe.openWaits = none → u.checkStream = .ok result seq carried → u.jobs = [] → u.ptn.shadows = [] → u.l3c.hot = [] →
     ∃ t, exec (.ptnApplyGo cycles) s = .next t ∧ t.ptn.busy = false ∧ t.ptn.apply = none ∧ t.ptn.result = 0 ∧
       t.ptn.activeSeq = seq ∧ t.ptn.applyTime = cycles ∧ bit t.ptn.events 0 = true ∧
       ∀ k ∈ affectedKeys u.dies u.ptn.parts result, t.ptn.parts.get {} k = result.get {} k)

/-- Direct writes: a live field's value waits in its shadow until the takeup makes it the active one; a static field
is written only in a partition that does not run, and refused with LIVE or INVALID otherwise. HALT_REQ takes its bits
but for bit 0, and HALTED follows once the partition's non-restartable commands have ended; a refill gives each port
of each enabled partition its rate's credit, up to its burst. Where the manual's words leave a case to the reader it
takes the model's own reading, in entries 4 and 118 of the assumption log, which are no rule of the manual. -/
def Obligations.DirectWritesHaltsAndRefills : Prop :=
  ((∀ (s : State) (p r : Nat) (v : U32), p < 16 → r < 256 → r % 4 = 0 →
     let u := s.hostWake false
     let off := 0x10800 + 256 * p + r
     let refused := fun (status : U8) => ({ u with ptn := { u.ptn with
       result := status, failOffset := 0x80000000 ||| BitVec.ofNat 32 (off % 2 ^ 24) } } : State)
     u.feUp = true →
     (r ∈ liveOffsets →
       (u.affectedNow p = true → exec (.ptnLiveWrite off v) s = .next (refused 0x20)) ∧
       (u.affectedNow p = false → r = 0x14 → popcount (u.part p).cores < v.toNat % 256 →
         exec (.ptnLiveWrite off v) s = .next (refused 0x21)) ∧
       (u.affectedNow p = false → r ≠ 0x14 ∨ v.toNat % 256 ≤ popcount (u.part p).cores →
         exec (.ptnLiveWrite off v) s = .next { u with ptn := { u.ptn with
           shadows := u.ptn.shadows.set (256 * u.partKey p + r) v } })) ∧
     (∀ new, (u.part p).loadStatic r v = some new →
       (((u.part p).enable = true ∧ bit u.ptn.halted p = false) ∨ u.affectedNow p = true →
         exec (.ptnStaticWrite off v) s = .next (refused 0x20)) ∧
       ((u.part p).enable = false ∨ bit u.ptn.halted p = true → u.affectedNow p = false →
         ((checkResult u (u.ptn.parts.set (u.partKey p) new)).isSome = true →
           exec (.ptnStaticWrite off v) s = .next (refused 0x21)) ∧
         (checkResult u (u.ptn.parts.set (u.partKey p) new) = none → ∃ t,
           exec (.ptnStaticWrite off v) s = .next t ∧ t.ptn.parts = u.ptn.parts.set (u.partKey p) new)))) ∧
   (∀ (s : State) (p off : Nat) (v : U32), s.ptn.shadows.find (shadowKey (s.partKey p) off) = some v → ∃ t,
     exec (.liveShadowTakeup p off) s = .next t ∧
     t.ptn.parts = s.ptn.parts.set (s.partKey p) ((s.part p).loadLive off v) ∧
     t.ptn.shadows.find (shadowKey (s.partKey p) off) = none ∧ bit t.ptn.events 3 = true)) ∧
  ((∀ (s : State) (v : U16),
     let u := s.hostWake false
     u.feUp = true → ∃ t, exec (.ptnHaltReq v) s = .next t ∧ t.ptn.haltReq = v &&& 0xFFFE ∧
       t.ptn.halted = u.ptn.halted &&& (v &&& 0xFFFE) ∧ t.ptn.parts = u.ptn.parts ∧
       ∀ j w, t.jobs.find j = some w → w.onEngines = true → w.launch = none →
         bit (v &&& 0xFFFE &&& ~~~u.ptn.haltReq) (u.ctx w.ctx).partition = true → u.jobs.keys.Nodup →
           w.nonRestart = true ∨ w.committed = true) ∧
   (∀ (s : State) (p : Nat), bit s.ptn.haltReq p = true → s.holdsOut (· == p) = false →
     exec (.partitionHalted p) s = .next { s with ptn := { s.ptn with halted := setBit s.ptn.halted p true } }) ∧
   (∀ s : State, s.die.inReset = false → ∃ m, exec .regulatorRefill s = .next { s with ptn := { s.ptn with credit := m } } ∧
     ∀ p port, port < 8 →
       let x := s.part p
       m.get 0 (8 * p + port) = if p < 16 ∧ x.enable = true ∧ port ≠ 4 ∧ port ≠ 5 then
         min (s.credit p port + refillBytes s.die.dramMts (x.rate (port % 4))) (x.burst (port % 4) * 1024 : Nat)
       else s.credit p port))

/-! ### Submission and scheduling -/

/-- NOP takes the slot at the head of its queue and ends it: both indices advance, RPTR and the completion record are
written, and nothing else of the queue's context changes. A slot that is no defined one loses its context. A doorbell
within the ring, or a read index within the completions, is taken; any other is dropped and counted. Where the
manual's words leave a case to the reader it takes the model's own reading, in entries 43, 56 and 122 of the
assumption log, which are no rule of the manual. -/
def Obligations.SlotsAndDoorbells : Prop :=
  ((∀ (s : State) (q : Nat) (stamp : U32) (b : List U8), s.head q = .slot b → slotOp b = 0x3F →
     let x := s.queue q
     let place := x.cqBase + 32 * (x.cqWrite.toNat % 2 ^ x.cqOrder)
     s.physFail x.ctx x.rptr 8 true = none → s.physFail x.ctx place 32 true = none →
     ∃ t, exec (.nop q stamp) s = .next t ∧ (t.queue q).sqRead = x.sqRead + 1 ∧ (t.queue q).cqWrite = x.cqWrite + 1 ∧
       (t.queue q).sticky = x.sticky ∧ (∀ k, k ≠ q → t.queue k = s.queue k) ∧ t.ctxs = s.ctxs ∧ t.jobs = s.jobs ∧
       t.mem = ((s.mem.putBytes x.rptr (toBytes 4 (x.sqRead + 1).toNat ++ toBytes 4 x.cqWrite.toNat)).putBytes place
         (slotRecord s q b 0x00 stamp).bytes).putBytes x.rptr
           (toBytes 4 (x.sqRead + 1).toNat ++ toBytes 4 (x.cqWrite + 1).toNat) ∧
       (x.notify = true → s.leader = true → (t.source (256 + x.ctx)).pending = true)) ∧
   (∀ (s : State) (q : Nat),
     let x := s.queue q
     let a := x.slotAddr x.sqRead
     s.dispatching = true → x.state = .active → x.sqRead ≠ x.sqWrite → x.waiting = false →
     (s.ctx x.ctx).state = .running → s.physFail x.ctx a 64 false = none →
     slotFormed (s.ctx x.ctx).csLevel.toNat x.cls (s.mem.bytes a 64) = false → s.ptn.apply = none →
     ∃ t, exec (.undefinedSlotOpcode q) s = .next t ∧ (t.ctx x.ctx).state = .lost ∧ (t.ctx x.ctx).causeSource = 0x04 ∧
       (t.queue q).state = .stopped)) ∧
  (∀ (s : State) (q : Nat) (v : U32), q < 1024 →
     let u := s.hostWake true
     let x := u.queue q
     let dropped := (u.updQueue q (fun y => { y with dropped := satAdd32 y.dropped 1 })).feEvent 4
     u.feUp = true →
     (x.state ≠ .active → x.state ≠ .stalled → x.state ≠ .halted →
       exec (.sqWrite q v) s = .next dropped ∧ exec (.cqRead q v) s = .next dropped) ∧
     (x.state = .active ∨ x.state = .stalled ∨ x.state = .halted →
       (v ≠ x.sqWrite → (v - x.sqWrite).toNat < 2 ^ 31 → (v - x.sqRead).toNat ≤ 2 ^ x.sqOrder →
         exec (.sqWrite q v) s = .next (u.updQueue q (fun y => { y with sqWrite := v }))) ∧
       (v ≠ x.sqWrite → 2 ^ 31 ≤ (v - x.sqWrite).toNat ∨ 2 ^ x.sqOrder < (v - x.sqRead).toNat →
         exec (.sqWrite q v) s = .next dropped) ∧
       ((v - x.cqRead).toNat ≤ (x.cqWrite - x.cqRead).toNat →
         exec (.cqRead q v) s = .next (u.updQueue q (fun y => { y with
           cqRead := v
           state := if y.state = .stalled ∧ Queue.room { y with cqRead := v } ≠ 0 then .active else y.state }))) ∧
       ((x.cqWrite - x.cqRead).toNat < (v - x.cqRead).toNat → exec (.cqRead q v) s = .next dropped)))

/-- EVENT_RECORD signals its event with its own error or the sticky one, which it clears; EVENT_WAIT waits for its
value or an error, ends with the error as its status, and an error halts the queue; a wait that a later update
satisfies resumes so. Where the manual's words leave a case to the reader it takes the model's own reading, in entries
45 and 58 of the assumption log, which are no rule of the manual. -/
def Obligations.EventSlots : Prop :=
  (∀ (s : State) (q : Nat) (stamp : U32) (b : List U8), s.head q = .slot b → slotOp b = 0x10 →
    let c := (s.queue q).ctx
    let a := slotEvent b
    s.physFail c a 16 false = none → s.physFail c a 16 true = none →
    let own := field b 32 1
    let r := (s.event a).signal (slotValue b) (if own ≠ 0 then own else (s.queue q).sticky.toNat) c
    let u := if r.2 then
        State.updCtx { s with fe := { s.fe with ignoredCount := satAdd32 s.fe.ignoredCount 1 } } c
          (fun x => { x with ignored := satAdd32 x.ignored 1 })
      else s
    exec (.eventRecord q stamp) s = .next (((u.putEvent a (s.ctx c).partition r.1 (!r.2)).updQueue q (fun x => { x with sticky := 0 })).endHead
      q b 0x00 stamp)) ∧
  (∀ (s : State) (q : Nat) (stamp : U32) (b : List U8), slotOp b = 0x11 →
    let a := slotEvent b
    let e := s.event a
    s.physFail (s.queue q).ctx a 16 false = none →
    let waits := fun (i : Instr) =>
      (e.reached (slotValue b) = false → exec i s = .next (s.updQueue q (fun x => { x with waiting := true }))) ∧
      (e.reached (slotValue b) = true →
        let st : U8 := BitVec.ofNat 8 e.error
        let u := (s.updQueue q (fun x => { x with waiting := false })).endHead q b st stamp
        exec i s = .next (if st ≠ 0 && (u.queue q).state = .active then u.updQueue q (fun x => { x with state := .halted })
          else u))
    (s.head q = .slot b → waits (.eventWait q stamp)) ∧
    ((s.queue q).waiting = true → (s.queue q).state = .active → s.fe.halted = false → s.fe.awaitHost = false →
      s.die.inReset = false → s.pwr.entry = none → s.pwr.state = .run →
      b = s.mem.bytes ((s.queue q).slotAddr (s.queue q).sqRead) 64 → waits (.queueWaitResume q stamp)))

/-- SUSPEND, RESUME and CANCEL act on the long operation that their slot names and end with OK; where they change
nothing the record says NO_TARGET. A CANCEL waits for a SUSPEND in progress and for a pass that has committed. A
command that CANCEL ends leaves the die; of memory, no byte changes but those that its runs have written (these become
free, the model's choice, assumption 101) and those of anchored adds. A restartable node that has not stopped in time
is killed. Where the manual's words leave a case to the reader it takes the model's own reading, in entries 55 and 101
of the assumption log, which are no rule of the manual. -/
def Obligations.ControlSlotsActOnTheirTarget : Prop :=
  (∀ (s : State) (q : Nat) (stamp : U32) (b : List U8), s.head q = .slot b →
    let tgt := s.controlTarget (s.queue q).ctx (field b 16 2) (BitVec.ofNat 32 (field b 20 4))
    let ends := fun (t : State) => Host.Outcome.next (φ := Fault) (ρ := Refusal) ((t.endControl q b true stamp).settle)
    let misses := Host.Outcome.next (φ := Fault) (ρ := Refusal) (s.endControl q b false stamp)
    (slotOp b = 0x20 →
      (tgt = .nothing → exec (.suspend q stamp) s = misses) ∧
      (tgt = .upload → s.svc.upload ≠ .suspended →
        exec (.suspend q stamp) s = ends { s.programAll with svc := { s.programAll.svc with upload := .suspended } }) ∧
      (∀ tq i, tgt = .slot tq i → (s.queue tq).holds.contains i = false →
        exec (.suspend q stamp) s = ends (s.updQueue tq (fun x => { x with holds := i :: x.holds }))) ∧
      (∀ j v w, tgt = .job j → s.jobs.find j = some v → v.launch = some w → w.suspended = false →
        exec (.suspend q stamp) s =
          ends ((s.updJob j (fun v => { v with launch := some { w with suspended := true } })).suspendNodes j)) ∧
      (∀ j v, tgt = .job j → s.jobs.find j = some v → v.launch = none → v.st = .ready ∨ v.st = .rerun →
        exec (.suspend q stamp) s = ends (s.updJob j (fun v => { v with st := .suspended }))) ∧
      (∀ j v, tgt = .job j → s.jobs.find j = some v → v.launch = none → v.st = .running →
        (v.stream = none ∨ (streamCmd v.payload).stateOut = 0 →
          exec (.suspend q stamp) s = ends (s.kill j 7 .suspended)) ∧
        (∀ x, v.stream = some x → (streamCmd v.payload).stateOut ≠ 0 → exec (.suspend q stamp) s =
          ends (((s.on none).saveStream j v.ctx (streamCmd v.payload) x (if v.kind = 6 then 0 else 1)).updJob j (fun v =>
            { v with st := .suspended, cmp := none, stream := some { x with saved := true } }))))) ∧
    (slotOp b = 0x21 →
      (tgt = .nothing → exec (.resume q stamp) s = misses) ∧
      (∀ tq i, tgt = .slot tq i → (s.queue tq).holds.contains i = true →
        exec (.resume q stamp) s = ends (s.updQueue tq (fun x => { x with holds := x.holds.filter (· != i) }))) ∧
      (∀ j v w, tgt = .job j → s.jobs.find j = some v → v.launch = some w → w.suspended = true →
        exec (.resume q stamp) s =
          ends ((s.updJob j (fun v => { v with launch := some { w with suspended := false } })).resumeNodes j)) ∧
      (∀ j v, tgt = .job j → s.jobs.find j = some v → v.launch = none → v.st = .suspended →
        exec (.resume q stamp) s = ends (s.updJob j (fun v => { v with st := .rerun }))) ∧
      (tgt = .upload → s.svc.upload = .suspended →
        exec (.resume q stamp) s = ends { s with svc := { s.svc with upload := .receiving } })) ∧
    (slotOp b = 0x22 →
      (tgt = .nothing → exec (.cancel q stamp) s = misses) ∧
      (tgt = .upload → exec (.cancel q stamp) s = ends { s with svc := { s.svc with upload := .aborted, buffer := [] } }) ∧
      (∀ tq i, tgt = .slot tq i → exec (.cancel q stamp) s =
        ends (s.updQueue tq (fun x => { x with cancels := i :: x.cancels, holds := x.holds.filter (· != i) }))) ∧
      (∀ j v, tgt = .job j → s.jobs.find j = some v → v.launch.isSome = true →
        exec (.cancel q stamp) s = if s.stopping j then .next s else ends (s.endLaunch j 0x01 stamp)) ∧
      (∀ j v, tgt = .job j → s.jobs.find j = some v → v.launch = none →
        exec (.cancel q stamp) s = ends (((s.abandon j).updQueue v.queue (fun x => { x with owed := x.owed - 1 })).endSlot
          v.queue v.slot { status := 0x01, opcode := v.opcode, handle := v.handle, strict := s.strict v, kills := v.kills,
                           memory := memoryWork v.kind, stamp := stamp })))) ∧
  (∀ (s : State) (j : Nat), s.mem.wf = true → (s.abandon j).jobs.find j = none ∧
    (∀ k, k ≠ j → (s.abandon j).jobs.find k = s.jobs.find k) ∧
    (∀ b, (∀ r ∈ (s.trail.get [] j : List (Nat × Nat)), b < r.1 ∨ r.1 + r.2 ≤ b) →
      (∀ d ∈ s.deltas, b < d.pa ∨ d.pa + d.bytes ≤ b) → (s.abandon j).mem.byte b = s.mem.byte b)) ∧
  (∀ (s : State) (job : Nat) (v : Job), s.jobs.find job = some v → v.suspending = true → v.st = .running →
    v.nonRestart = false → v.committed = false → s.ptn.apply = none → s.pwr.entry = none → ∃ t w,
    exec (.suspendKillTimeout job) s = .next t ∧ t.jobs.find job = some w ∧ w.st = .rerun ∧ w.kills = v.kills + 1 ∧
      w.suspending = false)

/-- REGISTER_GRAPH keeps a well-formed image under its identifier, and unregistering takes it out once no launch uses
it and no parameter write of its launches waits; an identifier in use, or none, ends the slot with PATTERN_INVALID. A
LAUNCH of no graph ends so too. A node patch makes a new version whose patched entries keep TYPE, NPRED and PRED; a
parameter patch writes its bytes at once, or with its launches' end where it may wait, and ends BUSY where it may not;
a deferred one lands when no launch uses its block. Where the manual's words leave a case to the reader it takes the
model's own reading, in entry 51 of the assumption log, which is no rule of the manual. -/
def Obligations.GraphsAndPatches : Prop :=
  (∀ (s : State) (q : Nat) (stamp : U32) (b : List U8), s.head q = .slot b →
     let c := (s.queue q).ctx
     let id := field b 24 4
     let a := field b 16 8
     (slotOp b = 0x30 → a ≠ 0 →
       ((s.ctx c).graphs.find id ≠ none ∨ 256 ≤ (s.ctx c).graphs.length →
         exec (.registerGraph q stamp) s = .next (s.endHead q b 0x21 stamp)) ∧
       ((s.ctx c).graphs.find id = none → (s.ctx c).graphs.length < 256 → ∀ u v : State,
         Goes (s.readRanges c [(a, 64)]) u → headerFormed (s.ctx c).csLevel.toNat a (u.mem.bytes a 64) = true →
         Goes (u.readRanges c (u.imageRanges (graphOf a (u.mem.bytes a 64)))) v →
         v.graphFormed (graphOf a (u.mem.bytes a 64)) 0 = true →
         exec (.registerGraph q stamp) s = .next (((v.setGraph c id (graphOf a (u.mem.bytes a 64))).logModes c
           (BitVec.ofNat 32 id) (graphOf a (u.mem.bytes a 64)) 0).endHead q b 0 stamp))) ∧
     (slotOp b = 0x30 → a = 0 →
       ((s.ctx c).graphs.find id = none → exec (.graphUnregister q stamp) s = .next (s.endHead q b 0x21 stamp)) ∧
       (∀ g, (s.ctx c).graphs.find id = some g → s.launchesOf c id ≠ [] ∨ g.deferred ≠ [] →
         exec (.graphUnregister q stamp) s = .next s) ∧
       (∀ g, (s.ctx c).graphs.find id = some g → s.launchesOf c id = [] → g.deferred = [] → exec (.graphUnregister q stamp) s =
         .next ((s.updCtx c (fun x => { x with graphs := x.graphs.del id })).endHead q b 0 stamp))) ∧
     (slotOp b = 0x01 → (s.ctx c).graphs.find (field b 16 4) = none → s.outranked q stamp = false →
       let x := s.queue q
       s.physFail c x.rptr 8 true = none → s.physFail c (x.cqBase + 32 * (x.cqWrite.toNat % 2 ^ x.cqOrder)) 32 true = none →
       exec (.launch q stamp) s = .next ((s.endHead q b 0x21 stamp).serve q))) ∧
  ((∀ (s u v : State) (q : Nat) (stamp : U32) (b : List U8) (g : Graph), s.head q = .slot b → slotOp b = 0x31 →
     let c := (s.queue q).ctx
     let id := field b 16 4
     let va := field b 24 8
     (s.ctx c).graphs.find id = some g →
     (field b 20 1 = 1 →
       let first := field b 22 2
       let n := field b 36 4 / 64
       let ver := g.current + 1
       let a := g.versionArea + ver % 8 * 64 * g.nodes
       field b 36 4 % 64 = 0 → first + n ≤ g.nodes → 8 * 64 * g.nodes ≤ g.versionBytes → ver < 0xFFFF →
       (ver :: (s.launchesOf c id).map (fun e => e.2.2.version)).eraseDups.length ≤ 8 →
       Goes (s.resident c [(va, 64 * n, .read)]) u → Goes (u.readRanges c [(g.nodeAt g.current 0, 64 * g.nodes)]) v →
       let src := v.vread c va (64 * n)
       let table := ((List.range g.nodes).zip (v.nodesOf g g.current)).map (fun e =>
         if first ≤ e.1 && e.1 < first + n then patchedEntry e.2 ((src.drop (64 * (e.1 - first))).take 64) else e.2)
       ((List.range g.nodes).zip table).all (fun e => nodeFormed g e.1 e.2 (v.preds g e.2)) = true →
       v.physFail c a (64 * g.nodes) true = none →
       let h := { g with current := ver, tables := g.tables.set ver a }
       exec (.patchGraphNode q stamp) s = .next ((((v.poke a table.flatten).setGraph c id h).logModes c
         (BitVec.ofNat 32 id) h ver).endHead q b 0 stamp)) ∧
     (field b 20 1 = 2 →
       let blk := field b 22 2
       let n := field b 36 4
       Goes (s.readRanges c [(g.paramTable, 16 * g.params)]) u → blk < g.params →
       field b 32 4 + n ≤ (u.paramBlock g blk).2 →
       let dst := (u.paramBlock g blk).1 + field b 32 4
       (u.blockInUse c id g blk = true → field b 21 1 = 0 →
         exec (.patchGraphParameter q stamp) s = .next (u.endHead q b 0x22 stamp)) ∧
       (u.blockInUse c id g blk = false ∨ field b 21 1 ≠ 0 → Goes (u.resident c [(va, n, .read), (dst, n, .write)]) v →
         let d : Deferred := { blk := blk, addr := BitVec.ofNat 64 dst, bytes := v.vread c va n }
         let h := { g with deferred := g.deferred ++ [d] }
         exec (.patchGraphParameter q stamp) s = .next ((if v.blockInUse c id g blk then v.setGraph c id h
           else (v.setGraph c id h).landDeferred c id h blk).endHead q b 0 stamp)))) ∧
   (∀ (s u : State) (c : Nat) (id : U32) (blk : Nat) (g : Graph), s.dispatching = true → (s.ctx c).state ≠ .lost →
     (s.ctx c).graphs.find id.toNat = some g →
     let mine := g.deferred.filter (fun d => d.blk == blk)
     mine ≠ [] → s.blockInUse c id.toNat g blk = false →
     Goes (s.resident c (mine.map (fun d => (d.addr.toNat, d.bytes.length, .write)))) u →
     exec (.deferredParameterWrite c id blk) s = .next ((mine.foldl (fun (v : State) d => v.vwrite c d.addr.toNat d.bytes)
       u).setGraph c id.toNat { g with deferred := g.deferred.filter (fun d => d.blk != blk) })))

/-- LAUNCH: its version is bound, its FREE granules become its context's, and it runs; its node with no predecessor is
ready or waits for its packs. It ends with PATTERN_INVALID where its version is not live or its Spool range cannot be
held. A node whose packs are resident waits for dispatch with their offsets. A context switch gives the whole range to
the launch's context. Where the manual's words leave a case to the reader it takes the model's own reading, in entries
38, 52 and 121 of the assumption log, which are no rule of the manual. -/
def Obligations.LaunchesAndTheirSpool : Prop :=
  (∀ (s u : State) (q : Nat) (stamp : U32) (b : List U8) (g : Graph), s.head q = .slot b → slotOp b = 0x01 →
    let x := s.queue q
    let place := x.cqBase + 32 * (x.cqWrite.toNat % 2 ^ x.cqOrder)
    let c := x.ctx
    let p := (s.ctx c).partition
    let id := field b 16 4
    let v := if field b 20 2 = 0xFFFF then g.current else field b 20 2
    (s.ctx c).graphs.find id = some g → g.deferred = [] → s.outranked q stamp = false →
    ((s.liveVersions c id g).contains v = false ∨ (s.part p).rate 0 * 15000 < g.spoolBytes ∨ s.rangeBound p g = false →
      s.physFail c x.rptr 8 true = none → s.physFail c place 32 true = none →
      exec (.launch q stamp) s = .next ((s.endHead q b 0x21 stamp).serve q)) ∧
    ((s.liveVersions c id g).contains v = true → g.spoolBytes ≤ (s.part p).rate 0 * 15000 → s.rangeBound p g = true →
      Goes (s.readRanges c (s.versionRanges g v)) u →
      let w := u.allocFree c (u.rangeHere p g)
      w.physFail c x.rptr 8 true = none → w.queue q = x → (w.ctx c).state ≠ .lost →
      let t := (((w.take q).updQueue q (fun x => { x with owed := x.owed + 1 })).addJob
        { queue := q, slot := x.sqRead, ctx := c, opcode := 0x01, kind := 0, handle := slotHandle b
          nonRestart := slotNonRestart b, payload := slotPayload b, timeout := BitVec.ofNat 32 (slotTimeout b)
          st := .running, order := w.fe.dispatches
          launch := some { graph := BitVec.ofNat 32 id, version := v, seedLo := BitVec.ofNat 64 (field b 24 8)
                           seedHi := BitVec.ofNat 64 (field b 32 8)
                           spoolReady := w.rangeReady c (u.rangeHere p g), groups := (w.part p).groups } }).readyNodes
          w.fe.nextJob
      exec (.launch q stamp) s = .next (if (t.queue q).sqRead = x.sqRead then t else t.serve q))) ∧
  (∀ (s u : State) (job : Nat) (stamp : U32) (v : Job) (g : Graph) (at_ : Nat → State) (offs : Nat → Nat),
    s.jobs.find job = some v → v.st = .packWait → s.dispatching = true → s.graphFor v = some g →
    Goes (s.readRanges v.ctx [(g.packTable, 64 * g.packs)]) u → at_ 0 = u →
    (∀ n k, v.packs[n]? = some k →
      (k = 0xFF → at_ (n + 1) = at_ n ∧ offs n = 0xFFFFFFFF) ∧
      (k ≠ 0xFF → (at_ n).loadPack job v g k.toNat = .at (at_ (n + 1)) (offs n))) →
    exec (.packLoad job stamp) s = .next ((at_ v.packs.length).updJob job (fun v =>
      { v with packOffs := (List.range (v.packs.length)).map offs, st := if v.kills = 0 then .ready else .rerun }))) ∧
  (∀ (s : State) (job : Nat) (v : Job) (w : Launch) (g : Graph), s.jobs.find job = some v → v.launch = some w →
    (s.ctx v.ctx).graphs.find w.graph.toNat = some g → w.spoolReady = false → s.dispatching = true →
    (s.ctx v.ctx).state ≠ .lost → s.quiet (s.ctx v.ctx).partition = false →
    (∀ e ∈ s.jobs, e.2.onEngines = true → e.2.launch.isSome = true) →
    (∀ r ∈ s.spl.packs, s.packInUse r.digest = false) → (s.ctx v.ctx).saved = [] →
    ∃ t u x, exec (.partitionContextSwitch job) s = .next t ∧ t.jobs.find job = some u ∧ u.launch = some x ∧
      x.spoolReady = true ∧ t.rangeReady v.ctx (s.rangeHere (s.ctx v.ctx).partition g) = true)

/-- DISPATCH serves a killed command that goes first, and then the classes in order and the queues of a class round-
robin after the one last served, and starts what the first queue offers that can be placed; while a control slot is
ready, or with no offer, it changes no more than letting running commands go on. A copy or fill at the head of its
queue takes the partition's lowest free DMA channel. A ready command that waits for cores has commands of classes that
its own pre-empts killed, one at a time, until it fits; a timer that runs out loses the context with TIMEOUT. Where
the manual's words leave a case to the reader it takes the model's own reading, in entries 56, 57, 58 and 121 of the
assumption log, which are no rule of the manual. -/
def Obligations.DispatchAndPreemption : Prop :=
  ((∀ s : State, s.dispatching = true →
     let u := s.goOn.free
     let stamp := BitVec.ofNat 32 u.1
     let first := u.2.offerFirst u.2.frontRuns stamp
     (u.2.controlReady = true → exec .dispatch s = .next u.2) ∧
     (u.2.controlReady = false →
       (∀ q t, first = some (q, t) → exec .dispatch s = .next (t.serve q)) ∧
       (first = none →
         (∀ cls q pre post r t, cls < 4 → u.2.roundRobin cls = pre ++ q :: post →
           (∀ k, k < cls → ∀ r ∈ u.2.roundRobin k, u.2.offerQueue r stamp = none) →
           (∀ r ∈ pre, u.2.offerQueue r stamp = none) → u.2.offerQueue q stamp = some (r, t) →
           exec .dispatch s = .next { t with fe := { t.fe with lastServed := t.fe.lastServed.set (t.queue r).cls r } }) ∧
         ((∀ k, k < 4 → ∀ r ∈ u.2.roundRobin k, u.2.offerQueue r stamp = none) → exec .dispatch s = .next u.2)))) ∧
   (∀ (s : State) (q : Nat) (stamp : U32) (b : List U8) (d : Nat), s.head q = .slot b →
     slotOp b = 0x02 ∨ slotOp b = 0x03 →
     let x := s.queue q
     s.physFail x.ctx x.rptr 8 true = none → s.jobs = [] →
     s.dmaFor (slotJob s q b (if slotOp b = 0x02 then 4 else 5)) = some d →
     ∃ t w, s.offerQueue q stamp = some (q, t) ∧ t.jobs.find s.fe.nextJob = some w ∧ w.st = .running ∧ w.dma = some d ∧
       w.queue = q ∧ (t.queue q).sqRead = x.sqRead + 1 ∧ (t.queue q).owed = x.owed + 1)) ∧
  ((∀ (s : State) (job : Nat) (v : Job), s.jobs.find job = some v → s.dispatching = true → v.compute = true →
     s.offered v = true → s.classOf v ≤ 2 → s.ptn.apply = none →
     ((s.coresFor v).isSome = true → exec (.preemption job) s = .next s) ∧
     (s.victims v = [] → exec (.preemption job) s = .next s) ∧
     (∀ e es, s.victims v = e :: es → s.coresFor v = none → ((s.kill e.1 1 .rerun).coresFor v).isSome = true →
       exec (.preemption job) s = .next (s.kill e.1 1 .rerun)) ∧
     ∀ e ∈ s.victims v, e ∈ s.jobs ∧ e.2.nonRestart = false ∧ e.2.onEngines = true ∧ s.classOf v < s.classOf e.2 ∧
       (s.ctx e.2.ctx).partition = (s.ctx v.ctx).partition) ∧
   (∀ (s : State), s.die.inReset = false → s.pwr.state = .run ∨ s.pwr.state = .doze → s.ptn.apply = none →
     s.pwr.entry = none →
     (∀ job v, s.jobs.find job = some v → s.timed v = true →
       (s.ctx v.ctx).state = .running ∨ (s.ctx v.ctx).state = .faultWait →
       ∃ t, exec (.commandTimeout (.job job)) s = .next t ∧ (t.ctx v.ctx).state = .lost ∧ (t.ctx v.ctx).loss = 0x03 ∧
         (t.ctx v.ctx).causeSource = 0x07 ∧ ∀ e ∈ t.jobs, e.2.ctx ≠ v.ctx) ∧
     (∀ q,
       let x := s.queue q
       let b := s.mem.bytes (x.slotAddr x.sqRead) 64
       x.state = .active → x.sqRead ≠ x.sqWrite → x.oldest = x.sqRead →
       slotOp b ∈ [0x11, 0x20, 0x21, 0x22, 0x30, 0x31] → slotTimeout b ≠ 0 →
       (s.ctx x.ctx).state = .running ∨ (s.ctx x.ctx).state = .faultWait →
       ∃ t, exec (.commandTimeout (.head q)) s = .next t ∧ (t.ctx x.ctx).state = .lost ∧ (t.ctx x.ctx).loss = 0x03 ∧
         (t.queue q).state = .stopped)))

/-- COMMAND_COMMIT of a command of a queue: it leaves the die, its deltas are added at home, its cycles join the
context's counters and its queue's record follows. Of a node: it joins its launch, which commits when its last node
has. Where the manual's words leave a case to the reader it takes the model's own reading, in entries 28, 44, 53 and
97 of the assumption log, which are no rule of the manual. -/
def Obligations.CommandsCommit : Prop :=
  ∀ (s : State) (job : Nat) (v : Job) (w : WorkCounts), s.jobs.find job = some v → v.st = .done → v.launch = none →
    s.die.inReset = false → s.ptn.apply = none → s.pwr.entry = none →
    let n := s.workOf v w
    let u := ((((s.flushDeltas (fun d => d.ctx == v.ctx)).commitClean v).validate v.sumFrames).countWork v n).remove job
    (v.parent = none →
      let x := s.queue v.queue
      let place := x.cqBase + 32 * (x.cqWrite.toNat % 2 ^ x.cqOrder)
      s.physFail x.ctx place 32 true = none → s.physFail x.ctx x.rptr 8 true = none →
      ∃ t, exec (.commandCommit job w) s = .next t ∧ (t.ctx v.ctx).work = satAdd64 (s.ctx v.ctx).work n.work.toNat ∧
        (t.ctx v.ctx).mem = satAdd64 (s.ctx v.ctx).mem n.mem.toNat ∧
        (t.ctx v.ctx).link = satAdd64 (s.ctx v.ctx).link n.link.toNat ∧
        (∀ e ∈ t.jobs, e ∈ s.jobs ∧ e.1 ≠ job) ∧ (∀ d ∈ t.deltas, d ∈ s.deltas ∧ d.ctx ≠ v.ctx) ∧
        (t.queue v.queue).owed = x.owed - 1 ∧ (t.queue v.queue).cqWrite = x.cqWrite + 1 ∧
        (t.queue v.queue).sticky = (if x.sticky = 0 then v.status else x.sticky) ∧
        t.mem = (u.mem.putBytes place (commitRecord s v n).bytes).putBytes x.rptr
          (toBytes 4 x.sqRead.toNat ++ toBytes 4 (x.cqWrite + 1).toNat)) ∧
    (∀ (l : Nat) (j : Job) (a : Launch), v.parent = some l → l ≠ job → s.jobs.find l = some j → j.launch = some a →
      v.record = false →
      let a' := a.add v (commitRecord s v n) (s.strict v)
      let status := if j.status = 0 then v.status else j.status
      let known := fun (m : Nat) => ∃ g : Graph, (s.ctx j.ctx).graphs.find a.graph.toNat = some g ∧ g.nodes = m
      (∀ m, known m → a'.committed.length < m → exec (.commandCommit job w) s =
        .next (((u.updJob l (fun y => { y with status := status, launch := some a' })).readyNodes l).settle)) ∧
      (∀ m, known m → m ≤ a'.committed.length → exec (.commandCommit job w) s =
        .next ((((u.remove l).updQueue j.queue (fun x => { x with owed := x.owed - 1 })).endSlot j.queue j.slot
          { status := status, opcode := 0x01, handle := j.handle, work := a'.work, strict := s.strict j
            hostTimed := a'.hostTimed, launch := true, kills := a'.kills, refresh := a'.refresh, retry := a'.retry
            loose := a'.loose, stamp := n.stamp }).settle)))

/-- RESIDUE_FAILURE: the failure is counted, every command with blocks on the core is killed to run again, the failing
one before all others, and the core is quarantined; a command that may not be restarted loses its context instead.
TILE_STORE_COMMIT: with every line of the store and the state block writable, a tile's words go to memory in order,
its STORED bit is set, and the pass goes on without it. Where the manual's words leave a case to the reader it takes
the model's own reading, in entries 41, 59 and 68 of the assumption log, which are no rule of the manual. -/
def Obligations.ResidueFailuresAndTileStores : Prop :=
  (∀ (s : State) (core engine job : Nat) (bolt : Bool) (v : Job), s.jobs.find job = some v → s.die.inReset = false →
     s.usesCore job v core = true → core < 64 → s.ptn.apply = none → s.pwr.entry = none →
     (∀ e ∈ s.jobs, e.1 ≠ job → s.usesCore e.1 e.2 core = true → e.2.nonRestart = false) →
     ∃ t, exec (.residueFailure core engine bolt job) s = .next t ∧ bit t.flt.quar core = true ∧
       (t.cores.get {} core).st = 1 ∧
       (t.clusters.get {} (core / 8) : Cluster).residue = satAdd32 (s.clusters.get {} (core / 8) : Cluster).residue 1 ∧
       (let x := s.ctx v.ctx
        (∀ i, s.physFail v.ctx (x.fqBase + 32 * (i % 2 ^ x.fqOrder)) 32 true = none) → v.nonRestart = false →
        (v.committed = false → ∃ w, t.jobs.find job = some w ∧ w.st = .rerun ∧ w.kills = v.kills + 1 ∧ w.front = 2) ∧
        (∀ k y, k ≠ job → s.jobs.find k = some y → s.usesCore k y core = true → y.committed = false →
          ∃ w, t.jobs.find k = some w ∧ w.st = .rerun ∧ w.front = 1)) ∧
       (v.nonRestart = true → (s.ctx v.ctx).state = .running ∨ (s.ctx v.ctx).state = .faultWait →
         (t.ctx v.ctx).state = .lost ∧ (t.ctx v.ctx).loss = 0x02)) ∧
  (∀ (s u : State) (job tile : Nat) (v : Job) (b : TileBuf),
     let p := s.passOf job
     let s1 := s.setTile job tile
     let v' : Job := { v with tile := tile }
     let ws := s1.tileWrites v.ctx p.d p.stage tile b
     (∀ k, s.withJob job 3 k = k s v) → p.tiles.find tile = some b → p.tileReady tile b = true →
     Goes (s1.probedTile job v' b.core (ws.map (fun w => (w.1, w.2.length, Access.write)))
       [(storedAt v' tile, 1, .atomic), (stateVa v', 64, .write)]) u →
     let s2 := ws.foldl (fun (s : State) w => s.vwrite v.ctx w.1 w.2) u
     let s3 := s2.vwrite v.ctx (storedAt v' tile)
       ((s2.vread v.ctx (storedAt v' tile) 1).map (fun x => setBit x (tile % 8) true))
     let p' := { p with tiles := p.tiles.del tile, stored := p.stored + 1 }
     exec (.tileStoreCommit job tile .none) s = .next (s3.putHeader job v' p' (fun s => s.passStep job passFuel)) ∧
       p'.tiles.find tile = none)

/-! ### Copies, streams and summaries -/

/-- COPY and FILL move through their buffers in steps of 64 KiB, each probed before any of its bytes moves, and report
done. BASTE reads its tensor once and writes its side table; CMP_CTRL.CLEAR clears the engines' counters. Where the
manual's words leave a case to the reader it takes the model's own reading, in entries 54, 97, 118 and 120 of the
assumption log, which are no rule of the manual. -/
def Obligations.CopiesFillsAndSummaries : Prop :=
  (∀ (s : State) (job : Nat) (v : Job) (at_ mid : Nat → State), s.jobs.find job = some v → v.st = .running → at_ 0 = s →
     let p := v.payload
     (v.kind = 4 →
       let n := field p 16 8
       let m := fun (k : Nat) => min (n - 65536 * k) 65536
       let src := fun (k : Nat) => field p 0 8 + 65536 * k
       let dst := fun (k : Nat) => field p 8 8 + 65536 * k
       (∀ k, 65536 * k < n →
         Goes ((at_ k).stepProbe (k == 0) job 1 [[(src k, m k, .read)], [(dst k, m k, .write)]]) (mid k) ∧
         at_ (k + 1) =
           (let t := (mid k).traffic job v.ctx [(src k, m k, .read), (dst k, m k, .write)]
            t.vwrite v.ctx (dst k) (t.vread v.ctx (src k) (m k)))) →
       exec (.copy job) s = .next ((at_ ((n + 65535) / 65536)).jobDone job)) ∧
     (v.kind = 5 →
       let n := field p 8 8
       let m := fun (k : Nat) => min (n - 65536 * k) 65536
       let dst := fun (k : Nat) => field p 0 8 + 65536 * k
       (∀ k, 65536 * k < n → Goes ((at_ k).stepProbe (k == 0) job 1 [[(dst k, m k, .write)]]) (mid k) ∧
         at_ (k + 1) = ((mid k).traffic job v.ctx [(dst k, m k, .write)]).vwrite v.ctx (dst k)
            ((List.range (m k / 4)).flatMap (fun _ => toBytes 4 (field p 16 4)))) →
       exec (.fill job) s = .next ((at_ ((n + 65535) / 65536)).jobDone job))) ∧
  ((∀ (s u w : State) (job : Nat) (v : Job) (t : Td), s.jobs.find job = some v → v.st = .running → v.kind = 8 →
     (∀ trap, GoesWith (fun k => (s.on none).withTd job (field v.payload 0 8) false trap k) u t) →
     Goes (fun k => State.basteProbes job t k t.basteSteps 0 u) w →
     exec (.baste job) s = .next ((w.vwriteTagged v.ctx t.summary (w.sideTable v.ctx t)).jobDone job)) ∧
   (∀ s : State, (s.hostWake false).feUp = true →
     exec .cmpClear s = .next { s.hostWake false with cmp := { (s.hostWake false).cmp with engines := [] } }))

/-- A stream goes on block by block: COMPRESS writes a block's slot, DECOMPRESS the block of a slot or, where the slot
says NOFIT, nothing; the last block of the command ends it with its trailer, its saved state and its result, and a
slot that does not decode ends it with a fault. An error of the slot's history SRAM is counted; an uncorrectable one
kills the command, which runs again. Where the manual's words leave a case to the reader it takes the model's own
reading, in entries 41, 55, 97, 101 and 118 of the assumption log, which are no rule of the manual. -/
def Obligations.StreamsGoBlockByBlock : Prop :=
  (∀ (s u : State) (job : Nat) (v : Job) (x : Stream), s.jobs.find job = some v → v.st = .running →
    v.stream = some x ∨ (v.stream = none ∧ (streamCmd v.payload).cont = false ∧ x = {}) →
    let q := streamCmd v.payload
    let c := v.ctx
    let e := v.cmp.getD 0
    (∀ n, exec (.compress job 0 .none) s = .next (if v.kind = 6 then s.setStream job x else s) ∧
      exec (.decompress job 0 .none) s = .next (if v.kind = 7 then s.setStream job x else s) ∧
      (v.kind = 6 → Goes (s.stepProbe true job 3 (q.opens true true x.block)) u →
        let r := u.packBlock job c e q x
        (r.2.block < q.blocks → exec (.compress job (n + 1) .none) s = .next (packBlocks job c e q n false r.2 r.1)) ∧
        (q.blocks ≤ r.2.block →
          let t := if q.final then (r.1.traffic job c [(q.dst + q.slot * q.blocks, 16, .write)]).vwrite c
            (q.dst + q.slot * q.blocks) (r.2.codec.trailer q.ratio) else r.1
          exec (.compress job (n + 1) .none) s =
            .next ((if q.save then t.saveStream job c q r.2 0 else t).endStream job c q r.2 none))) ∧
      (v.kind = 7 → Goes (s.stepProbe true job 3 (q.opens false true x.block)) u →
        let src := q.src + q.slot * x.block
        let dst := q.dst + 256 * x.block
        let w := u.traffic job c [(src, q.slot, .read)]
        let step := fun (t : State) (y : Stream) =>
          let t := t.updEngine e (fun k => { k with blocks := satAdd32 k.blocks 1 })
          (y.block < q.blocks → exec (.decompress job (n + 1) .none) s = .next (unpackBlocks job c e q n false y t)) ∧
          (q.blocks ≤ y.block → q.final = false → exec (.decompress job (n + 1) .none) s =
            .next ((if q.save then t.saveStream job c q y 1 else t).endStream job c q y none)) ∧
          (q.blocks ≤ y.block → q.final = true →
            exec (.decompress job (n + 1) .none) s = .next (
              match trailerFault q y (t.vread c (q.src + q.slot * q.blocks) 16) with
              | some (st, off) => t.streamFault job c e q y st (q.slot * q.blocks + off)
              | none => (if q.save then t.saveStream job c q y 1 else t).endStream job c q y none))
        match decodeBlock x.hist (w.vread c src q.slot) with
        | .fault st off =>
          exec (.decompress job (n + 1) .none) s = .next (w.streamFault job c e q x st (q.slot * x.block + off))
        | .bytes b => step ((w.traffic job c [(dst, 256, .write)]).vwrite c dst b)
            (x.next (x.codec.fitted b))
        | .nofit =>
          let y := x.next x.codec.missed
          step ((w.updEngine e (fun k => { k with nofit := satAdd32 k.nofit 1 })).cmpEvent 0)
            (if x.first.isNone then { y with first := some x.blocks } else y)))) ∧
  (∀ (s u : State) (job n : Nat) (v : Job), s.jobs.find job = some v → v.st = .running → v.stream = none →
    let q := streamCmd v.payload
    q.cont = true →
    let w := u.traffic job v.ctx [(q.stateIn, 4160, .read)]
    let parsed := fun (dir : Nat) => StreamState.parse (w.vread v.ctx q.stateIn 4160) q.ratio dir
    (v.kind = 6 → Goes (s.stepProbe true job 3 (q.opens true true 0)) u →
      exec (.compress job n .none) s = .next (match parsed 0 with
        | some y => packBlocks job v.ctx (v.cmp.getD 0) q n true (Stream.ofCodec y) w
        | none => w.loseJob job (.trap 1 0 0 0 0))) ∧
    (v.kind = 7 → Goes (s.stepProbe true job 3 (q.opens false true 0)) u →
      exec (.decompress job n .none) s = .next (match parsed 1 with
        | some y => unpackBlocks job v.ctx (v.cmp.getD 0) q n true (Stream.ofCodec y) w
        | none => w.loseJob job (.trap 1 0 0 0 0)))) ∧
  (∀ (s : State) (job n : Nat) (v : Job), s.jobs.find job = some v → v.st = .running →
    let i := v.cmp.getD 0
    let u := ((s.updEngine i (fun w => { w with ce := satAdd32 w.ce 1 })).cmpEvent 2).fltEvent 6
    let w := ((s.updEngine i (fun w => { w with ue := satAdd32 w.ue 1 })).cmpEvent 3).free
    (v.kind = 6 → exec (.compress job n .sramCorrected) s = exec (.compress job n .none) u ∧
      exec (.compress job n .sramUncorrectable) s = .next ((w.2.killAs job (w.1 % 256) false .rerun).settle)) ∧
    (v.kind = 7 → exec (.decompress job n .sramCorrected) s = exec (.decompress job n .none) u ∧
      exec (.decompress job n .sramUncorrectable) s = .next ((w.2.killAs job (w.1 % 256) false .rerun).settle)))

/-! ### Memory and the on-chip memories -/

/-- Device memory and the flash keep their canonical form over every step, from every state: the address that a byte
is listed at is one, and no listed byte is zero. -/
def Obligations.MemoriesStayCanonical : Prop :=
  ∀ s t : State, s.Canonical → step s = .next t → t.Canonical

/-- The replay log and the counters of strict mode. ENABLE from 0 to 1 clears LOG_DROPPED and the entry number and
nothing else of the window; LOG_TAIL makes room, and an OVERFLOW entry with the number of drops follows at once; CLEAR
clears DET_LATE_UNTAGGED; frozen cycles join the command's stall counts; a late delivery is counted, and for a strict
command recorded; reading a _LO register latches its partner. Where the manual's words leave a case to the reader it
takes the model's own reading, in entries 41, 44 and 122 of the assumption log, which are no rule of the manual. -/
def Obligations.LogsAndStrictCounters : Prop :=
  (∀ (s : State) (p : Nat) (v : Bool), p < 16 → (s.hostWake false).feUp = true →
    let u := s.hostWake false
    let w : LogWin := u.det.logs.get {} p
    ∃ t, exec (.logEnableWrite p v) s = .next t ∧ t = { u with det := { u.det with logs := t.det.logs } } ∧
      (∀ q, q ≠ p → t.det.logs.get {} q = u.det.logs.get {} q) ∧
      t.det.logs.get {} p = (if w.enable = false ∧ v = true
        then { w with enable := true, dropped := 0, seq := 0, droppedSince := 0 } else { w with enable := v })) ∧
  (∀ (s : State) (p : Nat) (v : U16), p < 16 → (s.hostWake false).feUp = true →
    let u := s.hostWake false
    let w : LogWin := { u.det.logs.get {} p with tail := v }
    let room := w.enable = true ∧ w.droppedSince ≠ 0 ∧
      (w.head.toNat + 1) % 2 ^ w.order ≠ v.toNat % 2 ^ w.order ∧ w.base + 32 * w.head.toNat + 32 ≤ u.capacity
    ∃ t, exec (.logTailWrite p v) s = .next t ∧ (∀ q, q ≠ p → t.det.logs.get {} q = u.det.logs.get {} q) ∧
      (¬ room → t = { u with det := { u.det with logs := t.det.logs } } ∧ t.det.logs.get {} p = w) ∧
      (room → u.failingPart (w.base + 32 * w.head.toNat) 32 = false → t.mem = (u.poke (w.base + 32 * w.head.toNat) (logBytes 8 0 0xFFFF w.seq.toNat 0 (toBytes 4 w.droppedSince.toNat))).mem ∧
        t.det.logs.get {} p = { w with
          head := BitVec.ofNat 16 ((w.head.toNat + 1) % 2 ^ w.order), seq := w.seq + 1, droppedSince := 0 })) ∧
  (∀ s : State, (s.hostWake false).feUp = true → exec .detClear s =
    .next { s.hostWake false with det := { (s.hostWake false).det with lateUntagged := 0 } }) ∧
  (∀ (s : State) (job : Nat) (v : Job) (a b : U32), s.die.inReset = false → s.jobs.find job = some v → v.st = .running →
    s.strict v = true →
    ∃ t, exec (.strictFreezeResume job a b) s = .next t ∧ t = { s with jobs := t.jobs } ∧
      (∀ j, j ≠ job → t.jobs.find j = s.jobs.find j) ∧
      t.jobs.find job = some { v with refresh := satAdd32 v.refresh a.toNat, retry := satAdd32 v.retry b.toNat }) ∧
  (∀ (s : State) (job : Option Nat), s.die.inReset = false →
    ∃ t, exec (.lateDelivery job) s = .next t ∧ t.det.lateUntagged = satAdd32 s.det.lateUntagged 1 ∧
      ((∀ j v, job = some j → s.jobs.find j = some v → s.strict v = false) →
        t = { s with det := { s.det with lateUntagged := satAdd32 s.det.lateUntagged 1 } }) ∧
      (∀ j v, job = some j → s.jobs.find j = some v → s.strict v = true →
        t = (({ s with det := { s.det with lateUntagged := satAdd32 s.det.lateUntagged 1 } } : State).updJob j
          (fun v' => { v' with late := satAdd32 v.late 1 })).ctxReport v.ctx
          { status := 0, source := 0x0E, context := BitVec.ofNat 16 v.ctx, stitch := v.stitch64,
            info := satAdd32 v.late 1, die := s.dieNo == 1 })) ∧
  (∀ (s : State) (off : Nat) (v : U64), s.feUp = true → s.counterAt off = some v →
    ∃ t, exec (.counterLoRead off) s = .next t ∧ t = { s with det := { s.det with latches := t.det.latches } } ∧
      (∀ o, t.det.latches.find o = if o = off then some (BitVec.ofNat 32 (v.toNat / 2 ^ 32)) else s.det.latches.find o))

/-- What a cache's ENABLE and INVALIDATE do, and what the end of its operation leaves: a disable runs a write-back,
after which the cache is neither enabled nor invalidated; a disabled cache enables only once invalidated and idle, and
its refusal leaves status 0x24, and so does an enable of an enabled one that is busy. An operation that ends leaves no
line in its cache. The clears of a cluster's counters; a way whose corrected errors reach the threshold is disabled
and joins the darning map; the hundredth imbalanced window in a row raises HOTSPOT once for its run. Where the
manual's words leave a case to the reader it takes the model's own reading, in entries 48 and 62 of the assumption
log, which are no rule of the manual. -/
def Obligations.CachesAndClusters : Prop :=
  ((∀ c : CacheState,
     (c.enabled = true → c.disabling = false → c.busy = false → c.enable true = ({ c with enableReg := true }, 0, false)) ∧
     (c.enabled = true → c.disabling = false → c.busy = true → c.enable true = (c, 0x24, true)) ∧
     (c.enabled = true → c.enable false = ({ c with busy := true, disabling := true, invalidated := false, enableReg := false }, 0, false)) ∧
     (c.enabled = false → c.enable false = ({ c with enableReg := false }, 0, false)) ∧
     (c.enabled = false → c.invalidated = true → c.busy = false →
       c.enable true = ({ c with enabled := true, invalidated := false, enableReg := true }, 0, false)) ∧
     (c.enabled = false ∨ c.disabling = true → c.invalidated = false ∨ c.busy = true →
       c.enable true = ({ c with enableReg := false }, 0x24, true)) ∧
     c.invalidate = { c with busy := true } ∧
     (c.busy = false → c.done = c) ∧
     (c.busy = true → c.disabling = true →
       c.done = { c with busy := false, disabling := false, enabled := false, invalidated := false }) ∧
     (c.busy = true → c.disabling = false →
       c.done = { c with busy := false, invalidated := c.invalidated || !c.enabled })) ∧
   (∀ (s : State) (v : Bool), (s.hostWake false).cacheUp = true →
     let u := s.hostWake false
     exec (.l3cEnable v) s = .next { u with l3c := { u.l3c with
       cache := (u.l3c.cache.enable v).1, result := (u.l3c.cache.enable v).2.1
       events := if (u.l3c.cache.enable v).2.2 = true then u.l3c.events ||| 1 else u.l3c.events } } ∧
     exec .l3cInvalidate s = .next { u with l3c := { u.l3c with cache := u.l3c.cache.invalidate } }) ∧
   (∀ (s : State) (n : Nat) (v : Bool), n < 8 → (s.hostWake false).cacheUp = true →
     let u := s.hostWake false
     let x : Cluster := u.clusters.get {} n
     ∀ (c : Instr) (y : Cluster),
       (c = .l1Enable n v ∧ y = { x with l1 := (x.l1.enable v).1, cacheResult := (x.l1.enable v).2.1 }) ∨
       (c = .l2Enable n v ∧ y = { x with l2 := (x.l2.enable v).1, cacheResult := (x.l2.enable v).2.1 }) ∨
       (c = .l1Invalidate n ∧ y = { x with l1 := x.l1.invalidate }) ∨
       (c = .l2Invalidate n ∧ y = { x with l2 := x.l2.invalidate }) →
       ∃ t, exec c s = .next t ∧ t = { u with clusters := t.clusters } ∧
         ∀ m, t.clusters.get {} m = if m = n then y else u.clusters.get {} m) ∧
   (∀ (s : State) (n : Nat), s.die.inReset = false → n < 8 →
     (∃ t, exec (.cacheOperationDone .l3) s = .next t ∧ t.l3c.cache = s.l3c.cache.done ∧ t.mem = s.mem ∧
       (s.l3c.cache.busy = false → t = s) ∧ (s.l3c.cache.busy = true → t.lines.l3 = [])) ∧
     (∃ t, exec (.cacheOperationDone (.l1 n)) s = .next t ∧ t.mem = s.mem ∧
       (∀ m, t.clusters.get {} m = if m = n then { s.clusters.get {} n with l1 := (s.clusters.get {} n).l1.done }
         else s.clusters.get {} m) ∧
       ((s.clusters.get {} n : Cluster).l1.busy = true → ∀ e ∈ t.lines.l1, e.1 / 512 / 8 ≠ n)) ∧
     (∃ t, exec (.cacheOperationDone (.l2 n)) s = .next t ∧
       (∀ m, t.clusters.get {} m = if m = n then { s.clusters.get {} n with l2 := (s.clusters.get {} n).l2.done }
         else s.clusters.get {} m) ∧
       ((s.clusters.get {} n : Cluster).l2.busy = true →
         (∀ e ∈ t.lines.l2, e.1 / 16 / 2048 ≠ n) ∧ ∀ d ∈ t.deltas, d.cluster ≠ n)))) ∧
  ((∀ (s : State) (n : Nat), n < 8 → (s.hostWake false).feUp = true →
     let u := s.hostWake false
     let x : Cluster := u.clusters.get {} n
     (∃ t, exec (.cluMxClear n) s = .next t ∧ t = { u with clusters := t.clusters } ∧
       ∀ m, t.clusters.get {} m = if m = n then { x with sweeps := 0, stale := 0, residue := 0 }
         else u.clusters.get {} m) ∧
     (∃ t, exec (.cluMemClear n) s = .next t ∧ t = { u with clusters := t.clusters } ∧
       ∀ m, t.clusters.get {} m = if m = n then { x with lmCe := 0, lmUe := 0, tbCe := 0, tbUe := 0 }
         else u.clusters.get {} m)) ∧
   (∀ (s : State) (w : Nat), s.die.inReset = false → s.die.t5Stopped = false → w < 16 → bit s.l3c.live w = true →
     s.l3c.thresh.toNat ≤ (s.l3c.ce.get 0 w).toNat →
     ∃ t, exec (.wayDisable w) s = .next t ∧
       bit t.l3c.live w = false ∧ bit t.l3c.disabled w = true ∧
       (∀ v, v ≠ w → bit t.l3c.live v = bit s.l3c.live v ∧ bit t.l3c.disabled v = bit s.l3c.disabled v) ∧
       (∀ e ∈ t.lines.l3, e.1 % 16 ≠ w) ∧ bit t.l3c.events 1 = true ∧
       ({ type := 6, u := 0, index := w } ∈ t.darn.entries ∨ t.darn.full = true) ∧
       (s.enabledParts = [] → t.mem = s.mem) ∧ t.ctxs = s.ctxs ∧ t.jobs = s.jobs) ∧
   (∀ (s : State) (p : Nat) (h : HotspotCounts), s.die.inReset = false → (s.part p).enable = true →
     let x : HotWin := s.l3c.hot.get {} p
     let channels := windowCounts x.requests h.channels
     let sets := windowCounts x.evictions h.sets
     let ch := imbalanced channels 65536
     let st := imbalanced sets 4096
     let rc := if ch then min (x.runChannel + 1) 255 else 0
     let rs := if st then min (x.runSet + 1) 255 else 0
     ∃ t, exec (.hotspotWindow p h) s = .next t ∧
       (let y : HotWin := t.l3c.hot.get {} p
        y.runChannel = rc ∧ y.runSet = rs ∧ y.channel = (x.channel || rc == 100) ∧ y.set = (x.set || rs == 100) ∧
        (ch = true → y.hotChannel.toNat = (busiest channels).1 % 16) ∧
        (st = true → y.hotGroup.toNat = (busiest sets).1 % 16) ∧ y.rekeys = x.rekeys ∧
        y.requests = [] ∧ y.evictions = []) ∧
       (∀ q, q ≠ p → t.l3c.hot.get {} q = s.l3c.hot.get {} q) ∧
       (rc ≠ 100 → rs ≠ 100 → t = { s with l3c := { s.l3c with hot := t.l3c.hot } }) ∧
       (rc = 100 ∨ rs = 100 → bit t.l3c.events 4 = true ∧
         ∃ y : HotWin, t = State.partRecord { s with l3c := t.l3c } p
           { status := 0x25, source := 0x0C, context := 0xFFFF, die := s.dieNo == 1
             info := BitVec.ofNat 32 ((rc == 100).toNat + 2 * (rs == 100).toNat + y.hotChannel.toNat * 16
               + y.hotGroup.toNat * 256) } ∧ y = t.l3c.hot.get {} p)))

/-- SPL_RETAIN takes at most four banks; a scrub reports the errors it found in the enabled banks, and nothing while
it is off; a row whose corrected errors reach eight takes a spare of its sub-bank, and a Spool bank without one is
retired at the next apply. Where the manual's words leave a case to the reader it takes the model's own reading, in
entries 33, 60, 61, 63 and 125 of the assumption log, which are no rule of the manual. -/
def Obligations.SpoolRetentionScrubAndSpares : Prop :=
  (∀ (s : State) (v : U32), (s.hostWake false).feUp = true →
    let u := s.hostWake false
    exec (.splRetainWrite v) s = .next (
      if 4 < popcount (v.truncate 8 : U8) then { u with spl := { u.spl with events := setBit u.spl.events 5 true } }
      else { u with spl := { u.spl with retain := v.truncate 8 } })) ∧
  (∀ s : State, exec (.spoolScrub []) s = .next s) ∧
  (∀ (s : State) (errs : List ScrubError), s.spl.scrub = false → exec (.spoolScrub errs) s = .next s) ∧
  (∀ (s u : State) (errs : List ScrubError) (e : ScrubError), s.spl.scrub = true → s.t5Up = true →
    exec (.spoolScrub errs) s = .next u →
    exec (.spoolScrub (errs ++ [e])) s = .next (
      if 8 ≤ e.bank ∨ bit u.spl.online e.bank = false ∨ u.die.part.bankMib * 2 ^ 20 ≤ e.off then u
      else if e.corrected = true then u.spoolCorrected e.bank e.off else (u.spoolLost none e.bank e.off).clearGranule e.bank (e.off / 0x10000))) ∧
  (∀ (s : State) (b sub row : Nat), s.t5Up = true →
    let w : BankWin := s.spl.banks.get {} b
    let e : DarnEntry := { type := 5, c := b, s := sub, u := 0, index := sub, value := row }
    s.darn.entries.length < 8188 → 8 ≤ w.rowCe.get 0 (0x10000 * sub + row) →
    (∀ g ∈ s.spl.grans, g.1 / 256 = b → g.2.st ≠ .alloc) →
    ∃ t, exec (.rowSpare (.spool b sub) row) s = .next t ∧ t = { s with spl := t.spl, darn := t.darn } ∧
      (w.spares.get 0 sub < 16 → t.darn.entries = s.darn.entries ++ [e] ∧ bit t.spl.events 3 = true ∧
        t.spl.toRetire = s.spl.toRetire ∧
        (let y : BankWin := t.spl.banks.get {} b
         y.spares.get 0 sub = w.spares.get 0 sub + 1 ∧ y.rowCe.find (0x10000 * sub + row) = none ∧ y.ce = w.ce ∧
         y.ue = w.ue) ∧ ∀ c, c ≠ b → t.spl.banks.get {} c = s.spl.banks.get {} c) ∧
      (16 ≤ w.spares.get 0 sub → b < 8 → t.darn.entries = s.darn.entries ++ [{ type := 6, u := 1, c := b }] ∧
        bit t.spl.events 4 = true ∧ bit t.spl.toRetire b = true ∧ t.spl.banks = s.spl.banks)) ∧
  (∀ (s : State) (k bank row : Nat) (tile : Bool), s.t5Up = true →
    let x : CoreSlot := s.cores.get {} k
    let n := if tile then x.tbSpares else x.lmSpares.get 0 bank
    let c : Instr := .rowSpare (if tile then .tileBuffer k else .localMem k bank) row
    (tile = true → bank = 0) → s.coreIdle k = true → bit s.flt.quar k = false →
    8 ≤ (if tile then x.tbRows.get 0 row else x.lmRows.get 0 (0x10000 * bank + row)) →
    (n < (if tile then 8 else 4) → s.darn.entries.length < 8188 →
      ∃ t, exec c s = .next t ∧ t = { s with cores := t.cores, darn := t.darn } ∧
        t.darn.entries = s.darn.entries ++
          [{ type := 5, c := k / 8, s := x.phys, u := if tile then 2 else 1, index := bank, value := row }] ∧
        (let y : CoreSlot := t.cores.get {} k
         (if tile then y.tbSpares else y.lmSpares.get 0 bank) = n + 1 ∧ y.st = x.st ∧ y.phys = x.phys)) ∧
    ((if tile then 8 else 4) ≤ n → exec c s = .next (s.quarantine k)))

/-! ### The display -/

/-- A MODESET applies a timing within R343's limits whose stream no other pipe's mode has, and leaves the old one with
RESULT 0x21 otherwise; a hot-plug reads the sink, gives its preferred timing to the pipe that mirrors to the output
and trains for a routed mode, an unplug clears CONNECTED and LINK_UP and leaves the pipes, but for the one of two
pipes that mirrors to DP0 and goes over to a connected DP1; MIRROR takes the bits of the pipes of the part. Where the
manual's words leave a case to the reader it takes the model's own reading, in entries 74, 117 and 129 of the
assumption log, which are no rule of the manual. -/
def Obligations.ModesAndHotPlug : Prop :=
  (∀ (s : State) (p : Nat) (train : LinkTrain), s.pipeUp p = true →
    let t := (s.pipe p).regs
    let fits := 64 ≤ t.hactive.toNat ∧ t.hactive.toNat ≤ 7680 ∧ 64 ≤ t.vactive.toNat ∧ t.vactive.toNat ≤ 4320 ∧
      t.hactive.toNat + 32 ≤ t.htotal.toNat ∧ t.vactive.toNat + 8 ≤ t.vtotal.toNat ∧ t.clock.toNat ≤ 4000000 ∧
      t.output ≠ 3 ∧ (t.output = 0 → t.stream = false)
    let alone := ∀ q, q < 4 → q ≠ p → (s.pipe q).mode.ok = true → (s.pipe q).mode.output = t.output →
      (s.pipe q).mode.stream ≠ t.stream
    (¬ (fits ∧ alone) → ∃ u, exec (.modeset p train) s = .next u ∧ u.pipe p = { s.pipe p with result := 0x21 } ∧
      u = { s with dsp := { s.dsp with pipes := u.dsp.pipes } } ∧ ∀ q, q ≠ p → u.pipe q = s.pipe q) ∧
    (fits → alone → ∃ u, exec (.modeset p train) s = .next u ∧ u = { s with dsp := u.dsp } ∧
      (u.pipe p).mode = t ∧ (u.pipe p).running = (s.pipe p).enable ∧ (u.pipe p).result = 0 ∧
      (u.pipe p).regs = t ∧ (u.pipe p).layers = (s.pipe p).layers ∧
      (∀ q, q ≠ p → (u.pipe q).mode = (s.pipe q).mode ∧ (u.pipe q).running = (s.pipe q).running) ∧
      (bit s.dsp.connected t.output.toNat = true →
        (bit u.dsp.linkUp t.output.toNat = train.isSome) ∧ (train = none → bit u.dsp.events 3 = true) ∧
        (∀ lanes rate, train = some (lanes, rate) → (s.pipe p).enable = true →
          (u.pipe p).dscOn = (t.dsc && decide (lanes * rate < t.rate)))))) ∧
  (∀ (s : State) (o : Nat) (sink : List U8) (train : LinkTrain), s.feUp = true → o < 3 →
    ∃ t, exec (.hpdConnect o sink train) s = .next t ∧ t = { s with dsp := t.dsp, ic := t.ic } ∧
      bit t.dsp.connected o = true ∧ (t.dsp.sinks.get [] o) = sink.take 4092 ∧ bit t.dsp.events 0 = true ∧
      (t.source (128 + o)).pending = true ∧
      ((∀ p, p < 4 → (t.pipe p).running = true → (t.pipe p).mode.output.toNat ≠ o) → t.dsp.linkUp = s.dsp.linkUp) ∧
      (∀ p, p < 4 → (t.pipe p).running = true → (t.pipe p).mode.output.toNat = o →
        bit t.dsp.linkUp o = train.isSome ∧ (train = none → bit t.dsp.events 3 = true)) ∧
      (∀ p, (s.pipe p).mirroring = false ∨ (s.pipe p).bootTiming = false →
        (t.pipe p).mode = (s.pipe p).mode ∧ (t.pipe p).running = (s.pipe p).running) ∧
      (∀ p, s.die.part ≠ .x32 ∧ p = o ∨ s.die.part = .x32 ∧ (o = 0 ∧ p = 0 ∨ o = 1 ∧ p = 1 ∨
          o = 2 ∧ p = 1 ∧ bit s.dsp.connected 1 = false) →
        let w := preferredTiming o (sink.take 4092)
        let takes := (s.pipe p).mirroring = true ∧ (s.pipe p).bootTiming = true ∧ w.ok = true
        (t.pipe p).mode = (if takes then w else (s.pipe p).mode) ∧
          (t.pipe p).running = (if takes then (s.pipe p).enable else (s.pipe p).running))) ∧
  (∀ (s : State) (o : Nat), s.feUp = true → o < 3 →
    ∃ t, exec (.hpdDisconnect o) s = .next t ∧ t = { s with dsp := t.dsp, ic := t.ic } ∧
      bit t.dsp.connected o = false ∧ bit t.dsp.linkUp o = false ∧ bit t.dsp.events 1 = true ∧
      (t.source (128 + o)).pending = true ∧ t.dsp.sinks = s.dsp.sinks ∧
      (s.die.part ≠ .x32 ∨ o ≠ 1 ∨ bit s.dsp.connected 2 = false → t.dsp.pipes = s.dsp.pipes) ∧
      (s.die.part = .x32 → o = 1 → bit s.dsp.connected 2 = true →
        t.pipe 1 = (s.pipe 1).follow (preferredTiming 2 (s.dsp.sinks.get [] 2)) ∧ ∀ p, p ≠ 1 → t.pipe p = s.pipe p) ∧
      ∀ q, q ≠ o → bit t.dsp.connected q = bit s.dsp.connected q ∧ bit t.dsp.linkUp q = bit s.dsp.linkUp q) ∧
  (∀ (s : State) (o : Nat) (train : LinkTrain), s.feUp = true → o < 3 → bit s.dsp.connected o = true →
    ∃ t, exec (.irqHpd o train) s = .next t ∧ t = { s with dsp := t.dsp, ic := t.ic } ∧
      bit t.dsp.events 2 = true ∧ bit t.dsp.linkUp o = train.isSome ∧ (t.source (128 + o)).pending = true ∧
      t.dsp.connected = s.dsp.connected) ∧
  (∀ (s : State) (v : U32), s.feUp = true → ∃ t, exec (.dspMirrorWrite v) s = .next t ∧
    t = { s with dsp := { s.dsp with mirror := t.dsp.mirror } } ∧
    ∀ p, bit t.dsp.mirror p = (bit v p && decide (p < s.die.part.pipes)))

/-- A flip set from its check to the blank that shows it. A set that fails its checks leaves the ring at once with its
status; FLIP_WRITE and FLIP_RESET move the ring; at the latch a set whose gate has failed leaves with that error, one
not yet due stays head and is counted late once, and one that shows is latched, behind which nothing newer is ready;
the next blank counts FRAME and shows the latched set. Where the manual's words leave a case to the reader it takes
the model's own reading, in entry 74 of the assumption log, which is no rule of the manual. -/
def Obligations.FlipSetsAreShown : Prop :=
  (∀ (s : State) (p : Nat) (v : U32), s.pipeUp p = true →
    let x := s.pipe p
    exec (.flipWrite p v) s = .next (
      if (v - x.flipWrite).toNat < 2 ^ 31 ∧ (v - x.flipRead).toNat ≤ 2 ^ x.flipOrder then s.setPipe p { x with flipWrite := v }
      else { s with dsp := { s.dsp with events := setBit s.dsp.events 5 true } })) ∧
  (∀ (s : State) (p : Nat), s.pipeUp p = true → (s.pipe p).flipRead ≠ (s.pipe p).flipWrite → (s.pipe p).head = none →
    (s.pipe p).latched = none →
    let r := s.readSet p (s.pipe p).flipRead
    exec (.flipSetCheck p) s = .next (match r.2 with
      | none => s.setPipe p { s.pipe p with head := some r.1 }
      | some st => (s.dropSet p r.1 st.toNat 0).dspEvent 5)) ∧
  (∀ (s : State) (p : Nat) (f : FlipSet), s.pipeUp p = true → (s.pipe p).running = true → bit s.dsp.mirror p = false →
    (s.pipe p).head = some f → f.owner = s.pipeOwner p →
    (∀ e, s.gateError f = some e →
      exec (.flipLatch p) s = .next ((s.dropSet p f e (if f.late then 1 else 0)).dspEvent 5)) ∧
    (s.gateError f = none → s.showable p f = false → s.misses p f false = false →
      exec (.flipLatch p) s = .next (s.setPipe p { s.pipe p with head := some f })) ∧
    (s.gateError f = none → s.showable p f = false → s.misses p f false = true →
      exec (.flipLatch p) s = .next
        ((s.setPipe p { s.pipe p with head := some { f with late := true }, late := satAdd32 (s.pipe p).late 1 }).dspEvent
          6)) ∧
    (s.gateError f = none → s.showable p f = true → s.misses p f true = false →
      (s.pipe p).flipRead + 1 = (s.pipe p).flipWrite →
      exec (.flipLatch p) s = .next (s.setPipe p { s.pipe p with head := none, latched := some f }))) ∧
  (∀ (s : State) (p : Nat), s.pipeUp p = true → (s.pipe p).running = true → (s.pipe p).latched = none →
    ∃ t, exec (.verticalBlank p) s = .next t ∧ t = { s with dsp := t.dsp, ic := t.ic, freeCtr := t.freeCtr } ∧
      ((s.pipe p).crowded = false → (s.pipe p).crowds = false →
        (t.pipe p).inkDropped = (s.pipe p).inkDropped ∧ t.dsp.events = s.dsp.events) ∧
      (t.pipe p).frame = (s.pipe p).frame + 1 ∧ (t.pipe p).layers = (s.pipe p).layers ∧
      (t.pipe p).mirroring = ((s.pipe p).mirroring || bit s.dsp.mirror p) ∧ (t.source (140 + p)).pending = true ∧
      ∀ q, q ≠ p → t.pipe q = s.pipe q) ∧
  (∀ (s : State) (p : Nat) (f : FlipSet), s.pipeUp p = true → (s.pipe p).running = true →
    (s.pipe p).latched = some f →
    ∃ t, exec (.verticalBlank p) s = .next t ∧ (t.pipe p).frame = (s.pipe p).frame + 1 ∧
      (t.pipe p).latched = none ∧ (t.pipe p).flipRead = (s.pipe p).flipRead + 1 ∧ (t.pipe p).mirroring = false ∧
      (t.pipe p).layers = f.over (s.pipe p).layers ∧ bit t.dsp.events 4 = true ∧
      ∀ q, q ≠ p → t.pipe q = s.pipe q) ∧
  (∀ (s : State) (p : Nat), s.pipeUp p = true → (s.pipe p).latched = none →
    ((s.pipe p).flipWrite - (s.pipe p).flipRead).toNat ≤ 16 →
    ∃ t, exec (.flipReset p) s = .next t ∧
      (t.pipe p).flipRead = (t.pipe p).flipWrite ∧ (t.pipe p).flipWrite = (s.pipe p).flipWrite ∧
      (t.pipe p).layers = (s.pipe p).layers) ∧
  (∀ (s : State) (p : Nat) (f : FlipSet), s.pipeUp p = true → (s.pipe p).latched = some f →
    ∃ t, exec (.flipReset p) s = .next t ∧ (t.pipe p).latched = some f ∧
      (t.pipe p).flipRead = (s.pipe p).flipRead ∧ (t.pipe p).flipWrite = (s.pipe p).flipRead + 1 ∧
      (t.pipe p).layers = (s.pipe p).layers)

/-- Lines that run out of data are counted; a region's signature is the CRC-32C of the pixels that the pipe puts out
in it and is compared or learnt, and one that an underflow touches mismatches; ink records replace the prediction,
which a stroke's end and H without a record clear. Where the manual's words leave a case to the reader it takes the
model's own reading, in entries 72, 73 and 116 of the assumption log, which are no rule of the manual. -/
def Obligations.NotchesAndInk : Prop :=
  (∀ (s : State) (p : Nat) (n : U32), s.pipeUp p = true → (s.pipe p).running = true → n ≠ 0 →
    exec (.lineBufferUnderflow p n) s = .next
      ((s.setPipe p { s.pipe p with underflow := satAdd32 (s.pipe p).underflow n.toNat, missed := true }).dspEvent 7)) ∧
  (∀ (s : State) (p r : Nat) (missing : List LayerPixel), s.pipeUp p = true → (s.pipe p).running = true → r < 16 →
    let x : Region := (s.pipe p).regions.get {} r
    let without := if (s.pipe p).missed then missing else []
    let c := crc32c (x.pixels.flatMap (fun e => s.outputBytes p without e.1 e.2))
    let touched := ∃ e ∈ without, (e.x, e.y) ∈ x.pixels
    x.on = true → x.mode ≠ 0 →
    ∃ t, exec (.notchSignature p r missing) s = .next t ∧ t = { s with dsp := t.dsp, ic := t.ic } ∧
      (∀ q, q ≠ r → (t.pipe p).regions.get {} q = (s.pipe p).regions.get {} q) ∧ (∀ q, q ≠ p → t.pipe q = s.pipe q) ∧
      let y : Region := (t.pipe p).regions.get {} r
      (x.mode = 2 → y = { x with actual := c, expected := c, mode := 1 } ∧ t.ic = s.ic ∧
        t.dsp.events = s.dsp.events) ∧
      (x.mode = 1 → c ≠ x.frameExpected ∨ touched → y = { x with actual := c, mismatch := true, count := satAdd16 x.count 1 } ∧
        bit t.dsp.events 9 = true ∧ (t.source (64 + p)).pending = true ∧ (t.source (144 + p)).pending = true) ∧
      (x.mode ≠ 2 → x.mode ≠ 1 ∨ (c = x.frameExpected ∧ ¬ touched) → y = { x with actual := c } ∧ t.ic = s.ic ∧
        t.dsp.events = s.dsp.events)) ∧
  (∀ (s : State) (p : Nat) (v : U32), s.pipeUp p = true →
    let x := s.pipe p
    let takes := (v - x.inkWrite).toNat < 2 ^ 31 ∧ (v - x.inkRead).toNat ≤ 2 ^ x.inkOrder
    (¬ takes → exec (.inkWrite p v) s =
      .next { s with dsp := { s.dsp with events := setBit s.dsp.events 5 true } }) ∧
    (v = x.inkWrite → takes → exec (.inkWrite p v) s = .next s) ∧
    (takes → v ≠ x.inkWrite →
      ∃ t, exec (.inkWrite p v) s = .next t ∧ t = { s with dsp := t.dsp, ic := t.ic, freeCtr := t.freeCtr } ∧
        (t.source 148).pending = true ∧
        t.pipe p = { x with
          inkWrite := v, predicted := (t.pipe p).predicted, crowded := x.crowded || ({ x with inkWrite := v } : Pipe).crowds } ∧
        (x.predict = false → (t.pipe p).predicted = x.predicted) ∧
        (x.predict = true → s.ownerOk (s.pipeOwner p) x.inkBase (16 * 2 ^ x.inkOrder) false = true →
          let rs := s.newestStroke p 3 v
          ((∃ r ∈ rs, r.last = true) → (t.pipe p).predicted = []) ∧
          ((∀ r ∈ rs, r.last = false) → (rs.map InkRec.time).Nodup → (t.pipe p).predicted = predictInk rs x.horizon.toNat ∧
            (rs.length < 2 → (t.pipe p).predicted = []))))) ∧
  (∀ (s : State) (p : Nat), s.pipeUp p = true →
    exec (.inkPredictionExpiry p) s = .next (s.setPipe p { s.pipe p with predicted := [] }))

/-! ### Interrupts -/

/-- Sources, vectors and messages. An edge source that asserts is pending; VECTOR takes a value of its class's range
alone; a message carries every enabled pending source of its vector, all of which go into service, and a vector whose
message awaits completion sends none; a masked entry holds its message until it is unmasked; EOI ends the service of
the vector's sources; a Thimble handler takes its source into service and leaves it pending no more. Where the
manual's words leave a case to the reader it takes the model's own reading, in entries 13, 75 and 76 of the assumption
log, which are no rule of the manual. -/
def Obligations.MessagesCarryPendingSources : Prop :=
  (∀ (s : State) (src : Nat), s.die.inReset = false → hostSource src = true ∨ innerSource src = true →
    levelSource src = false → leaderSource src = false ∨ s.leader = true →
    ∃ t, exec (.interruptAssert src) s = .next t ∧ t = { s with ic := { s.ic with sources := t.ic.sources } } ∧
      t.source src = { s.source src with pending := true } ∧ ∀ i, i ≠ src → t.source i = s.source i) ∧
  (∀ (s : State) (src v : Nat), (s.hostWake false).feUp = true → hostSource src = true →
    let u := s.hostWake false
    ((fastSource src = true → v ≤ 3) → (fastSource src = false → 4 ≤ v ∧ v ≤ 18) →
      ∃ t, exec (.icVectorWrite src v) s = .next t ∧ t = { u with ic := { u.ic with sources := t.ic.sources } } ∧
        t.source src = { u.source src with vector := some v } ∧ ∀ i, i ≠ src → t.source i = u.source i) ∧
    ((fastSource src = true ∧ 3 < v) ∨ (fastSource src = false ∧ (v < 4 ∨ 18 < v)) →
      exec (.icVectorWrite src v) s = .next u)) ∧
  (∀ (s : State) (src : Nat) (v : Bool), (s.hostWake false).feUp = true → hostSource src = true →
    let u := s.hostWake false
    ∃ t, exec (.icSourceEnable src v) s = .next t ∧ t = { u with ic := { u.ic with sources := t.ic.sources } } ∧
      t.source src = { u.source src with enable := v } ∧ ∀ i, i ≠ src → t.source i = u.source i) ∧
  (∀ (s : State) (v : Nat), s.feUp = true → v < 64 →
    ((s.vector v).awaiting = true ∨ s.ready v = [] → exec (.msixMessageSend v) s = .next s) ∧
    ((s.vector v).awaiting = false → s.ready v ≠ [] →
      ∃ t, exec (.msixMessageSend v) s = .next t ∧
        t = { s with ic := { s.ic with sources := t.ic.sources, vectors := t.ic.vectors } } ∧
        (∀ i, t.source i = if i ∈ s.ready v then
            { s.source i with pending := false, inService := true, sentOn := v } else s.source i) ∧
        (∀ w, w ≠ v → t.vector w = s.vector w) ∧
        t.vector v = (if s.maskedNow v then { s.vector v with awaiting := true, held := true }
          else { s.vector v with awaiting := true, held := false, count := satAdd32 (s.vector v).count 1 }))) ∧
  (∀ (s : State) (fn v : Nat) (x : U32), (s.hostWake false).feUp = true →
    let u := s.hostWake false
    u.entryVector fn (x.toNat % 64) = some v →
    ∃ t, exec (.icEoi fn x) s = .next t ∧
      t = { u with ic := { u.ic with sources := t.ic.sources, vectors := t.ic.vectors } } ∧
      (∀ i, t.source i = if hostSource i = true ∧ (u.source i).inService = true ∧ (u.source i).sentOn = v
        then { u.source i with inService := false } else u.source i) ∧
      t.vector v = { u.vector v with awaiting := false } ∧ ∀ w, w ≠ v → t.vector w = u.vector w) ∧
  (∀ (s : State) (e : Nat), (s.hostWake false).feUp = true →
    let u := s.hostWake false
    let sent := fun (x : IcVector) (masked : Bool) =>
      if x.held = true ∧ masked = false then { x with held := false, count := satAdd32 x.count 1 } else x
    (e < 64 → ∃ t, exec (.msixEntryUnmask e) s = .next t ∧ t = { u with ic := { u.ic with vectors := t.ic.vectors } } ∧
      ∀ w, w < 64 → t.vector w =
        if w = e then sent { u.vector e with masked := false } (bit u.ic.functionMasks (vectorFn e))
        else sent (u.vector w) (u.maskedNow w)) ∧
    (64 ≤ e → e < 80 → ∃ t, exec (.msixEntryUnmask e) s = .next t ∧
      t = { u with ic := { u.ic with vectors := t.ic.vectors, functionMasks := t.ic.functionMasks } } ∧
      (∀ n, bit t.ic.functionMasks n = if n = e - 64 then false else bit u.ic.functionMasks n) ∧
      ∀ w, w < 64 → t.vector w = sent (u.vector w)
        ((u.vector w).masked || (bit u.ic.functionMasks (vectorFn w) && decide (vectorFn w ≠ e - 64))))) ∧
  (∀ (s : State) (src : Nat), innerSource src = true → s.thimbleUp (sourceCore src) = true → s.pendingNow src = true →
    ∃ t, exec (.thimbleInterrupt src) s = .next t ∧
      t = { s with ic := { s.ic with sources := t.ic.sources, fastBank := t.ic.fastBank, handler := t.ic.handler } } ∧
      (t.source src).pending = false ∧ (t.source src).inService = true ∧
      bit t.ic.fastBank (sourceCore src) = fastSource src ∧
      (fastSource src = false → bit t.ic.handler (sourceCore src) = true) ∧
      (fastSource src = true → t.ic.handler = s.ic.handler ∧
        ∀ i, i ≠ src → fastSource i = false → (t.source i).inService = (s.source i).inService) ∧
      ∀ i, i ≠ src → innerSource i = false ∨ sourceCore i ≠ sourceCore src → t.source i = s.source i)

/-! ### Power -/

/-- T4 grants the slowest level that a cause asks for, and of several such causes the lowest; a change to it runs
unless one runs already, and its end puts the target in force and takes up what has changed meanwhile. The platform
register is dropped once locked, and rejected where it permits P0 or P1 without liquid cooling. Coolant, temperature
and the power limit. A loss of coolant at P0 or P1 holds the islands to P2 at once and applies the coolant cause; a
trip holds them to P7; a critical stop leaves the sensors and the alert alone; the throttle and the limit move one
step at a time and end once they ask for no more than the other causes do. Where the manual's words leave a case to
the reader it takes the model's own reading, in entries 80 and 81 of the assumption log, which are no rule of the
manual. -/
def Obligations.LevelsAndTheirCauses : Prop :=
  ((∀ x : Pwr, (∀ e ∈ x.levels, e.2 ≤ x.grant.2) ∧ x.grant ∈ x.levels ∧
     (∀ e ∈ x.levels, e.2 = x.grant.2 → x.grant.1 ≤ e.1)) ∧
   (∀ (s : State) (v : U32), s.feUp = true →
     (s.pwr.locked = true → exec (.pwrPlatformWrite v) s = .next s) ∧
     (s.pwr.locked = false → v.toNat / 16 % 8 < 2 → v.toNat % 2 = 0 →
       exec (.pwrPlatformWrite v) s = .next { s with pwr := { s.pwr with events := setBit s.pwr.events 9 true } }) ∧
     (s.pwr.locked = false → 2 ≤ v.toNat / 16 % 8 ∨ v.toNat % 2 = 1 →
       ∃ t, exec (.pwrPlatformWrite v) s = .next t ∧ t = { s with pwr := t.pwr } ∧
         t.pwr.cooling = decide (v.toNat % 2 = 1) ∧ t.pwr.topLevel.toNat = v.toNat / 16 % 8 ∧
         t.pwr.current = s.pwr.current ∧
         (s.thimbleUp 4 = true → s.pwr.changing = false →
           t.pwr.target.toNat = t.pwr.grant.2 ∧ t.pwr.cause.toNat = t.pwr.grant.1 ∧
           t.pwr.changing = decide (t.pwr.target ≠ t.pwr.current)))) ∧
   (∀ (s : State) (v : U32), s.feUp = true →
     ∃ t, exec (.pwrLevelReq v) s = .next t ∧ t = { s with pwr := t.pwr } ∧ t.pwr.req.toNat = v.toNat % 8 ∧
       t.pwr.current = s.pwr.current ∧
       (s.thimbleUp 4 = true → s.pwr.changing = false →
         t.pwr.target.toNat = t.pwr.grant.2 ∧ t.pwr.cause.toNat = t.pwr.grant.1 ∧
         t.pwr.changing = decide (t.pwr.target ≠ t.pwr.current)) ∧
       (s.pwr.changing = true → t.pwr.target = s.pwr.target ∧ t.pwr.changing = true)) ∧
   (∀ s : State, s.thimbleUp 4 = true → s.pwr.changing = true →
     ∃ t, exec .levelChange s = .next t ∧ t = { s with pwr := t.pwr } ∧ t.pwr.current = s.pwr.target ∧
       (s.pwr.clamp = none → t.pwr.clamp = none) ∧
       (∀ c, s.pwr.clamp = some c → t.pwr.clamp =
         if (s.pwr.trip = true ∨ s.pwr.coolant = true) ∧ s.pwr.target.toNat < c.toNat then some c else none) ∧
       bit t.pwr.events 0 = true ∧ t.pwr.target.toNat = t.pwr.grant.2 ∧
       t.pwr.changing = decide (t.pwr.target ≠ t.pwr.current))) ∧
  ((∀ s : State, s.die.inReset = false → s.pwr.state ≠ .off → s.pwr.coolantOk = true →
     ∃ t, exec .coolantLoss s = .next t ∧ t = { s with pwr := t.pwr, ic := t.ic } ∧ t.pwr.coolantOk = false ∧
       t.pwr.coolant = true ∧ t.pwr.losses = satAdd16 s.pwr.losses 1 ∧ bit t.pwr.events 1 = true ∧
       (s.pwr.current.toNat < 2 → s.pwr.clamp = none → t.pwr.clamp = some 2) ∧
       (2 ≤ s.pwr.current.toNat → t.pwr.clamp = s.pwr.clamp) ∧ (2, 2) ∈ t.pwr.levels ∧
       (t.source 68).pending = true ∧ (t.source 135).pending = true) ∧
   (∀ s : State, s.die.inReset = false → s.pwr.state ≠ .off → s.pwr.coolantOk = false →
     ∃ t, exec .coolantRestore s = .next t ∧ t = { s with pwr := t.pwr, ic := t.ic } ∧ t.pwr.coolantOk = true ∧
       t.pwr.coolant = false ∧ bit t.pwr.events 2 = true ∧ (t.source 135).pending = true) ∧
   (∀ (s : State) (ts : List Nat), s.sensing = true → ts.length = 12 →
     ∃ t, exec (.sensorSample ts) s = .next t ∧ t = { s with pwr := t.pwr } ∧
       (∀ i, i < 12 → t.pwr.temps.find i = ts[i]?) ∧
       (s.pwr.critical = true → t.pwr.alert = true) ∧
       (t.pwr.hotter s.pwr.alertAt.toNat = true → t.pwr.alert = true) ∧
       (s.pwr.critical = false → t.pwr.hotter (s.pwr.alertAt.toNat - s.pwr.hyst.toNat) = false →
         t.pwr.hotter s.pwr.alertAt.toNat = false → t.pwr.alert = false) ∧
       t.pwr.trip = (s.pwr.trip && t.pwr.hotter (s.pwr.throttle.toNat - s.pwr.hyst.toNat))) ∧
   (∀ s : State, s.thimbleUp 4 = true → s.pwr.temps ≠ [] →
     ∃ t, exec .thermalThrottleStep s = .next t ∧ t = { s with pwr := t.pwr } ∧
       (s.pwr.hotter s.pwr.throttle.toNat = true →
         (∀ l, s.pwr.thermal = some l → t.pwr.thermal = some (BitVec.ofNat 3 (min 7 (l.toNat + 1)))) ∧
         (s.pwr.thermal = none → bit t.pwr.events 3 = true ∧
           t.pwr.thermal = some (BitVec.ofNat 3 (min 7 (s.pwr.others 3 + 1))))) ∧
       (s.pwr.hotter s.pwr.throttle.toNat = false → s.pwr.cool = true →
         (∀ l, s.pwr.thermal = some l →
           t.pwr.thermal = (if l.toNat - 1 ≤ s.pwr.others 3 then none else some (l - 1))) ∧
         (s.pwr.thermal = none → t.pwr.thermal = none)) ∧
       (s.pwr.hotter s.pwr.throttle.toNat = false → s.pwr.cool = false → t = s)) ∧
   (∀ s : State, s.die.inReset = false → s.pwr.state ≠ .hold → s.pwr.state ≠ .off →
     ∃ t, exec .thermalTrip s = .next t ∧ t = { s with pwr := t.pwr, ic := t.ic } ∧ t.pwr.trip = true ∧
       (s.pwr.current ≠ 7 → t.pwr.clamp = some 7) ∧ (s.pwr.current = 7 → t.pwr.clamp = none) ∧
       bit t.pwr.events 4 = true ∧ t.pwr.grant.2 = 7 ∧
       (t.source 69).pending = true ∧ (t.source 136).pending = true) ∧
   (∀ s : State, s.die.inReset = false → s.pwr.state ≠ .off →
     ∃ t, exec .criticalStop s = .next t ∧ t = { s with die := t.die, pwr := t.pwr, slk := t.slk } ∧
       t.die.inReset = true ∧ t.die.thimbles = 0 ∧ t.pwr.critical = true ∧ t.pwr.alert = true ∧
       t.pwr.temps = s.pwr.temps ∧ t.sensing = true ∧ t.feUp = false ∧ ∀ m, (t.module m).state = 0) ∧
   (∀ (s : State) (e : Nat), s.die.inReset = false → s.pwr.state ≠ .off →
     let allowed := s.pwr.watts.toNat * s.pwr.window.toNat * 16384
     ∃ t, exec (.powerLimitWindow e) s = .next t ∧ t = { s with pwr := t.pwr } ∧
       t.pwr.energy = s.pwr.energy + BitVec.ofNat 64 e ∧
       (s.thimbleUp 4 = false → t.pwr.limit = s.pwr.limit) ∧
       (s.thimbleUp 4 = true → s.pwr.watts = 0 → t.pwr.limit = none) ∧
       (s.thimbleUp 4 = true → s.pwr.watts ≠ 0 → allowed < 1000 * e → bit t.pwr.events 5 = true ∧ t.pwr.limitLow = 0 ∧
         t.pwr.limit = some (BitVec.ofNat 3 (min 7 ((s.pwr.limit.elim (s.pwr.others 4) BitVec.toNat) + 1)))) ∧
       (s.thimbleUp 4 = true → s.pwr.watts ≠ 0 → 1000 * e ≤ allowed → 10000 * e < 9 * allowed →
         (s.pwr.limitLow < 9 → t.pwr.limitLow = s.pwr.limitLow + 1 ∧ t.pwr.limit = s.pwr.limit) ∧
         (9 ≤ s.pwr.limitLow → t.pwr.limitLow = 0 ∧ ∀ l, s.pwr.limit = some l →
           t.pwr.limit = (if l.toNat - 1 ≤ s.pwr.others 4 then none else some (l - 1)))) ∧
       (s.thimbleUp 4 = true → s.pwr.watts ≠ 0 → 1000 * e ≤ allowed → 9 * allowed ≤ 10000 * e →
         t.pwr.limitLow = 0 ∧ t.pwr.limit = s.pwr.limit)) ∧
   (∀ (s : State) (k : Nat), s.die.inReset = false → s.pwr.state = .run → k < 64 →
     ((∀ b ∈ s.blocks, b.2.core ≠ k) →
       exec (.islandClockGate k) s = .next { s with pwr := { s.pwr with gated := setBit s.pwr.gated k true } }) ∧
     ((∃ b ∈ s.blocks, b.2.core = k) → exec (.islandClockGate k) s = .next s)))

/-- Entering and leaving the sleep states. A PWR_SLEEP write starts an entry, and with no command in flight and no
apply or retrain running the entry completes at once; during an entry another is refused; an entry that waits for a
command is refused at 10 ms; a wake ends an entry at once and takes a sleeping die to Run, recording its cause. Where
the manual's words leave a case to the reader it takes the model's own reading, in entries 77, 78 and 79 of the
assumption log, which are no rule of the manual. -/
def Obligations.SleepAndWake : Prop :=
  (∀ (s : State) (c : Instr) (p : PowerState), s.feUp = true → s.thimbleUp 4 = true → s.leader = true →
    (c = .sleepDoze ∧ p = .doze) ∨ (c = .sleepNap ∧ p = .nap) ∨ (c = .sleepHold ∧ p = .hold) ∨
      (c = .sleepOff ∧ p = .off) →
    (s.pwr.entry ≠ none → exec c s = .next { s with pwr := { s.pwr with events := setBit s.pwr.events 7 true } }) ∧
    (s.pwr.entry = none → exec c s = .next (State.settle { s with pwr := { s.pwr with entry := some p, step := 0 } })) ∧
    (s.pwr.entry = none → s.jobs = [] → s.ptn.apply = none → (∀ e ∈ s.slk.modules, e.2.state ≠ 1) →
      ∃ t, exec c s = .next t ∧ t.pwr.state = p ∧ t.pwr.entry = none ∧ t.pwr.result = 0 ∧ bit t.pwr.events 6 = true)) ∧
  (∀ (s : State) (p : PowerState), let t := s.sleepFinish p
    t.pwr.state = p ∧ t.pwr.entry = none ∧ t.pwr.result = 0 ∧ bit t.pwr.events 6 = true ∧ t.pwr.step = 0) ∧
  (∀ s : State, s.pwr.entry ≠ none → s.pwr.step = 1 → exec .sleepEntryRefused s = .next
    { s with pwr := { s.pwr with entry := none, step := 0, result := 0x20, events := setBit s.pwr.events 7 true } }) ∧
  (∀ (s : State) (c : Instr) (k : Nat),
    (∃ w, c = .wakePin w ∧ w < 4 ∧ (s.pwr.wakeCfg.get {} w).enable = true ∧ k = w ∧ s.pwr.state ≠ .off) ∨
      (c = .sidebandWake ∧ s.pwr.wakeSideband = true ∧ k = 5) → s.die.inReset = false →
    (s.pwr.entry ≠ none → ∃ t, exec c s = .next t ∧ t = { s with pwr := t.pwr, ic := t.ic } ∧ t.pwr.entry = none ∧
      t.pwr.state = s.pwr.state ∧ t.pwr.step = 0 ∧ (∀ i, bit t.pwr.wakeCause i = decide (i = k)) ∧
      bit t.pwr.events 8 = true) ∧
    (s.pwr.entry = none → s.pwr.state = .doze ∨ s.pwr.state = .nap ∨ s.pwr.state = .hold →
      ∃ t, exec c s = .next t ∧ t.pwr.state = .run ∧ (∀ i, bit t.pwr.wakeCause i = decide (i = k)) ∧
        bit t.pwr.events 8 = true ∧ t.spl.retain = s.spl.retain ∧
        (s.pwr.state = .doze → t.mem = s.mem) ∧
        (s.pwr.state = .hold → t.l3c.cache.enabled = true ∧ t.l3c.cache.busy = false)) ∧
    (s.pwr.entry = none → s.pwr.state = .run → ∃ t, exec c s = .next t ∧ t = { s with ic := t.ic }))

/-! ### Repair and the service port -/

/-- Retest and return. A slot idle for 8 minutes is due; a segment runs on an idle core, the 64th ends the retest, a
fault that a spare covers takes the spare into the map, and any other fault quarantines the slot; the full test of a
quarantined slot returns it unless it is its third quarantine within 720 powered hours or no spare covers the fault,
and then retires the physical slot; the lowest spare one takes its place once it has passed the same test; a returned
slot rejoins only between its partition's commands; the map goes to its older copy in flash with the next sequence.
Where the manual's words leave a case to the reader it takes the model's own reading, in entries 61 and 82 of the
assumption log, which are no rule of the manual. -/
def Obligations.RetestsAndTheDarningMap : Prop :=
  (∀ (s : State) (k : Nat), s.retestUp = true → k ∈ s.liveSlots → s.darn.due.find k = none →
    ∃ t, exec (.retestDue k) s = .next t ∧ t = { s with cores := t.cores, darn := { s.darn with due := t.darn.due } } ∧
      t.darn.due.find k = some 0 ∧ 480 ≤ ((t.cores.get {} k : CoreSlot).idle.toNat) ∧
      ∀ j, j ≠ k → t.cores.get {} j = s.cores.get {} j ∧ t.darn.due.find j = s.darn.due.find j) ∧
  (∀ (s : State) (k n : Nat) (found : List SlotFault), s.retestUp = true → k ∈ s.liveSlots → s.coreIdle k = true →
    s.darn.due.find k = some n →
    (found = [] → n < 63 → ∃ t, exec (.retestSegment k found) s = .next t ∧ t.darn.due.find k = some (n + 1) ∧
      (t.cores.get {} k : CoreSlot).st = 2 ∧ t.darn.done = s.darn.done ∧ t.flt.quar = s.flt.quar ∧
      t.darn.entries = s.darn.entries) ∧
    (found = [] → 63 ≤ n → ∃ t, exec (.retestSegment k found) s = .next t ∧ t.darn.due.find k = none ∧
      (t.cores.get {} k : CoreSlot).st = 0 ∧ (t.cores.get {} k : CoreSlot).idle = 0 ∧
      t.darn.done = satAdd16 s.darn.done 1 ∧ t.flt.quar = s.flt.quar) ∧
    ((∃ f ∈ found, f = .unit ∨ f = .ray ∨ ∃ kind a r, f = .row kind a r) → exec (.retestSegment k found) s = .next (s.quarantine k)) ∧
    (∀ v lane, found = [.lane v lane] → v < 4 → lane < 16 →
      (bit (s.cores.get {} k : CoreSlot).lanes v = true → exec (.retestSegment k found) s = .next (s.quarantine k)) ∧
      (bit (s.cores.get {} k : CoreSlot).lanes v = false → s.darn.entries.length < 8188 →
        ∃ t, exec (.retestSegment k found) s = .next t ∧ bit (t.cores.get {} k : CoreSlot).lanes v = true ∧
          t.darn.entries = s.darn.entries ++
            [{ type := 3, c := k / 8, s := (s.cores.get {} k : CoreSlot).phys, u := v, index := lane }] ∧
          t.flt.quar = s.flt.quar))) ∧
  (∀ (s : State) (k : Nat), bit (s.quarantine k).flt.quar k = decide (k < 64) ∧
    ((s.quarantine k).cores.get {} k : CoreSlot).st = 1 ∧ (s.quarantine k).darn.due.find k = none ∧
    (s.quarantine k).darn.pending = true ∧ (s.quarantine k).die.capGen = s.die.capGen + 1) ∧
  (∀ (s : State) (k : Nat), s.retestUp = true → s.darn.due.find k ≠ none →
    ∃ t, exec (.retestOverdue k) s = .next t ∧ t.darn = { s.darn with overdue := satAdd16 s.darn.overdue 1 } ∧
      t = { s with cores := t.cores, darn := t.darn } ∧ ∀ j, j ≠ k → t.cores.get {} j = s.cores.get {} j) ∧
  (∀ (s : State) (k : Nat) (found : List SlotFault), s.t5Up = true → bit s.flt.quar k = true →
    s.darn.rejoin.find k = none →
    let ps := (s.cores.get {} k : CoreSlot).phys
    let n := (s.history (k / 8) ps).1 + 1
    (s.darn.slotFailed (k / 8) ps = false →
      (n < 3 → found = [] → ∃ t, exec (.quarantineSlotTest k found) s = .next t ∧
        t.darn.rejoin.find k = some (ps, false) ∧ (t.history (k / 8) ps).1 ≤ n ∧ t.darn.slotFailed (k / 8) ps = false) ∧
      (3 ≤ n ∨ SlotFault.unit ∈ found → ∃ t, exec (.quarantineSlotTest k found) s = .next t ∧
        t.darn.slotFailed (k / 8) ps = true ∧ bit t.flt.quar k = true ∧ t.darn.rejoin = s.darn.rejoin)) ∧
    (s.darn.slotFailed (k / 8) ps = true →
      (s.spareSlots (k / 8) = [] → exec (.quarantineSlotTest k found) s = .next s) ∧
      (∀ sp l, s.spareSlots (k / 8) = sp :: l →
        (found = [] → ∃ t, exec (.quarantineSlotTest k found) s = .next t ∧ t.darn.rejoin.find k = some (sp, true) ∧
          (t.cores.get {} k : CoreSlot).st = 4 ∧ bit t.flt.quar k = true ∧
          { type := 2, c := k / 8, s := k % 8, value := sp } ∈ t.darn.entries) ∧
        (SlotFault.unit ∈ found → ∃ t, exec (.quarantineSlotTest k found) s = .next t ∧
          t.darn.slotFailed (k / 8) sp = true ∧ t.darn.rejoin = s.darn.rejoin)))) ∧
  (∀ (s : State) (k : Nat) (ps : Nat) (remap : Bool), s.darn.rejoin.find k = some (ps, remap) →
    let back := exec (.slotRejoin k) s = .next (s.rejoin k)
    let holds := exec (.slotRejoin k) s = .next s
    (s.holderOf k = none → back) ∧
    (∀ p, s.holderOf k = some p → bit s.ptn.halted p = true → back) ∧
    (∀ p, s.holderOf k = some p → bit s.ptn.halted p = false → remap = true → holds) ∧
    (∀ p, s.holderOf k = some p → bit s.ptn.halted p = false → remap = false →
      (s.busyIn p ≠ [] ∨ s.ptn.apply ≠ none → holds) ∧ (s.busyIn p = [] → s.ptn.apply = none → back)) ∧
    bit (s.rejoin k).flt.quar k = false ∧ ((s.rejoin k).cores.get {} k : CoreSlot).phys = ps ∧
    ((s.rejoin k).cores.get {} k : CoreSlot).st = 0 ∧ (s.rejoin k).darn.rejoin.find k = none) ∧
  (∀ (s : State) (h : Nat), s.t5Up = true → s.die.stage = .finished →
    let a := olderCopy s.flash
    let written := fun (d : Darn) => { s with
      flash := (s.flash.zero a 0x10000).putBytes a (d.image (s.darn.seq + 1))
      darn := { d with seq := s.darn.seq + 1, pending := false } }
    (s.darn.pending = true → exec .darningMapWrite s = .next (written s.darn)) ∧
    (s.darn.pending = false → exec .darningMapWrite s = .next s) ∧
    (s.darn.hours ≤ h → exec (.poweredHoursWrite h) s = .next (written { s.darn with hours := h })) ∧
    (h < s.darn.hours → exec (.poweredHoursWrite h) s = .next s)) ∧
  (∀ flash : Mem, olderCopy flash = 0x10000 ∨ olderCopy flash = 0x20000)

/-- The common commands of the bus. Each clears what the last one returned; a directed one is refused by a die without
an address; lengths below 4112 are refused. Requests and responses. A request to a die without an address, or in Hold
other than WAKE, gets a NACK; any other replaces a response that was not read, and its response echoes the command and
the tag with the result, the payload's length and the payload, with the in-band interrupt 0x01 where it is enabled.
Where the manual's words leave a case to the reader it takes the model's own reading, in entries 93, 94 and 96 of the
assumption log, which are no rule of the manual. -/
def Obligations.ServiceBusAndRequests : Prop :=
  (∀ (s : State), s.svcUp = true →
     let x := { s.svc with reply := [], nack := false, ibis := [], hdr := false }
     let gives := fun (c : Instr) (y : Svc) => exec c s = .next { s with svc := y }
     (∀ a, s.svc.addr = none → gives (.entdaa a) { x with
       addr := some (BitVec.ofNat 7 a), reply := bigBytes 6 s.provisioned ++ [0x2E, 0x00] }) ∧
     (∀ a, s.svc.addr ≠ none → gives (.entdaa a) x) ∧
     gives .rstdaa { x with addr := none } ∧
     (∀ e, gives (.enec e) { x with ibiOn := x.ibiOn || bit e 0, hjOn := x.hjOn || bit e 3 } ∧
       gives (.disec e) { x with ibiOn := x.ibiOn && !bit e 0, hjOn := x.hjOn && !bit e 3 }) ∧
     (∀ (c : Instr) (r : List U8),
       (c = .getpid ∧ r = bigBytes 6 s.provisioned) ∨ (c = .getbcr ∧ r = [0x2E]) ∨ (c = .getdcr ∧ r = [0]) ∨
         (c = .getstatus ∧ r = [0, 0]) ∨ (c = .getmxds ∧ r = [0, 0]) ∨ (c = .getmwl ∧ r = bigBytes 2 s.svc.mwl.toNat) ∨
         (c = .getmrl ∧ r = bigBytes 2 s.svc.mrl.toNat ++ [1]) →
       (s.svc.addr ≠ none → gives c { x with reply := r }) ∧ (s.svc.addr = none → gives c { x with nack := true })) ∧
     (∀ v, (4112 ≤ v.toNat → gives (.setmwl v) { x with mwl := v } ∧ gives (.setmrl v) { x with mrl := v }) ∧
       (v.toNat < 4112 → gives (.setmwl v) { x with nack := true } ∧ gives (.setmrl v) { x with nack := true })) ∧
     gives .enthdr0 { x with hdr := true } ∧
     (∀ v, gives (.rstact v) { x with rstact := some v })) ∧
  ((∀ (s : State) (c : Instr), s.svcUp = true →
     (∃ t, c = .info t) ∨ (∃ t o, c = .readReg t o) ∨ (∃ t o v, c = .writeReg t o v) ∨ (∃ t n, c = .undefinedServiceCommand t n) ∨
       (∃ t n h, c = .uploadBegin t n h) ∨ (∃ t i d r, c = .uploadBlock t i d r) ∨ (∃ t, c = .uploadEnd t) ∨
       (∃ t, c = .uploadStatus t) ∨ (∃ t e p, c = .prepare t e p) ∨ (∃ t e p, c = .commit t e p) ∨
       (∃ t, c = .getPubkey t) ∨ (∃ t n, c = .attest t n) ∨ (∃ t, c = .makerChallenge t) ∨ (∃ t k, c = .makerEnter t k) →
     s.svc.addr = none ∨ s.pwr.state = .hold →
     exec c s = .next { s with svc := { s.svc with reply := [], nack := true, ibis := [], hdr := false } }) ∧
   (∀ (s : State) (cmd tag r : U8) (p : List U8), let t := s.respond cmd tag r p
     t.svc.response = some ([cmd, tag, r, 0] ++ toBytes 2 p.length ++ p) ∧ t.svc.result = r ∧
     t.svc.ibis = (if s.svc.ibiOn then s.svc.ibis ++ [1] else s.svc.ibis)) ∧
   (∀ (s : State), s.svcUp = true → s.svc.addr ≠ none →
     let x := { s.svc with reply := [], nack := false, ibis := [], hdr := false }
     exec .serviceResponseRead s = .next { s with svc := match s.svc.response with
       | none => { x with nack := true }
       | some r => { x with lastRead := r, response := none } }) ∧
   (∀ (s : State) (tag : U8), s.svcUp = true → s.svc.addr ≠ none →
     let u := { s with svc := { s.svc with reply := [], nack := false, ibis := [], hdr := false, response := none } }
     (s.pwr.wakeI3c = true → exec (.wake tag) s = .next ((u.wake 4).respond 0x03 tag 0x00 [])) ∧
     (s.pwr.wakeI3c = false → exec (.wake tag) s = .next (u.respond 0x03 tag 0x0B [])) ∧
     (s.pwr.state ≠ .hold →
       exec (.info tag) s = .next (u.respond 0x00 tag 0x00 u.infoBytes) ∧ u.infoBytes.length = 64 ∧
       (∀ off w v, u.readPort off = some (v, w) →
         exec (.readReg tag off) s = .next (w.respond 0x01 tag 0x00 (toBytes 4 v.toNat)) ∧ w = { u with det := w.det }) ∧
       (∀ off, u.readPort off = none → exec (.readReg tag off) s = .next (u.respond 0x01 tag 0x0B [])) ∧
       (∀ v, exec (.writeReg tag 0x90004 v) s = .next ((u.platformWrite v).respond 0x02 tag 0x00 [])) ∧
       (∀ off v, off ≠ 0x90004 → exec (.writeReg tag off v) s = .next (u.respond 0x02 tag 0x0B [])) ∧
       (∀ n, exec (.undefinedServiceCommand tag n) s = .next (u.respond n tag 0x01 [])))))

/-- Uploads and activation. UPLOAD_BEGIN erases the first sector of slot B and starts to receive; a block with a right
length, index and check joins the buffer and is programmed in its turn; UPLOAD_END verifies the slot when nothing is
missing. PREPARE takes a newer epoch whose units all acknowledge, COMMIT arms it in the activation record, and the
copy to slot A ends it. Where the manual's words leave a case to the reader it takes the model's own reading, in
entries 83, 87 and 94 of the assumption log, which are no rule of the manual. -/
def Obligations.UploadsAndActivation : Prop :=
  (∀ (s u : State) (tag : U8) (len handle : U32), Asks s u →
    let w := u.unprepare
    w.svc.act ≠ .prepared ∧ w.svc.upload = u.svc.upload ∧
    (w.slotBHeld = true → exec (.uploadBegin tag len handle) s = .next (w.respond 0x10 tag 0x03 [])) ∧
    (w.slotBHeld = false → len = 0 ∨ len.toNat % 4096 ≠ 0 ∨ 28 * 2 ^ 20 < len.toNat →
      exec (.uploadBegin tag len handle) s = .next (w.respond 0x10 tag 0x01 [])) ∧
    (w.slotBHeld = false → len ≠ 0 → len.toNat % 4096 = 0 → len.toNat ≤ 28 * 2 ^ 20 →
      ∃ t : State, exec (.uploadBegin tag len handle) s = .next (t.respond 0x10 tag 0x00 []) ∧
        t.svc = { w.svc with
          upload := .receiving, reason := 0, length := len.toNat, handle := handle, received := [], buffer := [] } ∧
        (u.flash.wf = true → ∀ a, t.flash.byte a =
          if 0x1D00000 ≤ a ∧ a < 0x1D00000 + 4096 then 0xFF else u.flash.byte a))) ∧
  (∀ (s u : State) (tag : U8) (i : Nat) (data : List U8) (crc : U32), Asks s u →
    let w := u.unprepare
    let x := w.svc
    let answers := fun (r : U8) => exec (.uploadBlock tag i data crc) s = .next (w.respond 0x11 tag r [])
    (x.upload = .aborted → answers 0x09) ∧ (x.upload = .suspended → answers 0x08) ∧
    (x.upload ≠ .aborted → x.upload ≠ .suspended → x.upload ≠ .receiving → answers 0x04) ∧
    (x.upload = .receiving →
      (data.length ≠ 4096 ∨ x.length / 4096 ≤ i → answers 0x01) ∧
      (data.length = 4096 → i < x.length / 4096 →
        (crc32c data ≠ crc → answers 0x02) ∧ (crc32c data = crc → 16 ≤ x.buffer.length → answers 0x03) ∧
        (crc32c data = crc → x.buffer.length < 16 →
          ∃ t : State, exec (.uploadBlock tag i data crc) s = .next (t.respond 0x11 tag 0x00 []) ∧
            t = { w with svc := { x with received := t.svc.received, buffer := x.buffer ++ [(i, data)] } } ∧
            i ∈ t.svc.received ∧ ∀ j, j ≠ i → (j ∈ t.svc.received ↔ j ∈ x.received))))) ∧
  (∀ (s : State) (i : Nat) (b : List U8) (r : List (Nat × List U8)), s.thimbleUp 0 = true → s.svc.buffer = (i, b) :: r →
    exec .sectorProgrammed s = .next
      { s with flash := s.flash.putBytes (0x1D00000 + 4096 * i) b, svc := { s.svc with buffer := r } }) ∧
  (∀ (s u : State) (tag : U8), Asks s u →
    let answers := fun (t : State) (r : U8) (p : List U8) => exec (.uploadEnd tag) s = .next (t.respond 0x12 tag r p)
    let w := u.programAll
    let n := w.verifySlot 0x1D00000 (w.packageDies (manifest w.flash 0x1D00000)) (some u.svc.length)
    (u.svc.upload = .aborted → answers u 0x09 []) ∧ (u.svc.upload = .suspended → answers u 0x08 []) ∧
    (u.svc.upload = .receiving →
      (u.svc.received.length < u.svc.length / 4096 → answers w 0x04 []) ∧
      (u.svc.length / 4096 ≤ u.svc.received.length →
        (n = 0 → ∃ t, answers t 0x00 [0, 0, 0, 0] ∧ t.svc.upload = .complete ∧ bit t.svc.events 0 = true ∧ t.flash = w.flash) ∧
        (n ≠ 0 → ∃ t, answers t 0x05 [BitVec.ofNat 8 n, 0, 0, 0] ∧ t.svc.upload = .failed ∧ t.svc.reason = BitVec.ofNat 3 n ∧
          bit t.svc.events 1 = true ∧ t.flash = w.flash))) ∧
    (u.svc.upload ≠ .aborted → exec (.uploadStatus tag) s = .next
      (u.respond 0x13 tag 0x00 (toBytes 4 u.svc.received.length ++ toBytes 4 u.svc.missing)))) ∧
  (∀ (s u : State) (tag : U8) (e : U32) (f : Option FollowerAnswer), Asks s u →
    let m := manifest u.flash 0x1D00000
    let answers := fun (t : State) (r : U8) (p : List U8) => exec (.prepare tag e f) s = .next (t.respond 0x20 tag r p)
    (u.leader = false ∨ u.svc.upload ≠ .complete → answers u 0x04 []) ∧
    (u.leader = true → u.svc.upload = .complete → u.slotBHeld = false →
      (e.toNat ≠ imgEpoch m ∨ e.toNat ≤ u.svc.activeEpoch.toNat → answers u 0x06 []) ∧
      (e.toNat = imgEpoch m → u.svc.activeEpoch.toNat < e.toNat →
        (imgDies m = 2 → u.seamInUse = false ∨ f = none → answers u 0x07 []) ∧
        (∀ a, imgDies m = 2 → u.seamInUse = true → f = some a →
          (e.toNat ≤ a.active.toNat → answers u 0x06 []) ∧
          (a.active.toNat < e.toNat → a.matched = false → answers u 0x07 []) ∧
          (a.active.toNat < e.toNat → a.matched = true →
            ((∀ n, n < 4 → u.unitAccepts n = true ∧ bit a.units n = true) →
              ∃ t, answers t 0x00 [0xFF] ∧ t.svc.act = .prepared ∧ t.svc.preparedEpoch = e ∧ bit t.svc.events 2 = true) ∧
            ((∃ n, n < 4 ∧ (u.unitAccepts n = false ∨ bit a.units n = false)) →
              ∃ t mask, answers t 0x05 [mask] ∧ t.svc.act ≠ .prepared ∧ t.svc.ackMask = mask ∧
                ∀ n, n < 4 → bit mask n = u.unitAccepts n ∧ bit mask (4 + n) = bit a.units n))) ∧
        (imgDies m = 1 → (∀ n, n < 4 → u.unitAccepts n = true) →
          ∃ t, answers t 0x00 [0x0F] ∧ t.svc.act = .prepared ∧ t.svc.preparedEpoch = e ∧ bit t.svc.events 2 = true) ∧
        (imgDies m = 1 → (∃ n, n < 4 ∧ u.unitAccepts n = false) →
          ∃ t mask, answers t 0x05 [mask] ∧ t.svc.act ≠ .prepared ∧ t.svc.ackMask = mask ∧
            ∀ n, n < 4 → bit mask n = u.unitAccepts n)))) ∧
  (∀ (s u : State) (tag : U8) (e : U32) (f : FollowerCommit), Asks s u →
    let m := manifest u.flash 0x1D00000
    let answers := fun (t : State) (r : U8) => exec (.commit tag e f) s = .next (t.respond 0x21 tag r [])
    (u.leader = false ∨ u.svc.act ≠ .prepared ∨ u.svc.preparedEpoch ≠ e → answers u 0x04) ∧
    (u.leader = true → u.svc.act = .prepared → u.svc.preparedEpoch = e →
      (imgDies m = 2 → u.seamInUse = false ∨ f = .lost → answers u 0x07) ∧
      (imgDies m = 2 → u.seamInUse = true → f = .unprepared → answers u 0x04) ∧
      (imgDies m ≠ 2 ∨ (u.seamInUse = true ∧ f = .acknowledged) →
        ∃ t, answers t 0x00 ∧ t.svc.act = .armed ∧ t.svc.armedEpoch = e ∧ bit t.svc.events 3 = true ∧
          t.flash = (u.writeAct
            { active := u.svc.activeEpoch.toNat, armed := e.toNat, dies := imgDies m, state := 2
              digest := imgDigest m }).flash))) ∧
  (∀ s : State, s.svc.act = .copying → s.die.stage = .finished → s.thimbleUp 0 = true →
    let m := manifest s.flash 0x1D00000
    let w := { s with flash :=
      (s.flash.zero 0x100000 (imgLength m)).putBytes 0x100000 (s.flash.bytes 0x1D00000 (imgLength m)) }
    (w.verifySlot 0x100000 (imgDies m) none ≠ 0 → exec .slotBCopy s = .next w) ∧
    (w.verifySlot 0x100000 (imgDies m) none = 0 →
      ∃ t, exec .slotBCopy s = .next t ∧ t.svc.act = .none ∧ t.svc.activeEpoch = BitVec.ofNat 32 (imgEpoch m) ∧
        t.svc.armedEpoch = 0 ∧ bit t.svc.events 4 = true ∧
        t.flash = (w.writeAct
          { active := imgEpoch m, armed := 0, dies := imgDies m, state := 0, digest := imgDigest m }).flash))

/-- Attestation uses each index once and reserves before it signs; a maker challenge is used once, and only a token
that meets every check enters a maker mode, in which no context runs and no block is resident. Where the manual's
words leave a case to the reader it takes the model's own reading, in entries 84, 85, 86 and 94 of the assumption log,
which are no rule of the manual. -/
def Obligations.AttestationAndMakerModes : Prop :=
  (∀ (s u : State) (tag : U8), Asks s u → exec (.getPubkey tag) s = .next (u.respond 0x30 tag 0x00 hssKey) ∧
    hssKey.length = 60) ∧
  (∀ (s u : State) (tag : U8) (nonce : List U8), Asks s u →
    (nonce.length ≠ 32 → exec (.attest tag nonce) s = .next (u.respond 0x31 tag 0x01 [])) ∧
    (nonce.length = 32 → 2 ^ 20 ≤ u.svc.next → exec (.attest tag nonce) s = .next (u.respond 0x31 tag 0x0A [])) ∧
    (nonce.length = 32 → u.svc.next < 2 ^ 20 →
      ∃ (t : State) (r : List U8), exec (.attest tag nonce) s = .next (t.respond 0x31 tag 0x00 r) ∧ r.length = 128 + 2964 ∧
        (r.drop 32).take 32 = nonce ∧ t.svc.next = u.svc.next + 1 ∧
        (u.svc.next = u.svc.limit → t.svc.limit = u.svc.limit + 64 ∧
          t.flash = (u.writeLimit (u.svc.limit + 64)).flash) ∧
        (u.svc.next ≠ u.svc.limit → t.svc.limit = u.svc.limit ∧ t.flash = u.flash) ∧
        (2 ^ 20 - t.svc.next < 65536 → bit t.svc.events 6 = true))) ∧
  (∀ (s u : State) (tag : U8), Asks s u →
    ∃ (t : State) (c : List U8), exec (.makerChallenge tag) s = .next (t.respond 0x40 tag 0x00 c) ∧ c.length = 32 ∧
      t.svc.challenge = some c ∧ c = toBytes 32 (Config.free s.freeCtr)) ∧
  (∀ (s u : State) (tag : U8) (k : List U8), Asks s u →
    let w := { u with svc := { u.svc with challenge := none } }
    (u.tokenOk k = false → exec (.makerEnter tag k) s = .next (w.respond 0x41 tag 0x0B [])) ∧
    (u.tokenOk k = true → u.ctxs.keys.Nodup → ∃ t : State, exec (.makerEnter tag k) s = .next (t.respond 0x41 tag 0x00 []) ∧
      t.svc.challenge = none ∧ t.die.makerMode = BitVec.ofNat 8 (field k 4 1) ∧ bit t.svc.events 5 = true ∧
      t.blocks = [] ∧ t.groups = [] ∧ (∀ e ∈ t.ctxs, e.2.state ≠ .running ∧ e.2.state ≠ .faultWait)))

/-! ### Links, channels and registers -/

/-- A link that retries do not recover retrains and is reported; one that has not retrained is lost and restarts the
front end; the host link's return lets dispatch go on. Seam flits. A flit with a wrong check is counted and asked for
again; one in sequence advances the expected number, and the 64th since the last acknowledgement is acknowledged; one
that lies ahead is asked for, one that repeats is dropped; an acknowledgement drops what it covers, and a retry
request is answered from the replay buffer. Where the manual's words leave a case to the reader it takes the model's
own reading, in entry 90 of the assumption log, which is no rule of the manual. -/
def Obligations.LinksAndSeamFlits : Prop :=
  ((∀ (s : State) (l : Link), s.die.inReset = false → s.linkIn l 2 = true →
     ∃ t, exec (.linkRetrain l) s = .next t ∧
       (∀ m, m ∈ linkModules l → (s.module m).rate ≠ 0 →
         t.module m = { s.module m with state := 1, retrains := satAdd16 (s.module m).retrains 1 }) ∧
       (∀ m, m ∉ linkModules l → t.module m = s.module m) ∧
       bit t.slk.events 0 = true ∧ bit t.flt.events 7 = true ∧ t.ctxs = s.ctxs ∧ t.jobs = s.jobs) ∧
   (∀ (s : State) (l : Link) (now : Nat), s.die.inReset = false → s.linkIn l 1 = true →
     let u := ((s.updLink l (fun x => { x with state := 3 })).slkEvent 1).linkRecord l true
     (l = .host → exec (.linkLost l now) s = .next (u.restart .hostLost now)) ∧
     (l = .seam → exec (.linkLost l now) s = .next (State.rewriteCaps
       { u.restart .seamLost now with die := { (u.restart .seamLost now).die with partnerLost := true } })) ∧
     (∀ m, m ∈ linkModules l → (s.module m).rate ≠ 0 → (u.module m).state = 3) ∧ bit u.slk.events 1 = true ∧
     bit u.flt.events 7 = true) ∧
   (∀ (s : State) (l : Link) (now : Nat), s.die.inReset = false →
     s.linkIn l 1 = true ∨ (l = .host ∧ s.linkIn l 3 = true) →
     ∃ t : State, exec (.linkRetrained l now) s = .next t.settleSleep ∧ (s.pwr.entry = none → t.settleSleep = t) ∧
       t = { s with slk := t.slk, fe := t.fe } ∧
       (∀ m, t.module m = if m ∈ linkModules l ∧ (s.module m).rate ≠ 0 then { s.module m with state := 2 } else s.module m) ∧
       (l = .host → t.fe = { s.fe with awaitHost := false }) ∧ (l = .seam → t.fe = s.fe))) ∧
  (∀ (s : State) (f : SeamFlit), s.die.inReset = false → s.slk.level ≠ 0 → s.linkIn .seam 2 = true →
     let good := f.crc = crc32c (flitCovered f)
     let k := s.slk
     let kept := k.replay.filter (fun x => decide ((f.ack - x.seq).toNat ≥ 2048))
     (¬ good → ∃ t, exec (.seamFlitReceive f) s = .next t ∧
       (t.module 2).crcErrors = satAdd32 (s.module 2).crcErrors 1 ∧ t.slk.expected = k.expected ∧ t.slk.replay = k.replay ∧
       t.slk.delivered = k.delivered ∧ t.slk.sent = [flitSealed
         { seq := k.expected, kind := 3, ack := k.expected - 1, messages := List.replicate 248 0, crc := 0 }] ∧
       (k.attempts < 15 → t.slk.attempts = k.attempts + 1) ∧ (15 ≤ k.attempts → t.slk.attempts = 0 ∧
         bit t.slk.events 0 = true)) ∧
     (good → f.kind = 0 ∨ f.kind = 1 → f.seq = k.expected → ∃ t, exec (.seamFlitReceive f) s = .next t ∧
       t.slk.expected = k.expected + 1 ∧ t.slk.attempts = 0 ∧ t.slk.replay = kept ∧
       (f.kind = 1 → t.slk.delivered = k.delivered ∧ t.slk.part = k.part) ∧
       (k.unacked < 63 → t.slk.unacked = k.unacked + 1 ∧ t.slk.sent = []) ∧
       (63 ≤ k.unacked → t.slk.unacked = 0 ∧ ∃ n, t.slk.sent = [flitSealed
         { seq := n, kind := 2, ack := k.expected, messages := List.replicate 248 0, crc := 0 }])) ∧
     (good → f.kind = 0 ∨ f.kind = 1 → f.seq ≠ k.expected → ∃ t, exec (.seamFlitReceive f) s = .next t ∧
       t.slk.expected = k.expected ∧ t.slk.delivered = k.delivered ∧ t.slk.replay = kept ∧
       (2048 ≤ (f.seq - k.expected).toNat → t.slk.sent = [] ∧ t.slk.attempts = k.attempts) ∧
       ((f.seq - k.expected).toNat < 2048 → t.slk.sent = [flitSealed
         { seq := k.expected, kind := 3, ack := k.expected - 1, messages := List.replicate 248 0, crc := 0 }])) ∧
     (good → f.kind = 2 → exec (.seamFlitReceive f) s = .next { s with slk := { k with sent := [], replay := kept } }) ∧
     (good → f.kind = 3 → ∃ t, exec (.seamFlitReceive f) s = .next t ∧ t = { s with slk := t.slk } ∧ t.slk.replay = kept ∧
       t.slk.sent = kept.filter (fun x => decide ((x.seq - f.seq).toNat < 2048)) ∧
       (t.module 2).retries = satAdd32 (s.module 2).retries t.slk.sent.length ∧ t.slk.expected = k.expected))

/-- The host over CXL. A read of a usable line answers its bytes and changes no memory; a write stores its bytes and,
where no anchored add waits on the line, nothing else; a line that no cache holds is charged to its owner; a snoop
answers a host line. Refresh stalls are counted in their channel; refresh reports are read, and a shorter interval
than the nominal one sets DERATE; a scrub counts what it corrects and records what it cannot. The test access port's
instructions select their data register, and EXTEST and CLAMP are taken only while DIE_RST_N is low. Where the
manual's words leave a case to the reader it takes the model's own reading, in entries 91, 92, 95 and 99 of the
assumption log, which are no rule of the manual. -/
def Obligations.HostMemoryChannelsAndTestAccess : Prop :=
  ((∀ (s : State) (a : Nat), s.memUp = true →
     let line := a / 64 * 64
     let p := s.partOf line
     line + 64 ≤ s.capacity → s.failing line 64 = false →
     ∃ t, exec (.cxlMemAccess (.read a false)) s = .next t ∧ t.mem = s.mem ∧ t.mc.damaged = false ∧
       t.mc.answer = s.mem.bytes line 64 ∧
       t = { s with mc := t.mc, lines := t.lines, ptn := { s.ptn with credit := t.ptn.credit }
                    l3c := { s.l3c with hot := t.l3c.hot } } ∧
       (s.l3c.cache.enabled = false → s.holders line = [] →
         t.ptn.credit.get 0 (8 * p) = s.ptn.credit.get 0 (8 * p) - 64)) ∧
   (∀ (s : State) (a : Nat) (d : Bool), s.memUp = true → a / 64 * 64 + 64 ≤ s.capacity →
     d = true ∨ s.failing (a / 64 * 64) 64 = true →
     ∃ t, exec (.cxlMemAccess (.read a d)) s = .next t ∧ t.mc.answer = [] ∧ t.mc.damaged = true ∧
       bit t.mc.events 1 = true) ∧
   (∀ (s : State) (a : Nat) (bs : List U8), s.memUp = true → bs ≠ [] → bs.length ≤ 64 - a % 64 →
     a + bs.length ≤ s.capacity → s.failingPart a bs.length = false → s.mem.wf = true →
     (∀ d ∈ s.deltas, d.pa / 128 ≠ a / 128) →
     ∃ t, exec (.cxlMemAccess (.write a bs)) s = .next t ∧
       (∀ b, t.mem.byte b = if a ≤ b ∧ b < a + bs.length then bs.getD (b - a) 0 else s.mem.byte b) ∧
       t.ctxs = s.ctxs ∧ t.jobs = s.jobs ∧ t.deltas = s.deltas ∧
       (s.l3c.cache.enabled = false → s.holders a = [] →
         t.ptn.credit.get 0 (8 * s.partOf a) = s.ptn.credit.get 0 (8 * s.partOf a) - bs.length)) ∧
   (∀ (s : State) (a : Nat) (inv : Bool), s.memUp = true →
     let line := 2 ^ 51 + a % 2 ^ 50 / 64 * 64
     let u := s.l2Others (s.partOf line) 8 none line inv
     exec (.cxlCacheSnoop a inv) s = .next { u with mc := { u.mc with damaged := false, answer := u.mem.bytes line 64 } } ∧
     (inv = false ∨ s.deltas = [] → u.mem = s.mem) ∧ u.ctxs = s.ctxs ∧ u.jobs = s.jobs)) ∧
  ((∀ (s : State) (c n : Nat), s.feUp = true → c < 16 →
     ∃ t, exec (.dramRefresh c n) s = .next t ∧ t = { s with mc := { s.mc with channels := t.mc.channels } } ∧
       ∀ d, (t.mc.channels.get {} d : Channel) = if d = c
         then { s.mc.channels.get {} c with stalls := satAdd64 (s.mc.channels.get {} c : Channel).stalls n }
         else s.mc.channels.get {} d) ∧
   (∀ (s : State) (rs : List Nat), s.feUp = true → rs.length = 16 → (∀ r ∈ rs, r < 8) →
     ∃ t, exec (.refreshRateRead rs) s = .next t ∧
       t = { s with mc := { s.mc with channels := t.mc.channels, events := t.mc.events } } ∧
       (∀ c, c < 16 → (t.mc.channels.get {} c : Channel).rate.toNat = rs.getD c 0) ∧
       ((∃ r ∈ rs, 3 < r) → bit t.mc.events 3 = true) ∧ ((∀ r ∈ rs, r ≤ 3) → t.mc.events = s.mc.events)) ∧
   (∀ s : State, s.memUp = true → s.mc.scrub = true → s.die.inlineEcc = true →
     exec (.dramScrub []) s = .next { s with mc := { s.mc with events := setBit s.mc.events 4 true } } ∧
     (∀ e : DramError, e.addr < s.capacity → e.corrected = true →
       ∃ t, exec (.dramScrub [e]) s = .next t ∧ t.mem = s.mem ∧ bit t.mc.events 0 = true ∧ bit t.mc.events 4 = true ∧
         bit t.flt.events 6 = true ∧ (t.mc.channels.get {} (dramChannel e.addr) : Channel).ce =
           satAdd32 (s.mc.channels.get {} (dramChannel e.addr) : Channel).ce 1) ∧
     (∀ e : DramError, e.addr < s.capacity → e.corrected = false →
       ∃ t, exec (.dramScrub [e]) s = .next t ∧ bit t.mc.events 1 = true ∧ bit t.mc.events 4 = true ∧
         e.addr / 128 ∈ t.flt.failing ∧ (t.mc.channels.get {} (dramChannel e.addr) : Channel).ue =
           satAdd32 (s.mc.channels.get {} (dramChannel e.addr) : Channel).ue 1)) ∧
   (∀ s : State,
     exec .bypass s = .next { s with jtag := { instr := .bypass, data := 0 } } ∧
     exec .idcode s = .next { s with jtag := { instr := .idcode, data := 0x1090BB47 } } ∧
     exec .highz s = .next { s with jtag := { instr := .highz, data := 0 } } ∧
     (∃ d, exec .samplePreload s = .next
       { s with freeCtr := s.freeCtr + 1, jtag := { instr := .samplePreload, data := d } }) ∧
     (s.die.pinLow = true → (∃ d, exec .extest s = .next
         { s with freeCtr := s.freeCtr + 1, jtag := { instr := .extest, data := d } }) ∧
       exec .clamp s = .next { s with jtag := { instr := .clamp, data := 0 } }) ∧
     (s.die.pinLow = false → exec .extest s = .next s ∧ exec .clamp s = .next s)))

/-- Writes to registers that have no command of their own: a narrow or unaligned one is dropped, the events of each
block are cleared by ones, values that a field does not take are replaced, the doorbell pages ring their queue, those
of a VF its partition's alone, and the aperture writes local DRAM. Where the manual's words leave a case to the reader
it takes the model's own reading, in entry 12 of the assumption log, which is no rule of the manual. -/
def Obligations.RegisterWrites : Prop :=
  (∀ (s : State) (bar off size : Nat) (v : U32), size ≠ 4 ∨ off % 4 ≠ 0 →
    exec (.registerWrite bar off size v) s = .next s) ∧
  (∀ (s : State) (off : Nat) (v : U32), off % 4 = 0 → off / 0x10000 ≠ 9 → off / 0x10000 ≠ 10 →
    (s.hostWake false).feUp = true →
    exec (.registerWrite 0 off 4 v) s = .next ((s.hostWake false).writeBar0 off v)) ∧
  (∀ (s : State) (off : Nat) (v : U32), off % 4 = 0 → off / 0x10000 = 9 ∨ off / 0x10000 = 10 → s.feUp = true →
    exec (.registerWrite 0 off 4 v) s = .next (s.writeBar0 off v)) ∧
  (∀ (s : State) (v : U32), let clears := fun {w : Nat} (m n : BitVec w) => ∀ i, bit n i = (bit m i && !bit v i)
    clears s.ptn.events (s.writeBar0 0x10024 v).ptn.events ∧ clears s.fe.events (s.writeBar0 0x20048 v).fe.events ∧
    (s.leader = true → clears s.flt.events (s.writeBar0 0x40004 v).flt.events) ∧
    clears s.mmu.events (s.writeBar0 0x50024 v).mmu.events ∧ clears s.l3c.events (s.writeBar0 0x6000C v).l3c.events ∧
    clears s.spl.events (s.writeBar0 0x70010 v).spl.events ∧ clears s.cmp.events (s.writeBar0 0x80008 v).cmp.events ∧
    clears s.pwr.events (s.writeBar0 0x90038 v).pwr.events ∧ clears s.dsp.events (s.writeBar0 0xA001C v).dsp.events ∧
    clears s.svc.events (s.writeBar0 0xC0028 v).svc.events ∧ clears s.slk.events (s.writeBar0 0xD0004 v).slk.events ∧
    clears s.mc.events (s.writeBar0 0xE0008 v).mc.events) ∧
  (∀ (s : State) (v : U32), let t := (s.writeBar0 0x9003C v).pwr
    60 ≤ t.throttle.toNat ∧ t.throttle.toNat ≤ 105 ∧ 60 ≤ t.alertAt.toNat ∧ t.alertAt.toNat ≤ 108 ∧ 1 ≤ t.hyst.toNat) ∧
  (∀ (s : State) (q : Nat) (v : U32),
    exec (.registerWrite 2 (0x1000 * q) 4 v) s = exec (.sqWrite q v) s ∧
    exec (.registerWrite 2 (0x1000 * q + 4) 4 v) s = exec (.cqRead q v) s ∧
    (∀ n, n < 16 →
      let x := s.part n
      (s.onVf n = true → s.leader = true → q < x.qCount.toNat →
        exec (.registerWrite (32 + n) (0x1000 * q) 4 v) s = exec (.sqWrite (x.qFirst.toNat + q) v) s ∧
        exec (.registerWrite (32 + n) (0x1000 * q + 4) 4 v) s = exec (.cqRead (x.qFirst.toNat + q) v) s) ∧
      (s.onVf n = false ∨ s.leader = false ∨ x.qCount.toNat ≤ q →
        exec (.registerWrite (32 + n) (0x1000 * q) 4 v) s = .next s))) ∧
  (∀ (s : State) (off : Nat) (v : U32), off % 4 = 0 → s.memUp = true →
    let a := s.die.aperture.toNat * 2 ^ 28 + off % 2 ^ 28
    a + 4 ≤ s.capacity → s.failingPart a 4 = false → s.mem.wf = true → (∀ d ∈ s.deltas, d.pa / 128 ≠ a / 128) →
    ∃ t, exec (.registerWrite 4 off 4 v) s = .next t ∧
      (∀ b, t.mem.byte b = if a ≤ b ∧ b < a + 4 then BitVec.ofNat 8 (v.toNat / 256 ^ (b - a)) else s.mem.byte b) ∧
      t.ctxs = s.ctxs ∧ t.jobs = s.jobs) ∧
  (∀ (s : State) (v : U32), (s.hostWake false).feUp = true →
    let u := s.hostWake false
    ((v.toNat % 256 + 1) * 2 ^ 28 ≤ u.die.dramMib * 2 ^ 20 → exec (.idApertureWrite v) s =
      .next { u with die := { u.die with aperture := v.truncate 8 } }) ∧
    (u.die.dramMib * 2 ^ 20 < (v.toNat % 256 + 1) * 2 ^ 28 → exec (.idApertureWrite v) s = .next u))
end

