-- ==== Sys2Proof/Laws/Bytes.lean ====
section
/-! SUPPORT. Numbers as little-endian bytes, and a command's reads of its ranges. -/

namespace Sys2Proof.Machine

open Sys2Proof

/-- A byte string of `n` bytes is below 256^n. -/
theorem ofBytes_lt (bs : List U8) : ofBytes bs < 256 ^ bs.length := by
  induction bs with
  | nil => simp [ofBytes]
  | cons b bs ih =>
    have := b.isLt
    rw [List.length_cons, Nat.pow_succ, ofBytes]
    omega

/-- A number that fits its bytes reads back. -/
theorem ofBytes_toBytes (n v : Nat) (h : v < 256 ^ n) : ofBytes (toBytes n v) = v := by
  induction n generalizing v with
  | zero => simp at h; subst h; rfl
  | succ n ih =>
    rw [Nat.pow_succ] at h
    rw [toBytes, ofBytes, ih _ (by omega), BitVec.toNat_ofNat]
    omega

/-- Reads that pass the selvedge and meet no failing line go on in the same state (R37, R310). -/
theorem readRanges_goes {s : State} {c : Nat} {rs : List (Nat × Nat)}
    (h : rs.findSome? (fun r => s.physFail c r.1 r.2 false) = none) (k : State → State) : s.readRanges c rs k = k s := by
  simp only [State.readRanges, h]

end Sys2Proof.Machine
end

