-- ==== Sys2Proof/Laws/Memory.lean ====
section
/-! SUPPORT. The canonical form of memory: every operation keeps it, and what a byte reads as after one. -/

namespace Sys2Proof.Machine

open Sys2Proof

/-- The first listed address of a memory in canonical form lies above `a`. -/
def Mem.above (a : Nat) : Mem → Prop
  | [] => True
  | (b, _) :: _ => a < b

theorem Mem.wf_cons {a : Nat} {v : U8} {m : Mem} :
    Mem.wf ((a, v) :: m) = true ↔ v ≠ 0 ∧ Mem.above a m ∧ Mem.wf m = true := by
  cases m with
  | nil => simp [Mem.wf, Mem.above]
  | cons c m => obtain ⟨b, w⟩ := c; simp [Mem.wf, Mem.above, and_assoc]

theorem Mem.byte_above {a : Nat} {m : Mem} (w : m.wf = true) : ∀ {b}, Mem.above b m → a ≤ b → m.byte a = 0 := by
  intro b h hab
  cases m with
  | nil => rfl
  | cons c m =>
    obtain ⟨j, v⟩ := c
    simp only [Mem.above] at h
    have : j ≠ a := by omega
    have : a < j := by omega
    simp [Mem.byte, *]

theorem Mem.above_put {a b : Nat} {v : U8} {m : Mem} (h : Mem.above a m) (hw : m.wf = true) (hab : a < b) :
    Mem.above a (m.put b v) := by
  cases m with
  | nil => simp only [Mem.put]; split <;> simp [Mem.above, hab]
  | cons c m =>
    obtain ⟨j, w⟩ := c
    simp only [Mem.above] at h
    simp only [Mem.put]
    rw [Mem.wf_cons] at hw
    split
    · split <;> simp [Mem.above, *]
    · split
      · split
        · cases m with
          | nil => trivial
          | cons c m =>
            obtain ⟨k, x⟩ := c
            have := hw.2.1
            simp only [Mem.above] at this ⊢
            omega
        · simp [Mem.above, hab]
      · simp [Mem.above, h]

/-- A write of one byte keeps the canonical form. -/
theorem Mem.wf_put (m : Mem) (a : Nat) (v : U8) (h : m.wf = true) : (m.put a v).wf = true := by
  induction m with
  | nil => simp only [Mem.put]; split <;> simp_all [Mem.wf]
  | cons c m ih =>
    obtain ⟨j, w⟩ := c
    have h' := Mem.wf_cons.1 h
    simp only [Mem.put]
    split
    · split
      · exact h
      · exact Mem.wf_cons.2 ⟨by assumption, by simp [Mem.above, *], h⟩
    · split
      · split
        · exact h'.2.2
        · subst_vars; exact Mem.wf_cons.2 ⟨by assumption, h'.2.1, h'.2.2⟩
      · exact Mem.wf_cons.2 ⟨h'.1, Mem.above_put h'.2.1 h'.2.2 (by omega), ih h'.2.2⟩

/-- What a byte reads as after a write of one byte. -/
theorem Mem.byte_put (m : Mem) (a b : Nat) (v : U8) (h : m.wf = true) :
    (m.put a v).byte b = if b = a then v else m.byte b := by
  induction m with
  | nil =>
    simp only [Mem.put]
    by_cases hv : v = 0
    · simp [hv, Mem.byte]
    · simp only [hv, if_false, Mem.byte]
      by_cases hb : b = a
      · simp [hb]
      · have : a ≠ b := fun x => hb x.symm
        simp [hb, this]
  | cons c m ih =>
    obtain ⟨j, w⟩ := c
    have h' := Mem.wf_cons.1 h
    simp only [Mem.put]
    split
    · rename_i haj
      split
      · rename_i hv
        by_cases hb : b = a
        · subst hb; have : j ≠ b := by omega
          simp [Mem.byte, this, haj, hv]
        · simp [hb]
      · by_cases hb : b = a
        · subst hb; simp [Mem.byte]
        · have hab : a ≠ b := fun x => hb x.symm
          by_cases hlt : b < a
          · have h1 : j ≠ b := by omega
            have h2 : b < j := by omega
            simp [Mem.byte, hb, hab, hlt, h1, h2]
          · simp [Mem.byte, hb, hab, hlt]
    · split
      · rename_i haj
        subst haj
        split
        · rename_i hv
          by_cases hb : b = a
          · subst hb; simp [Mem.byte_above h'.2.2 h'.2.1 (Nat.le_refl b), hv]
          · have hab : a ≠ b := fun x => hb x.symm
            by_cases hlt : b < a
            · simp [Mem.byte, hb, hab, hlt, Mem.byte_above h'.2.2 h'.2.1 (Nat.le_of_lt hlt)]
            · simp [Mem.byte, hb, hab, hlt]
        · by_cases hb : b = a
          · subst hb; simp [Mem.byte]
          · have hab : a ≠ b := fun x => hb x.symm
            simp [Mem.byte, hb, hab]
      · by_cases hb : b = j
        · subst hb
          have : ¬ b = a := by omega
          simp [Mem.byte, this]
        · have hjb : j ≠ b := fun x => hb x.symm
          by_cases hlt : b < j
          · have : ¬ b = a := by omega
            simp [Mem.byte, hjb, hlt, this]
          · simp [Mem.byte, hjb, hlt, ih h'.2.2]

/-- A write of bytes keeps the canonical form. -/
theorem Mem.wf_putBytes (bs : List U8) : ∀ (m : Mem) (a : Nat), m.wf = true → (m.putBytes a bs).wf = true := by
  induction bs with
  | nil => intro m a h; exact h
  | cons b bs ih => intro m a h; exact ih _ _ (Mem.wf_put m a b h)

/-- What a byte reads as after a write of bytes. -/
theorem Mem.byte_putBytes (bs : List U8) : ∀ (m : Mem) (a b : Nat), m.wf = true →
    (m.putBytes a bs).byte b = if a ≤ b ∧ b < a + bs.length then bs.getD (b - a) 0 else m.byte b := by
  induction bs with
  | nil => intro m a b h; simp only [Mem.putBytes, List.length_nil]; rw [if_neg (by omega)]
  | cons v bs ih =>
    intro m a b h
    simp only [Mem.putBytes, List.length_cons]
    rw [ih _ _ _ (Mem.wf_put m a v h), Mem.byte_put _ _ _ _ h]
    by_cases hab : b = a
    · subst hab
      have h1 : ¬ (b + 1 ≤ b ∧ b < b + 1 + bs.length) := by omega
      have h2 : b ≤ b ∧ b < b + (bs.length + 1) := by omega
      rw [if_neg h1, if_pos h2]; simp
    · by_cases hin : a + 1 ≤ b ∧ b < a + 1 + bs.length
      · have h2 : a ≤ b ∧ b < a + (bs.length + 1) := by omega
        obtain ⟨d, hd⟩ : ∃ d, b - a = d + 1 := ⟨b - a - 1, by omega⟩
        have : b - (a + 1) = d := by omega
        rw [if_pos hin, if_pos h2, hd, this]; simp
      · have h2 : ¬ (a ≤ b ∧ b < a + (bs.length + 1)) := by omega
        rw [if_neg hin, if_neg h2, if_neg hab]

theorem Mem.above_filter {a : Nat} {p : Host.Cell → Bool} (m : Mem) :
    Mem.above a m → m.wf = true → Mem.above a (m.filter p) := by
  induction m with
  | nil => intro _ _; trivial
  | cons c m ih =>
    obtain ⟨j, w⟩ := c
    intro h hw
    have hw' := Mem.wf_cons.1 hw
    simp only [Mem.above] at h
    simp only [List.filter_cons]
    split
    · simp [Mem.above, h]
    · apply ih _ hw'.2.2
      cases m with
      | nil => trivial
      | cons c m => obtain ⟨k, x⟩ := c; have := hw'.2.1; simp only [Mem.above] at this ⊢; omega

/-- Dropping cells keeps the canonical form. -/
theorem Mem.wf_filter (p : Host.Cell → Bool) (m : Mem) (h : m.wf = true) : Mem.wf (m.filter p) = true := by
  induction m with
  | nil => rfl
  | cons c m ih =>
    obtain ⟨j, w⟩ := c
    have h' := Mem.wf_cons.1 h
    simp only [List.filter_cons]
    split
    · exact Mem.wf_cons.2 ⟨h'.1, Mem.above_filter m h'.2.1 h'.2.2, ih h'.2.2⟩
    · exact ih h'.2.2

theorem Mem.wf_zero (m : Mem) (a n : Nat) (h : m.wf = true) : (m.zero a n).wf = true := Mem.wf_filter _ m h

theorem Mem.wf_keep (m : Mem) (p : Nat → Bool) (h : m.wf = true) : (m.keep p).wf = true := Mem.wf_filter _ m h

theorem Mem.byte_filter (p : Nat → Bool) (m : Mem) (a : Nat) (h : m.wf = true) :
    Mem.byte (m.filter (fun c => p c.1)) a = if p a then m.byte a else 0 := by
  induction m with
  | nil => simp [Mem.byte]
  | cons c m ih =>
    obtain ⟨j, w⟩ := c
    have h' := Mem.wf_cons.1 h
    simp only [List.filter_cons]
    by_cases hj : j = a
    · subst hj
      by_cases hp : p j = true
      · simp [hp, Mem.byte]
      · have hp' : p j = false := by simpa using hp
        simp [hp', ih h'.2.2]
    · by_cases hlt : a < j
      · have hz : Mem.byte m a = 0 := Mem.byte_above h'.2.2 h'.2.1 (Nat.le_of_lt hlt)
        by_cases hp : p j = true
        · simp [hp, Mem.byte, hj, hlt]
        · have hp' : p j = false := by simpa using hp
          simp [hp', ih h'.2.2, Mem.byte, hj, hlt, hz]
      · by_cases hp : p j = true
        · simp [hp, Mem.byte, hj, hlt, ih h'.2.2]
        · have hp' : p j = false := by simpa using hp
          simp [hp', ih h'.2.2, Mem.byte, hj, hlt]

/-- What a byte reads as after a range is cleared. -/
theorem Mem.byte_zero (m : Mem) (a n b : Nat) (h : m.wf = true) :
    (m.zero a n).byte b = if a ≤ b ∧ b < a + n then 0 else m.byte b := by
  have := Mem.byte_filter (fun x => decide (x < a) || decide (a + n ≤ x)) m b h
  simp only [Mem.zero] at this ⊢
  rw [this]
  by_cases hin : a ≤ b ∧ b < a + n
  · have h1 : ¬ b < a := by omega
    have h2 : ¬ a + n ≤ b := by omega
    simp [hin, h1, h2]
  · rw [if_neg hin]
    have : b < a ∨ a + n ≤ b := by omega
    simp [this]

end Sys2Proof.Machine
end

