-- ==== Sys2Proof/Laws/Tables.lean ====
section
/-! SUPPORT. Reading a table after a change to it. -/

namespace Sys2Proof

variable {α : Type}

@[simp] theorem TMap.get_nil (d : α) (k : Nat) : TMap.get d [] k = d := rfl

@[simp] theorem TMap.find_nil (k : Nat) : TMap.find ([] : TMap α) k = none := rfl

theorem TMap.get_set (d : α) (m : TMap α) (k k' : Nat) (v : α) :
    (TMap.set m k v).get d k' = if k' = k then v else m.get d k' := by
  by_cases hk : k' = k
  · subst hk
    induction m with
    | nil => simp [TMap.set, TMap.get]
    | cons e m ih =>
      obtain ⟨j, w⟩ := e
      by_cases h1 : j = k'
      · simp [TMap.set, TMap.get, h1]
      · by_cases h2 : k' < j <;> simp [TMap.set, TMap.get, h1, h2, ih]
  · have hk' : ¬ k = k' := fun h => hk h.symm
    rw [if_neg hk]
    induction m with
    | nil => simp [TMap.set, TMap.get, hk']
    | cons e m ih =>
      obtain ⟨j, w⟩ := e
      by_cases h1 : j = k
      · have : ¬ j = k' := by omega
        simp [TMap.set, TMap.get, h1, hk']
      · by_cases h2 : k < j <;> simp [TMap.set, TMap.get, h1, h2, hk', ih]

@[simp] theorem TMap.get_set_self (d : α) (m : TMap α) (k : Nat) (v : α) : (TMap.set m k v).get d k = v := by
  simp [TMap.get_set]

theorem TMap.get_set_ne (d : α) (m : TMap α) {k k' : Nat} (v : α) (h : k' ≠ k) :
    (TMap.set m k v).get d k' = m.get d k' := by simp [TMap.get_set, h]

theorem TMap.find_set (m : TMap α) (k k' : Nat) (v : α) :
    (TMap.set m k v).find k' = if k' = k then some v else m.find k' := by
  by_cases hk : k' = k
  · subst hk
    induction m with
    | nil => simp [TMap.set, TMap.find]
    | cons e m ih =>
      obtain ⟨j, w⟩ := e
      by_cases h1 : j = k'
      · simp [TMap.set, TMap.find, h1]
      · by_cases h2 : k' < j <;> simp [TMap.set, TMap.find, h1, h2, ih]
  · have hk' : ¬ k = k' := fun h => hk h.symm
    rw [if_neg hk]
    induction m with
    | nil => simp [TMap.set, TMap.find, hk']
    | cons e m ih =>
      obtain ⟨j, w⟩ := e
      by_cases h1 : j = k
      · simp [TMap.set, TMap.find, h1, hk']
      · by_cases h2 : k < j <;> simp [TMap.set, TMap.find, h1, h2, hk', ih]

@[simp] theorem TMap.find_set_self (m : TMap α) (k : Nat) (v : α) : (TMap.set m k v).find k = some v := by
  simp [TMap.find_set]

theorem TMap.find_set_ne (m : TMap α) {k k' : Nat} (v : α) (h : k' ≠ k) :
    (TMap.set m k v).find k' = m.find k' := by simp [TMap.find_set, h]

theorem TMap.find_del (m : TMap α) (k k' : Nat) :
    (TMap.del m k).find k' = if k' = k then none else m.find k' := by
  induction m with
  | nil => simp [TMap.del, TMap.find]
  | cons e m ih =>
    obtain ⟨j, w⟩ := e
    by_cases hk : k' = k
    · subst hk
      by_cases h1 : j = k' <;> simp_all [TMap.del, TMap.find]
    · have hk' : ¬ k = k' := fun h => hk h.symm
      by_cases h1 : j = k
      · subst h1; simp [TMap.del, TMap.find, hk', ih]
      · by_cases h2 : j = k'
        · subst h2; simp [TMap.del, TMap.find, h1]
        · simp [TMap.del, TMap.find, h1, h2, ih, hk]

theorem TMap.find_mapVals (f : Nat → α → α) (m : TMap α) (k : Nat) :
    (m.mapVals f).find k = (m.find k).map (f k) := by
  induction m with
  | nil => rfl
  | cons e m ih =>
    obtain ⟨j, w⟩ := e
    simp only [TMap.mapVals, List.map_cons, TMap.find] at ih ⊢
    split
    · simp_all
    · exact ih

/-- A listed entry is what reading it gives. -/
theorem TMap.get_of_find {m : TMap α} {k : Nat} {v : α} (d : α) (h : m.find k = some v) : m.get d k = v := by
  induction m with
  | nil => simp at h
  | cons e m ih =>
    obtain ⟨j, w⟩ := e
    simp only [TMap.find] at h
    simp only [TMap.get]
    split <;> simp_all

/-- A second write to a key replaces the first. -/
@[simp] theorem TMap.set_set (m : TMap α) (k : Nat) (v w : α) : (m.set k v).set k w = m.set k w := by
  induction m with
  | nil => simp [TMap.set]
  | cons e m ih =>
    obtain ⟨j, x⟩ := e
    simp only [TMap.set]
    split
    · simp [TMap.set]
    · split
      · simp [TMap.set]
      · rename_i h1 h2
        simp [TMap.set, h1, h2, ih]

/-- Reading a key after a change of every value, where an unlisted key's value would not change. -/
theorem TMap.get_mapVals (f : Nat → α → α) (d : α) (m : TMap α) (k : Nat) (h : f k d = d) :
    (m.mapVals f).get d k = f k (m.get d k) := by
  induction m with
  | nil => simp [TMap.mapVals, h]
  | cons e m ih =>
    obtain ⟨j, v⟩ := e
    simp only [TMap.mapVals, List.map_cons, TMap.get] at *
    split <;> simp_all

end Sys2Proof
end

