-- ==== Sys2Proof/Laws/State.lean ====
section
/-! SUPPORT. What each update of one part of the state leaves of every field, so that no later proof unfolds the update
of a record. -/

namespace Sys2Proof.Machine

open Sys2Proof

section

variable (s : State)

@[simp] theorem State.updCtx_die (c : Nat) (f : Ctx → Ctx) : (s.updCtx c f).die = s.die := rfl
@[simp] theorem State.updCtx_darn (c : Nat) (f : Ctx → Ctx) : (s.updCtx c f).darn = s.darn := rfl
@[simp] theorem State.updCtx_mem (c : Nat) (f : Ctx → Ctx) : (s.updCtx c f).mem = s.mem := rfl
@[simp] theorem State.updCtx_flash (c : Nat) (f : Ctx → Ctx) : (s.updCtx c f).flash = s.flash := rfl
@[simp] theorem State.updCtx_ptn (c : Nat) (f : Ctx → Ctx) : (s.updCtx c f).ptn = s.ptn := rfl
@[simp] theorem State.updCtx_fe (c : Nat) (f : Ctx → Ctx) : (s.updCtx c f).fe = s.fe := rfl
theorem State.updCtx_ctxs (c : Nat) (f : Ctx → Ctx) : (s.updCtx c f).ctxs = s.ctxs.set c (f (s.ctx c)) := rfl
@[simp] theorem State.updCtx_queues (c : Nat) (f : Ctx → Ctx) : (s.updCtx c f).queues = s.queues := rfl
@[simp] theorem State.updCtx_jobs (c : Nat) (f : Ctx → Ctx) : (s.updCtx c f).jobs = s.jobs := rfl
@[simp] theorem State.updCtx_flt (c : Nat) (f : Ctx → Ctx) : (s.updCtx c f).flt = s.flt := rfl
@[simp] theorem State.updCtx_mmu (c : Nat) (f : Ctx → Ctx) : (s.updCtx c f).mmu = s.mmu := rfl
@[simp] theorem State.updCtx_det (c : Nat) (f : Ctx → Ctx) : (s.updCtx c f).det = s.det := rfl
@[simp] theorem State.updCtx_ic (c : Nat) (f : Ctx → Ctx) : (s.updCtx c f).ic = s.ic := rfl
@[simp] theorem State.updCtx_spl (c : Nat) (f : Ctx → Ctx) : (s.updCtx c f).spl = s.spl := rfl
@[simp] theorem State.updCtx_l3c (c : Nat) (f : Ctx → Ctx) : (s.updCtx c f).l3c = s.l3c := rfl
@[simp] theorem State.updCtx_lines (c : Nat) (f : Ctx → Ctx) : (s.updCtx c f).lines = s.lines := rfl
@[simp] theorem State.updCtx_cmp (c : Nat) (f : Ctx → Ctx) : (s.updCtx c f).cmp = s.cmp := rfl
@[simp] theorem State.updCtx_clusters (c : Nat) (f : Ctx → Ctx) : (s.updCtx c f).clusters = s.clusters := rfl
@[simp] theorem State.updCtx_cores (c : Nat) (f : Ctx → Ctx) : (s.updCtx c f).cores = s.cores := rfl
@[simp] theorem State.updCtx_groups (c : Nat) (f : Ctx → Ctx) : (s.updCtx c f).groups = s.groups := rfl
@[simp] theorem State.updCtx_blocks (c : Nat) (f : Ctx → Ctx) : (s.updCtx c f).blocks = s.blocks := rfl
@[simp] theorem State.updCtx_deltas (c : Nat) (f : Ctx → Ctx) : (s.updCtx c f).deltas = s.deltas := rfl
@[simp] theorem State.updCtx_dsp (c : Nat) (f : Ctx → Ctx) : (s.updCtx c f).dsp = s.dsp := rfl
@[simp] theorem State.updCtx_pwr (c : Nat) (f : Ctx → Ctx) : (s.updCtx c f).pwr = s.pwr := rfl
@[simp] theorem State.updCtx_slk (c : Nat) (f : Ctx → Ctx) : (s.updCtx c f).slk = s.slk := rfl
@[simp] theorem State.updCtx_mc (c : Nat) (f : Ctx → Ctx) : (s.updCtx c f).mc = s.mc := rfl
@[simp] theorem State.updCtx_svc (c : Nat) (f : Ctx → Ctx) : (s.updCtx c f).svc = s.svc := rfl
@[simp] theorem State.updCtx_jtag (c : Nat) (f : Ctx → Ctx) : (s.updCtx c f).jtag = s.jtag := rfl
@[simp] theorem State.updCtx_frames (c : Nat) (f : Ctx → Ctx) : (s.updCtx c f).frames = s.frames := rfl
@[simp] theorem State.updCtx_writes (c : Nat) (f : Ctx → Ctx) : (s.updCtx c f).writes = s.writes := rfl
@[simp] theorem State.updCtx_lastWrite (c : Nat) (f : Ctx → Ctx) : (s.updCtx c f).lastWrite = s.lastWrite := rfl
@[simp] theorem State.updCtx_user (c : Nat) (f : Ctx → Ctx) : (s.updCtx c f).user = s.user := rfl
@[simp] theorem State.updCtx_trail (c : Nat) (f : Ctx → Ctx) : (s.updCtx c f).trail = s.trail := rfl
@[simp] theorem State.updCtx_freeCtr (c : Nat) (f : Ctx → Ctx) : (s.updCtx c f).freeCtr = s.freeCtr := rfl
@[simp] theorem State.updCtx_pending (c : Nat) (f : Ctx → Ctx) : (s.updCtx c f).pending = s.pending := rfl

@[simp] theorem State.updQueue_die (q : Nat) (f : Queue → Queue) : (s.updQueue q f).die = s.die := rfl
@[simp] theorem State.updQueue_darn (q : Nat) (f : Queue → Queue) : (s.updQueue q f).darn = s.darn := rfl
@[simp] theorem State.updQueue_mem (q : Nat) (f : Queue → Queue) : (s.updQueue q f).mem = s.mem := rfl
@[simp] theorem State.updQueue_flash (q : Nat) (f : Queue → Queue) : (s.updQueue q f).flash = s.flash := rfl
@[simp] theorem State.updQueue_ptn (q : Nat) (f : Queue → Queue) : (s.updQueue q f).ptn = s.ptn := rfl
@[simp] theorem State.updQueue_fe (q : Nat) (f : Queue → Queue) : (s.updQueue q f).fe = s.fe := rfl
@[simp] theorem State.updQueue_ctxs (q : Nat) (f : Queue → Queue) : (s.updQueue q f).ctxs = s.ctxs := rfl
theorem State.updQueue_queues (q : Nat) (f : Queue → Queue) : (s.updQueue q f).queues = s.queues.set q (f (s.queue q)) := rfl
@[simp] theorem State.updQueue_jobs (q : Nat) (f : Queue → Queue) : (s.updQueue q f).jobs = s.jobs := rfl
@[simp] theorem State.updQueue_flt (q : Nat) (f : Queue → Queue) : (s.updQueue q f).flt = s.flt := rfl
@[simp] theorem State.updQueue_mmu (q : Nat) (f : Queue → Queue) : (s.updQueue q f).mmu = s.mmu := rfl
@[simp] theorem State.updQueue_det (q : Nat) (f : Queue → Queue) : (s.updQueue q f).det = s.det := rfl
@[simp] theorem State.updQueue_ic (q : Nat) (f : Queue → Queue) : (s.updQueue q f).ic = s.ic := rfl
@[simp] theorem State.updQueue_spl (q : Nat) (f : Queue → Queue) : (s.updQueue q f).spl = s.spl := rfl
@[simp] theorem State.updQueue_l3c (q : Nat) (f : Queue → Queue) : (s.updQueue q f).l3c = s.l3c := rfl
@[simp] theorem State.updQueue_lines (q : Nat) (f : Queue → Queue) : (s.updQueue q f).lines = s.lines := rfl
@[simp] theorem State.updQueue_cmp (q : Nat) (f : Queue → Queue) : (s.updQueue q f).cmp = s.cmp := rfl
@[simp] theorem State.updQueue_clusters (q : Nat) (f : Queue → Queue) : (s.updQueue q f).clusters = s.clusters := rfl
@[simp] theorem State.updQueue_cores (q : Nat) (f : Queue → Queue) : (s.updQueue q f).cores = s.cores := rfl
@[simp] theorem State.updQueue_groups (q : Nat) (f : Queue → Queue) : (s.updQueue q f).groups = s.groups := rfl
@[simp] theorem State.updQueue_blocks (q : Nat) (f : Queue → Queue) : (s.updQueue q f).blocks = s.blocks := rfl
@[simp] theorem State.updQueue_deltas (q : Nat) (f : Queue → Queue) : (s.updQueue q f).deltas = s.deltas := rfl
@[simp] theorem State.updQueue_dsp (q : Nat) (f : Queue → Queue) : (s.updQueue q f).dsp = s.dsp := rfl
@[simp] theorem State.updQueue_pwr (q : Nat) (f : Queue → Queue) : (s.updQueue q f).pwr = s.pwr := rfl
@[simp] theorem State.updQueue_slk (q : Nat) (f : Queue → Queue) : (s.updQueue q f).slk = s.slk := rfl
@[simp] theorem State.updQueue_mc (q : Nat) (f : Queue → Queue) : (s.updQueue q f).mc = s.mc := rfl
@[simp] theorem State.updQueue_svc (q : Nat) (f : Queue → Queue) : (s.updQueue q f).svc = s.svc := rfl
@[simp] theorem State.updQueue_jtag (q : Nat) (f : Queue → Queue) : (s.updQueue q f).jtag = s.jtag := rfl
@[simp] theorem State.updQueue_frames (q : Nat) (f : Queue → Queue) : (s.updQueue q f).frames = s.frames := rfl
@[simp] theorem State.updQueue_writes (q : Nat) (f : Queue → Queue) : (s.updQueue q f).writes = s.writes := rfl
@[simp] theorem State.updQueue_lastWrite (q : Nat) (f : Queue → Queue) : (s.updQueue q f).lastWrite = s.lastWrite := rfl
@[simp] theorem State.updQueue_user (q : Nat) (f : Queue → Queue) : (s.updQueue q f).user = s.user := rfl
@[simp] theorem State.updQueue_trail (q : Nat) (f : Queue → Queue) : (s.updQueue q f).trail = s.trail := rfl
@[simp] theorem State.updQueue_freeCtr (q : Nat) (f : Queue → Queue) : (s.updQueue q f).freeCtr = s.freeCtr := rfl
@[simp] theorem State.updQueue_pending (q : Nat) (f : Queue → Queue) : (s.updQueue q f).pending = s.pending := rfl

@[simp] theorem State.feEvent_die (i : Nat) : (s.feEvent i).die = s.die := rfl
@[simp] theorem State.feEvent_darn (i : Nat) : (s.feEvent i).darn = s.darn := rfl
@[simp] theorem State.feEvent_mem (i : Nat) : (s.feEvent i).mem = s.mem := rfl
@[simp] theorem State.feEvent_flash (i : Nat) : (s.feEvent i).flash = s.flash := rfl
@[simp] theorem State.feEvent_ptn (i : Nat) : (s.feEvent i).ptn = s.ptn := rfl
theorem State.feEvent_fe (i : Nat) : (s.feEvent i).fe = { s.fe with events := setBit s.fe.events i true } := rfl
@[simp] theorem State.feEvent_ctxs (i : Nat) : (s.feEvent i).ctxs = s.ctxs := rfl
@[simp] theorem State.feEvent_queues (i : Nat) : (s.feEvent i).queues = s.queues := rfl
@[simp] theorem State.feEvent_jobs (i : Nat) : (s.feEvent i).jobs = s.jobs := rfl
@[simp] theorem State.feEvent_flt (i : Nat) : (s.feEvent i).flt = s.flt := rfl
@[simp] theorem State.feEvent_mmu (i : Nat) : (s.feEvent i).mmu = s.mmu := rfl
@[simp] theorem State.feEvent_det (i : Nat) : (s.feEvent i).det = s.det := rfl
@[simp] theorem State.feEvent_ic (i : Nat) : (s.feEvent i).ic = s.ic := rfl
@[simp] theorem State.feEvent_spl (i : Nat) : (s.feEvent i).spl = s.spl := rfl
@[simp] theorem State.feEvent_l3c (i : Nat) : (s.feEvent i).l3c = s.l3c := rfl
@[simp] theorem State.feEvent_lines (i : Nat) : (s.feEvent i).lines = s.lines := rfl
@[simp] theorem State.feEvent_cmp (i : Nat) : (s.feEvent i).cmp = s.cmp := rfl
@[simp] theorem State.feEvent_clusters (i : Nat) : (s.feEvent i).clusters = s.clusters := rfl
@[simp] theorem State.feEvent_cores (i : Nat) : (s.feEvent i).cores = s.cores := rfl
@[simp] theorem State.feEvent_groups (i : Nat) : (s.feEvent i).groups = s.groups := rfl
@[simp] theorem State.feEvent_blocks (i : Nat) : (s.feEvent i).blocks = s.blocks := rfl
@[simp] theorem State.feEvent_deltas (i : Nat) : (s.feEvent i).deltas = s.deltas := rfl
@[simp] theorem State.feEvent_dsp (i : Nat) : (s.feEvent i).dsp = s.dsp := rfl
@[simp] theorem State.feEvent_pwr (i : Nat) : (s.feEvent i).pwr = s.pwr := rfl
@[simp] theorem State.feEvent_slk (i : Nat) : (s.feEvent i).slk = s.slk := rfl
@[simp] theorem State.feEvent_mc (i : Nat) : (s.feEvent i).mc = s.mc := rfl
@[simp] theorem State.feEvent_svc (i : Nat) : (s.feEvent i).svc = s.svc := rfl
@[simp] theorem State.feEvent_jtag (i : Nat) : (s.feEvent i).jtag = s.jtag := rfl
@[simp] theorem State.feEvent_frames (i : Nat) : (s.feEvent i).frames = s.frames := rfl
@[simp] theorem State.feEvent_writes (i : Nat) : (s.feEvent i).writes = s.writes := rfl
@[simp] theorem State.feEvent_lastWrite (i : Nat) : (s.feEvent i).lastWrite = s.lastWrite := rfl
@[simp] theorem State.feEvent_user (i : Nat) : (s.feEvent i).user = s.user := rfl
@[simp] theorem State.feEvent_trail (i : Nat) : (s.feEvent i).trail = s.trail := rfl
@[simp] theorem State.feEvent_freeCtr (i : Nat) : (s.feEvent i).freeCtr = s.freeCtr := rfl
@[simp] theorem State.feEvent_pending (i : Nat) : (s.feEvent i).pending = s.pending := rfl

@[simp] theorem State.ptnEvent_die (i : Nat) : (s.ptnEvent i).die = s.die := rfl
@[simp] theorem State.ptnEvent_darn (i : Nat) : (s.ptnEvent i).darn = s.darn := rfl
@[simp] theorem State.ptnEvent_mem (i : Nat) : (s.ptnEvent i).mem = s.mem := rfl
@[simp] theorem State.ptnEvent_flash (i : Nat) : (s.ptnEvent i).flash = s.flash := rfl
theorem State.ptnEvent_ptn (i : Nat) : (s.ptnEvent i).ptn = { s.ptn with events := setBit s.ptn.events i true } := rfl
@[simp] theorem State.ptnEvent_fe (i : Nat) : (s.ptnEvent i).fe = s.fe := rfl
@[simp] theorem State.ptnEvent_ctxs (i : Nat) : (s.ptnEvent i).ctxs = s.ctxs := rfl
@[simp] theorem State.ptnEvent_queues (i : Nat) : (s.ptnEvent i).queues = s.queues := rfl
@[simp] theorem State.ptnEvent_jobs (i : Nat) : (s.ptnEvent i).jobs = s.jobs := rfl
@[simp] theorem State.ptnEvent_flt (i : Nat) : (s.ptnEvent i).flt = s.flt := rfl
@[simp] theorem State.ptnEvent_mmu (i : Nat) : (s.ptnEvent i).mmu = s.mmu := rfl
@[simp] theorem State.ptnEvent_det (i : Nat) : (s.ptnEvent i).det = s.det := rfl
@[simp] theorem State.ptnEvent_ic (i : Nat) : (s.ptnEvent i).ic = s.ic := rfl
@[simp] theorem State.ptnEvent_spl (i : Nat) : (s.ptnEvent i).spl = s.spl := rfl
@[simp] theorem State.ptnEvent_l3c (i : Nat) : (s.ptnEvent i).l3c = s.l3c := rfl
@[simp] theorem State.ptnEvent_lines (i : Nat) : (s.ptnEvent i).lines = s.lines := rfl
@[simp] theorem State.ptnEvent_cmp (i : Nat) : (s.ptnEvent i).cmp = s.cmp := rfl
@[simp] theorem State.ptnEvent_clusters (i : Nat) : (s.ptnEvent i).clusters = s.clusters := rfl
@[simp] theorem State.ptnEvent_cores (i : Nat) : (s.ptnEvent i).cores = s.cores := rfl
@[simp] theorem State.ptnEvent_groups (i : Nat) : (s.ptnEvent i).groups = s.groups := rfl
@[simp] theorem State.ptnEvent_blocks (i : Nat) : (s.ptnEvent i).blocks = s.blocks := rfl
@[simp] theorem State.ptnEvent_deltas (i : Nat) : (s.ptnEvent i).deltas = s.deltas := rfl
@[simp] theorem State.ptnEvent_dsp (i : Nat) : (s.ptnEvent i).dsp = s.dsp := rfl
@[simp] theorem State.ptnEvent_pwr (i : Nat) : (s.ptnEvent i).pwr = s.pwr := rfl
@[simp] theorem State.ptnEvent_slk (i : Nat) : (s.ptnEvent i).slk = s.slk := rfl
@[simp] theorem State.ptnEvent_mc (i : Nat) : (s.ptnEvent i).mc = s.mc := rfl
@[simp] theorem State.ptnEvent_svc (i : Nat) : (s.ptnEvent i).svc = s.svc := rfl
@[simp] theorem State.ptnEvent_jtag (i : Nat) : (s.ptnEvent i).jtag = s.jtag := rfl
@[simp] theorem State.ptnEvent_frames (i : Nat) : (s.ptnEvent i).frames = s.frames := rfl
@[simp] theorem State.ptnEvent_writes (i : Nat) : (s.ptnEvent i).writes = s.writes := rfl
@[simp] theorem State.ptnEvent_lastWrite (i : Nat) : (s.ptnEvent i).lastWrite = s.lastWrite := rfl
@[simp] theorem State.ptnEvent_user (i : Nat) : (s.ptnEvent i).user = s.user := rfl
@[simp] theorem State.ptnEvent_trail (i : Nat) : (s.ptnEvent i).trail = s.trail := rfl
@[simp] theorem State.ptnEvent_freeCtr (i : Nat) : (s.ptnEvent i).freeCtr = s.freeCtr := rfl
@[simp] theorem State.ptnEvent_pending (i : Nat) : (s.ptnEvent i).pending = s.pending := rfl

@[simp] theorem State.fltEvent_die (i : Nat) : (s.fltEvent i).die = s.die := rfl
@[simp] theorem State.fltEvent_darn (i : Nat) : (s.fltEvent i).darn = s.darn := rfl
@[simp] theorem State.fltEvent_mem (i : Nat) : (s.fltEvent i).mem = s.mem := rfl
@[simp] theorem State.fltEvent_flash (i : Nat) : (s.fltEvent i).flash = s.flash := rfl
@[simp] theorem State.fltEvent_ptn (i : Nat) : (s.fltEvent i).ptn = s.ptn := rfl
@[simp] theorem State.fltEvent_fe (i : Nat) : (s.fltEvent i).fe = s.fe := rfl
@[simp] theorem State.fltEvent_ctxs (i : Nat) : (s.fltEvent i).ctxs = s.ctxs := rfl
@[simp] theorem State.fltEvent_queues (i : Nat) : (s.fltEvent i).queues = s.queues := rfl
@[simp] theorem State.fltEvent_jobs (i : Nat) : (s.fltEvent i).jobs = s.jobs := rfl
theorem State.fltEvent_flt (i : Nat) : (s.fltEvent i).flt = { s.flt with events := setBit s.flt.events i true } := rfl
@[simp] theorem State.fltEvent_mmu (i : Nat) : (s.fltEvent i).mmu = s.mmu := rfl
@[simp] theorem State.fltEvent_det (i : Nat) : (s.fltEvent i).det = s.det := rfl
@[simp] theorem State.fltEvent_ic (i : Nat) : (s.fltEvent i).ic = s.ic := rfl
@[simp] theorem State.fltEvent_spl (i : Nat) : (s.fltEvent i).spl = s.spl := rfl
@[simp] theorem State.fltEvent_l3c (i : Nat) : (s.fltEvent i).l3c = s.l3c := rfl
@[simp] theorem State.fltEvent_lines (i : Nat) : (s.fltEvent i).lines = s.lines := rfl
@[simp] theorem State.fltEvent_cmp (i : Nat) : (s.fltEvent i).cmp = s.cmp := rfl
@[simp] theorem State.fltEvent_clusters (i : Nat) : (s.fltEvent i).clusters = s.clusters := rfl
@[simp] theorem State.fltEvent_cores (i : Nat) : (s.fltEvent i).cores = s.cores := rfl
@[simp] theorem State.fltEvent_groups (i : Nat) : (s.fltEvent i).groups = s.groups := rfl
@[simp] theorem State.fltEvent_blocks (i : Nat) : (s.fltEvent i).blocks = s.blocks := rfl
@[simp] theorem State.fltEvent_deltas (i : Nat) : (s.fltEvent i).deltas = s.deltas := rfl
@[simp] theorem State.fltEvent_dsp (i : Nat) : (s.fltEvent i).dsp = s.dsp := rfl
@[simp] theorem State.fltEvent_pwr (i : Nat) : (s.fltEvent i).pwr = s.pwr := rfl
@[simp] theorem State.fltEvent_slk (i : Nat) : (s.fltEvent i).slk = s.slk := rfl
@[simp] theorem State.fltEvent_mc (i : Nat) : (s.fltEvent i).mc = s.mc := rfl
@[simp] theorem State.fltEvent_svc (i : Nat) : (s.fltEvent i).svc = s.svc := rfl
@[simp] theorem State.fltEvent_jtag (i : Nat) : (s.fltEvent i).jtag = s.jtag := rfl
@[simp] theorem State.fltEvent_frames (i : Nat) : (s.fltEvent i).frames = s.frames := rfl
@[simp] theorem State.fltEvent_writes (i : Nat) : (s.fltEvent i).writes = s.writes := rfl
@[simp] theorem State.fltEvent_lastWrite (i : Nat) : (s.fltEvent i).lastWrite = s.lastWrite := rfl
@[simp] theorem State.fltEvent_user (i : Nat) : (s.fltEvent i).user = s.user := rfl
@[simp] theorem State.fltEvent_trail (i : Nat) : (s.fltEvent i).trail = s.trail := rfl
@[simp] theorem State.fltEvent_freeCtr (i : Nat) : (s.fltEvent i).freeCtr = s.freeCtr := rfl
@[simp] theorem State.fltEvent_pending (i : Nat) : (s.fltEvent i).pending = s.pending := rfl

@[simp] theorem State.mmuEvent_die (i : Nat) : (s.mmuEvent i).die = s.die := rfl
@[simp] theorem State.mmuEvent_darn (i : Nat) : (s.mmuEvent i).darn = s.darn := rfl
@[simp] theorem State.mmuEvent_mem (i : Nat) : (s.mmuEvent i).mem = s.mem := rfl
@[simp] theorem State.mmuEvent_flash (i : Nat) : (s.mmuEvent i).flash = s.flash := rfl
@[simp] theorem State.mmuEvent_ptn (i : Nat) : (s.mmuEvent i).ptn = s.ptn := rfl
@[simp] theorem State.mmuEvent_fe (i : Nat) : (s.mmuEvent i).fe = s.fe := rfl
@[simp] theorem State.mmuEvent_ctxs (i : Nat) : (s.mmuEvent i).ctxs = s.ctxs := rfl
@[simp] theorem State.mmuEvent_queues (i : Nat) : (s.mmuEvent i).queues = s.queues := rfl
@[simp] theorem State.mmuEvent_jobs (i : Nat) : (s.mmuEvent i).jobs = s.jobs := rfl
@[simp] theorem State.mmuEvent_flt (i : Nat) : (s.mmuEvent i).flt = s.flt := rfl
theorem State.mmuEvent_mmu (i : Nat) : (s.mmuEvent i).mmu = { s.mmu with events := setBit s.mmu.events i true } := rfl
@[simp] theorem State.mmuEvent_det (i : Nat) : (s.mmuEvent i).det = s.det := rfl
@[simp] theorem State.mmuEvent_ic (i : Nat) : (s.mmuEvent i).ic = s.ic := rfl
@[simp] theorem State.mmuEvent_spl (i : Nat) : (s.mmuEvent i).spl = s.spl := rfl
@[simp] theorem State.mmuEvent_l3c (i : Nat) : (s.mmuEvent i).l3c = s.l3c := rfl
@[simp] theorem State.mmuEvent_lines (i : Nat) : (s.mmuEvent i).lines = s.lines := rfl
@[simp] theorem State.mmuEvent_cmp (i : Nat) : (s.mmuEvent i).cmp = s.cmp := rfl
@[simp] theorem State.mmuEvent_clusters (i : Nat) : (s.mmuEvent i).clusters = s.clusters := rfl
@[simp] theorem State.mmuEvent_cores (i : Nat) : (s.mmuEvent i).cores = s.cores := rfl
@[simp] theorem State.mmuEvent_groups (i : Nat) : (s.mmuEvent i).groups = s.groups := rfl
@[simp] theorem State.mmuEvent_blocks (i : Nat) : (s.mmuEvent i).blocks = s.blocks := rfl
@[simp] theorem State.mmuEvent_deltas (i : Nat) : (s.mmuEvent i).deltas = s.deltas := rfl
@[simp] theorem State.mmuEvent_dsp (i : Nat) : (s.mmuEvent i).dsp = s.dsp := rfl
@[simp] theorem State.mmuEvent_pwr (i : Nat) : (s.mmuEvent i).pwr = s.pwr := rfl
@[simp] theorem State.mmuEvent_slk (i : Nat) : (s.mmuEvent i).slk = s.slk := rfl
@[simp] theorem State.mmuEvent_mc (i : Nat) : (s.mmuEvent i).mc = s.mc := rfl
@[simp] theorem State.mmuEvent_svc (i : Nat) : (s.mmuEvent i).svc = s.svc := rfl
@[simp] theorem State.mmuEvent_jtag (i : Nat) : (s.mmuEvent i).jtag = s.jtag := rfl
@[simp] theorem State.mmuEvent_frames (i : Nat) : (s.mmuEvent i).frames = s.frames := rfl
@[simp] theorem State.mmuEvent_writes (i : Nat) : (s.mmuEvent i).writes = s.writes := rfl
@[simp] theorem State.mmuEvent_lastWrite (i : Nat) : (s.mmuEvent i).lastWrite = s.lastWrite := rfl
@[simp] theorem State.mmuEvent_user (i : Nat) : (s.mmuEvent i).user = s.user := rfl
@[simp] theorem State.mmuEvent_trail (i : Nat) : (s.mmuEvent i).trail = s.trail := rfl
@[simp] theorem State.mmuEvent_freeCtr (i : Nat) : (s.mmuEvent i).freeCtr = s.freeCtr := rfl
@[simp] theorem State.mmuEvent_pending (i : Nat) : (s.mmuEvent i).pending = s.pending := rfl

@[simp] theorem State.updSource_die (n : Nat) (f : IcSource → IcSource) : (s.updSource n f).die = s.die := rfl
@[simp] theorem State.updSource_darn (n : Nat) (f : IcSource → IcSource) : (s.updSource n f).darn = s.darn := rfl
@[simp] theorem State.updSource_mem (n : Nat) (f : IcSource → IcSource) : (s.updSource n f).mem = s.mem := rfl
@[simp] theorem State.updSource_flash (n : Nat) (f : IcSource → IcSource) : (s.updSource n f).flash = s.flash := rfl
@[simp] theorem State.updSource_ptn (n : Nat) (f : IcSource → IcSource) : (s.updSource n f).ptn = s.ptn := rfl
@[simp] theorem State.updSource_fe (n : Nat) (f : IcSource → IcSource) : (s.updSource n f).fe = s.fe := rfl
@[simp] theorem State.updSource_ctxs (n : Nat) (f : IcSource → IcSource) : (s.updSource n f).ctxs = s.ctxs := rfl
@[simp] theorem State.updSource_queues (n : Nat) (f : IcSource → IcSource) : (s.updSource n f).queues = s.queues := rfl
@[simp] theorem State.updSource_jobs (n : Nat) (f : IcSource → IcSource) : (s.updSource n f).jobs = s.jobs := rfl
@[simp] theorem State.updSource_flt (n : Nat) (f : IcSource → IcSource) : (s.updSource n f).flt = s.flt := rfl
@[simp] theorem State.updSource_mmu (n : Nat) (f : IcSource → IcSource) : (s.updSource n f).mmu = s.mmu := rfl
@[simp] theorem State.updSource_det (n : Nat) (f : IcSource → IcSource) : (s.updSource n f).det = s.det := rfl
theorem State.updSource_ic (n : Nat) (f : IcSource → IcSource) : (s.updSource n f).ic = { s.ic with sources := s.ic.sources.set n (f (s.source n)) } := rfl
@[simp] theorem State.updSource_spl (n : Nat) (f : IcSource → IcSource) : (s.updSource n f).spl = s.spl := rfl
@[simp] theorem State.updSource_l3c (n : Nat) (f : IcSource → IcSource) : (s.updSource n f).l3c = s.l3c := rfl
@[simp] theorem State.updSource_lines (n : Nat) (f : IcSource → IcSource) : (s.updSource n f).lines = s.lines := rfl
@[simp] theorem State.updSource_cmp (n : Nat) (f : IcSource → IcSource) : (s.updSource n f).cmp = s.cmp := rfl
@[simp] theorem State.updSource_clusters (n : Nat) (f : IcSource → IcSource) : (s.updSource n f).clusters = s.clusters := rfl
@[simp] theorem State.updSource_cores (n : Nat) (f : IcSource → IcSource) : (s.updSource n f).cores = s.cores := rfl
@[simp] theorem State.updSource_groups (n : Nat) (f : IcSource → IcSource) : (s.updSource n f).groups = s.groups := rfl
@[simp] theorem State.updSource_blocks (n : Nat) (f : IcSource → IcSource) : (s.updSource n f).blocks = s.blocks := rfl
@[simp] theorem State.updSource_deltas (n : Nat) (f : IcSource → IcSource) : (s.updSource n f).deltas = s.deltas := rfl
@[simp] theorem State.updSource_dsp (n : Nat) (f : IcSource → IcSource) : (s.updSource n f).dsp = s.dsp := rfl
@[simp] theorem State.updSource_pwr (n : Nat) (f : IcSource → IcSource) : (s.updSource n f).pwr = s.pwr := rfl
@[simp] theorem State.updSource_slk (n : Nat) (f : IcSource → IcSource) : (s.updSource n f).slk = s.slk := rfl
@[simp] theorem State.updSource_mc (n : Nat) (f : IcSource → IcSource) : (s.updSource n f).mc = s.mc := rfl
@[simp] theorem State.updSource_svc (n : Nat) (f : IcSource → IcSource) : (s.updSource n f).svc = s.svc := rfl
@[simp] theorem State.updSource_jtag (n : Nat) (f : IcSource → IcSource) : (s.updSource n f).jtag = s.jtag := rfl
@[simp] theorem State.updSource_frames (n : Nat) (f : IcSource → IcSource) : (s.updSource n f).frames = s.frames := rfl
@[simp] theorem State.updSource_writes (n : Nat) (f : IcSource → IcSource) : (s.updSource n f).writes = s.writes := rfl
@[simp] theorem State.updSource_lastWrite (n : Nat) (f : IcSource → IcSource) : (s.updSource n f).lastWrite = s.lastWrite := rfl
@[simp] theorem State.updSource_user (n : Nat) (f : IcSource → IcSource) : (s.updSource n f).user = s.user := rfl
@[simp] theorem State.updSource_trail (n : Nat) (f : IcSource → IcSource) : (s.updSource n f).trail = s.trail := rfl
@[simp] theorem State.updSource_freeCtr (n : Nat) (f : IcSource → IcSource) : (s.updSource n f).freeCtr = s.freeCtr := rfl
@[simp] theorem State.updSource_pending (n : Nat) (f : IcSource → IcSource) : (s.updSource n f).pending = s.pending := rfl

@[simp] theorem State.raise_die (n : Nat) : (s.raise n).die = s.die := rfl
@[simp] theorem State.raise_darn (n : Nat) : (s.raise n).darn = s.darn := rfl
@[simp] theorem State.raise_mem (n : Nat) : (s.raise n).mem = s.mem := rfl
@[simp] theorem State.raise_flash (n : Nat) : (s.raise n).flash = s.flash := rfl
@[simp] theorem State.raise_ptn (n : Nat) : (s.raise n).ptn = s.ptn := rfl
@[simp] theorem State.raise_fe (n : Nat) : (s.raise n).fe = s.fe := rfl
@[simp] theorem State.raise_ctxs (n : Nat) : (s.raise n).ctxs = s.ctxs := rfl
@[simp] theorem State.raise_queues (n : Nat) : (s.raise n).queues = s.queues := rfl
@[simp] theorem State.raise_jobs (n : Nat) : (s.raise n).jobs = s.jobs := rfl
@[simp] theorem State.raise_flt (n : Nat) : (s.raise n).flt = s.flt := rfl
@[simp] theorem State.raise_mmu (n : Nat) : (s.raise n).mmu = s.mmu := rfl
@[simp] theorem State.raise_det (n : Nat) : (s.raise n).det = s.det := rfl
@[simp] theorem State.raise_spl (n : Nat) : (s.raise n).spl = s.spl := rfl
@[simp] theorem State.raise_l3c (n : Nat) : (s.raise n).l3c = s.l3c := rfl
@[simp] theorem State.raise_lines (n : Nat) : (s.raise n).lines = s.lines := rfl
@[simp] theorem State.raise_cmp (n : Nat) : (s.raise n).cmp = s.cmp := rfl
@[simp] theorem State.raise_clusters (n : Nat) : (s.raise n).clusters = s.clusters := rfl
@[simp] theorem State.raise_cores (n : Nat) : (s.raise n).cores = s.cores := rfl
@[simp] theorem State.raise_groups (n : Nat) : (s.raise n).groups = s.groups := rfl
@[simp] theorem State.raise_blocks (n : Nat) : (s.raise n).blocks = s.blocks := rfl
@[simp] theorem State.raise_deltas (n : Nat) : (s.raise n).deltas = s.deltas := rfl
@[simp] theorem State.raise_dsp (n : Nat) : (s.raise n).dsp = s.dsp := rfl
@[simp] theorem State.raise_pwr (n : Nat) : (s.raise n).pwr = s.pwr := rfl
@[simp] theorem State.raise_slk (n : Nat) : (s.raise n).slk = s.slk := rfl
@[simp] theorem State.raise_mc (n : Nat) : (s.raise n).mc = s.mc := rfl
@[simp] theorem State.raise_svc (n : Nat) : (s.raise n).svc = s.svc := rfl
@[simp] theorem State.raise_jtag (n : Nat) : (s.raise n).jtag = s.jtag := rfl
@[simp] theorem State.raise_frames (n : Nat) : (s.raise n).frames = s.frames := rfl
@[simp] theorem State.raise_writes (n : Nat) : (s.raise n).writes = s.writes := rfl
@[simp] theorem State.raise_lastWrite (n : Nat) : (s.raise n).lastWrite = s.lastWrite := rfl
@[simp] theorem State.raise_user (n : Nat) : (s.raise n).user = s.user := rfl
@[simp] theorem State.raise_trail (n : Nat) : (s.raise n).trail = s.trail := rfl
@[simp] theorem State.raise_freeCtr (n : Nat) : (s.raise n).freeCtr = s.freeCtr := rfl
@[simp] theorem State.raise_pending (n : Nat) : (s.raise n).pending = s.pending := rfl

@[simp] theorem State.setBlock_die (b : Nat) (x : Block) : (s.setBlock b x).die = s.die := rfl
@[simp] theorem State.setBlock_darn (b : Nat) (x : Block) : (s.setBlock b x).darn = s.darn := rfl
@[simp] theorem State.setBlock_mem (b : Nat) (x : Block) : (s.setBlock b x).mem = s.mem := rfl
@[simp] theorem State.setBlock_flash (b : Nat) (x : Block) : (s.setBlock b x).flash = s.flash := rfl
@[simp] theorem State.setBlock_ptn (b : Nat) (x : Block) : (s.setBlock b x).ptn = s.ptn := rfl
@[simp] theorem State.setBlock_fe (b : Nat) (x : Block) : (s.setBlock b x).fe = s.fe := rfl
@[simp] theorem State.setBlock_ctxs (b : Nat) (x : Block) : (s.setBlock b x).ctxs = s.ctxs := rfl
@[simp] theorem State.setBlock_queues (b : Nat) (x : Block) : (s.setBlock b x).queues = s.queues := rfl
@[simp] theorem State.setBlock_jobs (b : Nat) (x : Block) : (s.setBlock b x).jobs = s.jobs := rfl
@[simp] theorem State.setBlock_flt (b : Nat) (x : Block) : (s.setBlock b x).flt = s.flt := rfl
@[simp] theorem State.setBlock_mmu (b : Nat) (x : Block) : (s.setBlock b x).mmu = s.mmu := rfl
@[simp] theorem State.setBlock_det (b : Nat) (x : Block) : (s.setBlock b x).det = s.det := rfl
@[simp] theorem State.setBlock_ic (b : Nat) (x : Block) : (s.setBlock b x).ic = s.ic := rfl
@[simp] theorem State.setBlock_spl (b : Nat) (x : Block) : (s.setBlock b x).spl = s.spl := rfl
@[simp] theorem State.setBlock_l3c (b : Nat) (x : Block) : (s.setBlock b x).l3c = s.l3c := rfl
@[simp] theorem State.setBlock_lines (b : Nat) (x : Block) : (s.setBlock b x).lines = s.lines := rfl
@[simp] theorem State.setBlock_cmp (b : Nat) (x : Block) : (s.setBlock b x).cmp = s.cmp := rfl
@[simp] theorem State.setBlock_clusters (b : Nat) (x : Block) : (s.setBlock b x).clusters = s.clusters := rfl
@[simp] theorem State.setBlock_cores (b : Nat) (x : Block) : (s.setBlock b x).cores = s.cores := rfl
@[simp] theorem State.setBlock_groups (b : Nat) (x : Block) : (s.setBlock b x).groups = s.groups := rfl
theorem State.setBlock_blocks (b : Nat) (x : Block) : (s.setBlock b x).blocks = s.blocks.set b x := rfl
@[simp] theorem State.setBlock_deltas (b : Nat) (x : Block) : (s.setBlock b x).deltas = s.deltas := rfl
@[simp] theorem State.setBlock_dsp (b : Nat) (x : Block) : (s.setBlock b x).dsp = s.dsp := rfl
@[simp] theorem State.setBlock_pwr (b : Nat) (x : Block) : (s.setBlock b x).pwr = s.pwr := rfl
@[simp] theorem State.setBlock_slk (b : Nat) (x : Block) : (s.setBlock b x).slk = s.slk := rfl
@[simp] theorem State.setBlock_mc (b : Nat) (x : Block) : (s.setBlock b x).mc = s.mc := rfl
@[simp] theorem State.setBlock_svc (b : Nat) (x : Block) : (s.setBlock b x).svc = s.svc := rfl
@[simp] theorem State.setBlock_jtag (b : Nat) (x : Block) : (s.setBlock b x).jtag = s.jtag := rfl
@[simp] theorem State.setBlock_frames (b : Nat) (x : Block) : (s.setBlock b x).frames = s.frames := rfl
@[simp] theorem State.setBlock_writes (b : Nat) (x : Block) : (s.setBlock b x).writes = s.writes := rfl
@[simp] theorem State.setBlock_lastWrite (b : Nat) (x : Block) : (s.setBlock b x).lastWrite = s.lastWrite := rfl
@[simp] theorem State.setBlock_user (b : Nat) (x : Block) : (s.setBlock b x).user = s.user := rfl
@[simp] theorem State.setBlock_trail (b : Nat) (x : Block) : (s.setBlock b x).trail = s.trail := rfl
@[simp] theorem State.setBlock_freeCtr (b : Nat) (x : Block) : (s.setBlock b x).freeCtr = s.freeCtr := rfl
@[simp] theorem State.setBlock_pending (b : Nat) (x : Block) : (s.setBlock b x).pending = s.pending := rfl

@[simp] theorem State.wakeGroups_die (gs : List Nat) : (s.wakeGroups gs).die = s.die := rfl
@[simp] theorem State.wakeGroups_darn (gs : List Nat) : (s.wakeGroups gs).darn = s.darn := rfl
@[simp] theorem State.wakeGroups_mem (gs : List Nat) : (s.wakeGroups gs).mem = s.mem := rfl
@[simp] theorem State.wakeGroups_flash (gs : List Nat) : (s.wakeGroups gs).flash = s.flash := rfl
@[simp] theorem State.wakeGroups_ptn (gs : List Nat) : (s.wakeGroups gs).ptn = s.ptn := rfl
@[simp] theorem State.wakeGroups_fe (gs : List Nat) : (s.wakeGroups gs).fe = s.fe := rfl
@[simp] theorem State.wakeGroups_ctxs (gs : List Nat) : (s.wakeGroups gs).ctxs = s.ctxs := rfl
@[simp] theorem State.wakeGroups_queues (gs : List Nat) : (s.wakeGroups gs).queues = s.queues := rfl
@[simp] theorem State.wakeGroups_jobs (gs : List Nat) : (s.wakeGroups gs).jobs = s.jobs := rfl
@[simp] theorem State.wakeGroups_flt (gs : List Nat) : (s.wakeGroups gs).flt = s.flt := rfl
@[simp] theorem State.wakeGroups_mmu (gs : List Nat) : (s.wakeGroups gs).mmu = s.mmu := rfl
@[simp] theorem State.wakeGroups_det (gs : List Nat) : (s.wakeGroups gs).det = s.det := rfl
@[simp] theorem State.wakeGroups_ic (gs : List Nat) : (s.wakeGroups gs).ic = s.ic := rfl
@[simp] theorem State.wakeGroups_spl (gs : List Nat) : (s.wakeGroups gs).spl = s.spl := rfl
@[simp] theorem State.wakeGroups_l3c (gs : List Nat) : (s.wakeGroups gs).l3c = s.l3c := rfl
@[simp] theorem State.wakeGroups_lines (gs : List Nat) : (s.wakeGroups gs).lines = s.lines := rfl
@[simp] theorem State.wakeGroups_cmp (gs : List Nat) : (s.wakeGroups gs).cmp = s.cmp := rfl
@[simp] theorem State.wakeGroups_clusters (gs : List Nat) : (s.wakeGroups gs).clusters = s.clusters := rfl
@[simp] theorem State.wakeGroups_cores (gs : List Nat) : (s.wakeGroups gs).cores = s.cores := rfl
@[simp] theorem State.wakeGroups_blocks (gs : List Nat) : (s.wakeGroups gs).blocks = s.blocks := rfl
@[simp] theorem State.wakeGroups_deltas (gs : List Nat) : (s.wakeGroups gs).deltas = s.deltas := rfl
@[simp] theorem State.wakeGroups_dsp (gs : List Nat) : (s.wakeGroups gs).dsp = s.dsp := rfl
@[simp] theorem State.wakeGroups_pwr (gs : List Nat) : (s.wakeGroups gs).pwr = s.pwr := rfl
@[simp] theorem State.wakeGroups_slk (gs : List Nat) : (s.wakeGroups gs).slk = s.slk := rfl
@[simp] theorem State.wakeGroups_mc (gs : List Nat) : (s.wakeGroups gs).mc = s.mc := rfl
@[simp] theorem State.wakeGroups_svc (gs : List Nat) : (s.wakeGroups gs).svc = s.svc := rfl
@[simp] theorem State.wakeGroups_jtag (gs : List Nat) : (s.wakeGroups gs).jtag = s.jtag := rfl
@[simp] theorem State.wakeGroups_frames (gs : List Nat) : (s.wakeGroups gs).frames = s.frames := rfl
@[simp] theorem State.wakeGroups_writes (gs : List Nat) : (s.wakeGroups gs).writes = s.writes := rfl
@[simp] theorem State.wakeGroups_lastWrite (gs : List Nat) : (s.wakeGroups gs).lastWrite = s.lastWrite := rfl
@[simp] theorem State.wakeGroups_user (gs : List Nat) : (s.wakeGroups gs).user = s.user := rfl
@[simp] theorem State.wakeGroups_trail (gs : List Nat) : (s.wakeGroups gs).trail = s.trail := rfl
@[simp] theorem State.wakeGroups_freeCtr (gs : List Nat) : (s.wakeGroups gs).freeCtr = s.freeCtr := rfl
@[simp] theorem State.wakeGroups_pending (gs : List Nat) : (s.wakeGroups gs).pending = s.pending := rfl

@[simp] theorem State.updCore_die (k : Nat) (f : CoreSlot → CoreSlot) : (s.updCore k f).die = s.die := rfl
@[simp] theorem State.updCore_darn (k : Nat) (f : CoreSlot → CoreSlot) : (s.updCore k f).darn = s.darn := rfl
@[simp] theorem State.updCore_mem (k : Nat) (f : CoreSlot → CoreSlot) : (s.updCore k f).mem = s.mem := rfl
@[simp] theorem State.updCore_flash (k : Nat) (f : CoreSlot → CoreSlot) : (s.updCore k f).flash = s.flash := rfl
@[simp] theorem State.updCore_ptn (k : Nat) (f : CoreSlot → CoreSlot) : (s.updCore k f).ptn = s.ptn := rfl
@[simp] theorem State.updCore_fe (k : Nat) (f : CoreSlot → CoreSlot) : (s.updCore k f).fe = s.fe := rfl
@[simp] theorem State.updCore_ctxs (k : Nat) (f : CoreSlot → CoreSlot) : (s.updCore k f).ctxs = s.ctxs := rfl
@[simp] theorem State.updCore_queues (k : Nat) (f : CoreSlot → CoreSlot) : (s.updCore k f).queues = s.queues := rfl
@[simp] theorem State.updCore_jobs (k : Nat) (f : CoreSlot → CoreSlot) : (s.updCore k f).jobs = s.jobs := rfl
@[simp] theorem State.updCore_flt (k : Nat) (f : CoreSlot → CoreSlot) : (s.updCore k f).flt = s.flt := rfl
@[simp] theorem State.updCore_mmu (k : Nat) (f : CoreSlot → CoreSlot) : (s.updCore k f).mmu = s.mmu := rfl
@[simp] theorem State.updCore_det (k : Nat) (f : CoreSlot → CoreSlot) : (s.updCore k f).det = s.det := rfl
@[simp] theorem State.updCore_ic (k : Nat) (f : CoreSlot → CoreSlot) : (s.updCore k f).ic = s.ic := rfl
@[simp] theorem State.updCore_spl (k : Nat) (f : CoreSlot → CoreSlot) : (s.updCore k f).spl = s.spl := rfl
@[simp] theorem State.updCore_l3c (k : Nat) (f : CoreSlot → CoreSlot) : (s.updCore k f).l3c = s.l3c := rfl
@[simp] theorem State.updCore_lines (k : Nat) (f : CoreSlot → CoreSlot) : (s.updCore k f).lines = s.lines := rfl
@[simp] theorem State.updCore_cmp (k : Nat) (f : CoreSlot → CoreSlot) : (s.updCore k f).cmp = s.cmp := rfl
@[simp] theorem State.updCore_clusters (k : Nat) (f : CoreSlot → CoreSlot) : (s.updCore k f).clusters = s.clusters := rfl
theorem State.updCore_cores (k : Nat) (f : CoreSlot → CoreSlot) : (s.updCore k f).cores = s.cores.set k (f (s.cores.get {} k)) := rfl
@[simp] theorem State.updCore_groups (k : Nat) (f : CoreSlot → CoreSlot) : (s.updCore k f).groups = s.groups := rfl
@[simp] theorem State.updCore_blocks (k : Nat) (f : CoreSlot → CoreSlot) : (s.updCore k f).blocks = s.blocks := rfl
@[simp] theorem State.updCore_deltas (k : Nat) (f : CoreSlot → CoreSlot) : (s.updCore k f).deltas = s.deltas := rfl
@[simp] theorem State.updCore_dsp (k : Nat) (f : CoreSlot → CoreSlot) : (s.updCore k f).dsp = s.dsp := rfl
@[simp] theorem State.updCore_pwr (k : Nat) (f : CoreSlot → CoreSlot) : (s.updCore k f).pwr = s.pwr := rfl
@[simp] theorem State.updCore_slk (k : Nat) (f : CoreSlot → CoreSlot) : (s.updCore k f).slk = s.slk := rfl
@[simp] theorem State.updCore_mc (k : Nat) (f : CoreSlot → CoreSlot) : (s.updCore k f).mc = s.mc := rfl
@[simp] theorem State.updCore_svc (k : Nat) (f : CoreSlot → CoreSlot) : (s.updCore k f).svc = s.svc := rfl
@[simp] theorem State.updCore_jtag (k : Nat) (f : CoreSlot → CoreSlot) : (s.updCore k f).jtag = s.jtag := rfl
@[simp] theorem State.updCore_frames (k : Nat) (f : CoreSlot → CoreSlot) : (s.updCore k f).frames = s.frames := rfl
@[simp] theorem State.updCore_writes (k : Nat) (f : CoreSlot → CoreSlot) : (s.updCore k f).writes = s.writes := rfl
@[simp] theorem State.updCore_lastWrite (k : Nat) (f : CoreSlot → CoreSlot) : (s.updCore k f).lastWrite = s.lastWrite := rfl
@[simp] theorem State.updCore_user (k : Nat) (f : CoreSlot → CoreSlot) : (s.updCore k f).user = s.user := rfl
@[simp] theorem State.updCore_trail (k : Nat) (f : CoreSlot → CoreSlot) : (s.updCore k f).trail = s.trail := rfl
@[simp] theorem State.updCore_freeCtr (k : Nat) (f : CoreSlot → CoreSlot) : (s.updCore k f).freeCtr = s.freeCtr := rfl
@[simp] theorem State.updCore_pending (k : Nat) (f : CoreSlot → CoreSlot) : (s.updCore k f).pending = s.pending := rfl

@[simp] theorem State.updCluster_die (c : Nat) (f : Cluster → Cluster) : (s.updCluster c f).die = s.die := rfl
@[simp] theorem State.updCluster_darn (c : Nat) (f : Cluster → Cluster) : (s.updCluster c f).darn = s.darn := rfl
@[simp] theorem State.updCluster_mem (c : Nat) (f : Cluster → Cluster) : (s.updCluster c f).mem = s.mem := rfl
@[simp] theorem State.updCluster_flash (c : Nat) (f : Cluster → Cluster) : (s.updCluster c f).flash = s.flash := rfl
@[simp] theorem State.updCluster_ptn (c : Nat) (f : Cluster → Cluster) : (s.updCluster c f).ptn = s.ptn := rfl
@[simp] theorem State.updCluster_fe (c : Nat) (f : Cluster → Cluster) : (s.updCluster c f).fe = s.fe := rfl
@[simp] theorem State.updCluster_ctxs (c : Nat) (f : Cluster → Cluster) : (s.updCluster c f).ctxs = s.ctxs := rfl
@[simp] theorem State.updCluster_queues (c : Nat) (f : Cluster → Cluster) : (s.updCluster c f).queues = s.queues := rfl
@[simp] theorem State.updCluster_jobs (c : Nat) (f : Cluster → Cluster) : (s.updCluster c f).jobs = s.jobs := rfl
@[simp] theorem State.updCluster_flt (c : Nat) (f : Cluster → Cluster) : (s.updCluster c f).flt = s.flt := rfl
@[simp] theorem State.updCluster_mmu (c : Nat) (f : Cluster → Cluster) : (s.updCluster c f).mmu = s.mmu := rfl
@[simp] theorem State.updCluster_det (c : Nat) (f : Cluster → Cluster) : (s.updCluster c f).det = s.det := rfl
@[simp] theorem State.updCluster_ic (c : Nat) (f : Cluster → Cluster) : (s.updCluster c f).ic = s.ic := rfl
@[simp] theorem State.updCluster_spl (c : Nat) (f : Cluster → Cluster) : (s.updCluster c f).spl = s.spl := rfl
@[simp] theorem State.updCluster_l3c (c : Nat) (f : Cluster → Cluster) : (s.updCluster c f).l3c = s.l3c := rfl
@[simp] theorem State.updCluster_lines (c : Nat) (f : Cluster → Cluster) : (s.updCluster c f).lines = s.lines := rfl
@[simp] theorem State.updCluster_cmp (c : Nat) (f : Cluster → Cluster) : (s.updCluster c f).cmp = s.cmp := rfl
theorem State.updCluster_clusters (c : Nat) (f : Cluster → Cluster) : (s.updCluster c f).clusters = s.clusters.set c (f (s.clusters.get {} c)) := rfl
@[simp] theorem State.updCluster_cores (c : Nat) (f : Cluster → Cluster) : (s.updCluster c f).cores = s.cores := rfl
@[simp] theorem State.updCluster_groups (c : Nat) (f : Cluster → Cluster) : (s.updCluster c f).groups = s.groups := rfl
@[simp] theorem State.updCluster_blocks (c : Nat) (f : Cluster → Cluster) : (s.updCluster c f).blocks = s.blocks := rfl
@[simp] theorem State.updCluster_deltas (c : Nat) (f : Cluster → Cluster) : (s.updCluster c f).deltas = s.deltas := rfl
@[simp] theorem State.updCluster_dsp (c : Nat) (f : Cluster → Cluster) : (s.updCluster c f).dsp = s.dsp := rfl
@[simp] theorem State.updCluster_pwr (c : Nat) (f : Cluster → Cluster) : (s.updCluster c f).pwr = s.pwr := rfl
@[simp] theorem State.updCluster_slk (c : Nat) (f : Cluster → Cluster) : (s.updCluster c f).slk = s.slk := rfl
@[simp] theorem State.updCluster_mc (c : Nat) (f : Cluster → Cluster) : (s.updCluster c f).mc = s.mc := rfl
@[simp] theorem State.updCluster_svc (c : Nat) (f : Cluster → Cluster) : (s.updCluster c f).svc = s.svc := rfl
@[simp] theorem State.updCluster_jtag (c : Nat) (f : Cluster → Cluster) : (s.updCluster c f).jtag = s.jtag := rfl
@[simp] theorem State.updCluster_frames (c : Nat) (f : Cluster → Cluster) : (s.updCluster c f).frames = s.frames := rfl
@[simp] theorem State.updCluster_writes (c : Nat) (f : Cluster → Cluster) : (s.updCluster c f).writes = s.writes := rfl
@[simp] theorem State.updCluster_lastWrite (c : Nat) (f : Cluster → Cluster) : (s.updCluster c f).lastWrite = s.lastWrite := rfl
@[simp] theorem State.updCluster_user (c : Nat) (f : Cluster → Cluster) : (s.updCluster c f).user = s.user := rfl
@[simp] theorem State.updCluster_trail (c : Nat) (f : Cluster → Cluster) : (s.updCluster c f).trail = s.trail := rfl
@[simp] theorem State.updCluster_freeCtr (c : Nat) (f : Cluster → Cluster) : (s.updCluster c f).freeCtr = s.freeCtr := rfl
@[simp] theorem State.updCluster_pending (c : Nat) (f : Cluster → Cluster) : (s.updCluster c f).pending = s.pending := rfl

@[simp] theorem State.updEngine_die (e : Nat) (f : CmpEngine → CmpEngine) : (s.updEngine e f).die = s.die := rfl
@[simp] theorem State.updEngine_darn (e : Nat) (f : CmpEngine → CmpEngine) : (s.updEngine e f).darn = s.darn := rfl
@[simp] theorem State.updEngine_mem (e : Nat) (f : CmpEngine → CmpEngine) : (s.updEngine e f).mem = s.mem := rfl
@[simp] theorem State.updEngine_flash (e : Nat) (f : CmpEngine → CmpEngine) : (s.updEngine e f).flash = s.flash := rfl
@[simp] theorem State.updEngine_ptn (e : Nat) (f : CmpEngine → CmpEngine) : (s.updEngine e f).ptn = s.ptn := rfl
@[simp] theorem State.updEngine_fe (e : Nat) (f : CmpEngine → CmpEngine) : (s.updEngine e f).fe = s.fe := rfl
@[simp] theorem State.updEngine_ctxs (e : Nat) (f : CmpEngine → CmpEngine) : (s.updEngine e f).ctxs = s.ctxs := rfl
@[simp] theorem State.updEngine_queues (e : Nat) (f : CmpEngine → CmpEngine) : (s.updEngine e f).queues = s.queues := rfl
@[simp] theorem State.updEngine_jobs (e : Nat) (f : CmpEngine → CmpEngine) : (s.updEngine e f).jobs = s.jobs := rfl
@[simp] theorem State.updEngine_flt (e : Nat) (f : CmpEngine → CmpEngine) : (s.updEngine e f).flt = s.flt := rfl
@[simp] theorem State.updEngine_mmu (e : Nat) (f : CmpEngine → CmpEngine) : (s.updEngine e f).mmu = s.mmu := rfl
@[simp] theorem State.updEngine_det (e : Nat) (f : CmpEngine → CmpEngine) : (s.updEngine e f).det = s.det := rfl
@[simp] theorem State.updEngine_ic (e : Nat) (f : CmpEngine → CmpEngine) : (s.updEngine e f).ic = s.ic := rfl
@[simp] theorem State.updEngine_spl (e : Nat) (f : CmpEngine → CmpEngine) : (s.updEngine e f).spl = s.spl := rfl
@[simp] theorem State.updEngine_l3c (e : Nat) (f : CmpEngine → CmpEngine) : (s.updEngine e f).l3c = s.l3c := rfl
@[simp] theorem State.updEngine_lines (e : Nat) (f : CmpEngine → CmpEngine) : (s.updEngine e f).lines = s.lines := rfl
@[simp] theorem State.updEngine_clusters (e : Nat) (f : CmpEngine → CmpEngine) : (s.updEngine e f).clusters = s.clusters := rfl
@[simp] theorem State.updEngine_cores (e : Nat) (f : CmpEngine → CmpEngine) : (s.updEngine e f).cores = s.cores := rfl
@[simp] theorem State.updEngine_groups (e : Nat) (f : CmpEngine → CmpEngine) : (s.updEngine e f).groups = s.groups := rfl
@[simp] theorem State.updEngine_blocks (e : Nat) (f : CmpEngine → CmpEngine) : (s.updEngine e f).blocks = s.blocks := rfl
@[simp] theorem State.updEngine_deltas (e : Nat) (f : CmpEngine → CmpEngine) : (s.updEngine e f).deltas = s.deltas := rfl
@[simp] theorem State.updEngine_dsp (e : Nat) (f : CmpEngine → CmpEngine) : (s.updEngine e f).dsp = s.dsp := rfl
@[simp] theorem State.updEngine_pwr (e : Nat) (f : CmpEngine → CmpEngine) : (s.updEngine e f).pwr = s.pwr := rfl
@[simp] theorem State.updEngine_slk (e : Nat) (f : CmpEngine → CmpEngine) : (s.updEngine e f).slk = s.slk := rfl
@[simp] theorem State.updEngine_mc (e : Nat) (f : CmpEngine → CmpEngine) : (s.updEngine e f).mc = s.mc := rfl
@[simp] theorem State.updEngine_svc (e : Nat) (f : CmpEngine → CmpEngine) : (s.updEngine e f).svc = s.svc := rfl
@[simp] theorem State.updEngine_jtag (e : Nat) (f : CmpEngine → CmpEngine) : (s.updEngine e f).jtag = s.jtag := rfl
@[simp] theorem State.updEngine_frames (e : Nat) (f : CmpEngine → CmpEngine) : (s.updEngine e f).frames = s.frames := rfl
@[simp] theorem State.updEngine_writes (e : Nat) (f : CmpEngine → CmpEngine) : (s.updEngine e f).writes = s.writes := rfl
@[simp] theorem State.updEngine_lastWrite (e : Nat) (f : CmpEngine → CmpEngine) : (s.updEngine e f).lastWrite = s.lastWrite := rfl
@[simp] theorem State.updEngine_user (e : Nat) (f : CmpEngine → CmpEngine) : (s.updEngine e f).user = s.user := rfl
@[simp] theorem State.updEngine_trail (e : Nat) (f : CmpEngine → CmpEngine) : (s.updEngine e f).trail = s.trail := rfl
@[simp] theorem State.updEngine_freeCtr (e : Nat) (f : CmpEngine → CmpEngine) : (s.updEngine e f).freeCtr = s.freeCtr := rfl
@[simp] theorem State.updEngine_pending (e : Nat) (f : CmpEngine → CmpEngine) : (s.updEngine e f).pending = s.pending := rfl

@[simp] theorem State.cmpEvent_die (i : Nat) : (s.cmpEvent i).die = s.die := rfl
@[simp] theorem State.cmpEvent_darn (i : Nat) : (s.cmpEvent i).darn = s.darn := rfl
@[simp] theorem State.cmpEvent_mem (i : Nat) : (s.cmpEvent i).mem = s.mem := rfl
@[simp] theorem State.cmpEvent_flash (i : Nat) : (s.cmpEvent i).flash = s.flash := rfl
@[simp] theorem State.cmpEvent_ptn (i : Nat) : (s.cmpEvent i).ptn = s.ptn := rfl
@[simp] theorem State.cmpEvent_fe (i : Nat) : (s.cmpEvent i).fe = s.fe := rfl
@[simp] theorem State.cmpEvent_ctxs (i : Nat) : (s.cmpEvent i).ctxs = s.ctxs := rfl
@[simp] theorem State.cmpEvent_queues (i : Nat) : (s.cmpEvent i).queues = s.queues := rfl
@[simp] theorem State.cmpEvent_jobs (i : Nat) : (s.cmpEvent i).jobs = s.jobs := rfl
@[simp] theorem State.cmpEvent_flt (i : Nat) : (s.cmpEvent i).flt = s.flt := rfl
@[simp] theorem State.cmpEvent_mmu (i : Nat) : (s.cmpEvent i).mmu = s.mmu := rfl
@[simp] theorem State.cmpEvent_det (i : Nat) : (s.cmpEvent i).det = s.det := rfl
@[simp] theorem State.cmpEvent_ic (i : Nat) : (s.cmpEvent i).ic = s.ic := rfl
@[simp] theorem State.cmpEvent_spl (i : Nat) : (s.cmpEvent i).spl = s.spl := rfl
@[simp] theorem State.cmpEvent_l3c (i : Nat) : (s.cmpEvent i).l3c = s.l3c := rfl
@[simp] theorem State.cmpEvent_lines (i : Nat) : (s.cmpEvent i).lines = s.lines := rfl
theorem State.cmpEvent_cmp (i : Nat) : (s.cmpEvent i).cmp = { s.cmp with events := setBit s.cmp.events i true } := rfl
@[simp] theorem State.cmpEvent_clusters (i : Nat) : (s.cmpEvent i).clusters = s.clusters := rfl
@[simp] theorem State.cmpEvent_cores (i : Nat) : (s.cmpEvent i).cores = s.cores := rfl
@[simp] theorem State.cmpEvent_groups (i : Nat) : (s.cmpEvent i).groups = s.groups := rfl
@[simp] theorem State.cmpEvent_blocks (i : Nat) : (s.cmpEvent i).blocks = s.blocks := rfl
@[simp] theorem State.cmpEvent_deltas (i : Nat) : (s.cmpEvent i).deltas = s.deltas := rfl
@[simp] theorem State.cmpEvent_dsp (i : Nat) : (s.cmpEvent i).dsp = s.dsp := rfl
@[simp] theorem State.cmpEvent_pwr (i : Nat) : (s.cmpEvent i).pwr = s.pwr := rfl
@[simp] theorem State.cmpEvent_slk (i : Nat) : (s.cmpEvent i).slk = s.slk := rfl
@[simp] theorem State.cmpEvent_mc (i : Nat) : (s.cmpEvent i).mc = s.mc := rfl
@[simp] theorem State.cmpEvent_svc (i : Nat) : (s.cmpEvent i).svc = s.svc := rfl
@[simp] theorem State.cmpEvent_jtag (i : Nat) : (s.cmpEvent i).jtag = s.jtag := rfl
@[simp] theorem State.cmpEvent_frames (i : Nat) : (s.cmpEvent i).frames = s.frames := rfl
@[simp] theorem State.cmpEvent_writes (i : Nat) : (s.cmpEvent i).writes = s.writes := rfl
@[simp] theorem State.cmpEvent_lastWrite (i : Nat) : (s.cmpEvent i).lastWrite = s.lastWrite := rfl
@[simp] theorem State.cmpEvent_user (i : Nat) : (s.cmpEvent i).user = s.user := rfl
@[simp] theorem State.cmpEvent_trail (i : Nat) : (s.cmpEvent i).trail = s.trail := rfl
@[simp] theorem State.cmpEvent_freeCtr (i : Nat) : (s.cmpEvent i).freeCtr = s.freeCtr := rfl
@[simp] theorem State.cmpEvent_pending (i : Nat) : (s.cmpEvent i).pending = s.pending := rfl

@[simp] theorem State.setPipe_die (p : Nat) (x : Pipe) : (s.setPipe p x).die = s.die := rfl
@[simp] theorem State.setPipe_darn (p : Nat) (x : Pipe) : (s.setPipe p x).darn = s.darn := rfl
@[simp] theorem State.setPipe_mem (p : Nat) (x : Pipe) : (s.setPipe p x).mem = s.mem := rfl
@[simp] theorem State.setPipe_flash (p : Nat) (x : Pipe) : (s.setPipe p x).flash = s.flash := rfl
@[simp] theorem State.setPipe_ptn (p : Nat) (x : Pipe) : (s.setPipe p x).ptn = s.ptn := rfl
@[simp] theorem State.setPipe_fe (p : Nat) (x : Pipe) : (s.setPipe p x).fe = s.fe := rfl
@[simp] theorem State.setPipe_ctxs (p : Nat) (x : Pipe) : (s.setPipe p x).ctxs = s.ctxs := rfl
@[simp] theorem State.setPipe_queues (p : Nat) (x : Pipe) : (s.setPipe p x).queues = s.queues := rfl
@[simp] theorem State.setPipe_jobs (p : Nat) (x : Pipe) : (s.setPipe p x).jobs = s.jobs := rfl
@[simp] theorem State.setPipe_flt (p : Nat) (x : Pipe) : (s.setPipe p x).flt = s.flt := rfl
@[simp] theorem State.setPipe_mmu (p : Nat) (x : Pipe) : (s.setPipe p x).mmu = s.mmu := rfl
@[simp] theorem State.setPipe_det (p : Nat) (x : Pipe) : (s.setPipe p x).det = s.det := rfl
@[simp] theorem State.setPipe_ic (p : Nat) (x : Pipe) : (s.setPipe p x).ic = s.ic := rfl
@[simp] theorem State.setPipe_spl (p : Nat) (x : Pipe) : (s.setPipe p x).spl = s.spl := rfl
@[simp] theorem State.setPipe_l3c (p : Nat) (x : Pipe) : (s.setPipe p x).l3c = s.l3c := rfl
@[simp] theorem State.setPipe_lines (p : Nat) (x : Pipe) : (s.setPipe p x).lines = s.lines := rfl
@[simp] theorem State.setPipe_cmp (p : Nat) (x : Pipe) : (s.setPipe p x).cmp = s.cmp := rfl
@[simp] theorem State.setPipe_clusters (p : Nat) (x : Pipe) : (s.setPipe p x).clusters = s.clusters := rfl
@[simp] theorem State.setPipe_cores (p : Nat) (x : Pipe) : (s.setPipe p x).cores = s.cores := rfl
@[simp] theorem State.setPipe_groups (p : Nat) (x : Pipe) : (s.setPipe p x).groups = s.groups := rfl
@[simp] theorem State.setPipe_blocks (p : Nat) (x : Pipe) : (s.setPipe p x).blocks = s.blocks := rfl
@[simp] theorem State.setPipe_deltas (p : Nat) (x : Pipe) : (s.setPipe p x).deltas = s.deltas := rfl
theorem State.setPipe_dsp (p : Nat) (x : Pipe) : (s.setPipe p x).dsp = { s.dsp with pipes := s.dsp.pipes.set p x } := rfl
@[simp] theorem State.setPipe_pwr (p : Nat) (x : Pipe) : (s.setPipe p x).pwr = s.pwr := rfl
@[simp] theorem State.setPipe_slk (p : Nat) (x : Pipe) : (s.setPipe p x).slk = s.slk := rfl
@[simp] theorem State.setPipe_mc (p : Nat) (x : Pipe) : (s.setPipe p x).mc = s.mc := rfl
@[simp] theorem State.setPipe_svc (p : Nat) (x : Pipe) : (s.setPipe p x).svc = s.svc := rfl
@[simp] theorem State.setPipe_jtag (p : Nat) (x : Pipe) : (s.setPipe p x).jtag = s.jtag := rfl
@[simp] theorem State.setPipe_frames (p : Nat) (x : Pipe) : (s.setPipe p x).frames = s.frames := rfl
@[simp] theorem State.setPipe_writes (p : Nat) (x : Pipe) : (s.setPipe p x).writes = s.writes := rfl
@[simp] theorem State.setPipe_lastWrite (p : Nat) (x : Pipe) : (s.setPipe p x).lastWrite = s.lastWrite := rfl
@[simp] theorem State.setPipe_user (p : Nat) (x : Pipe) : (s.setPipe p x).user = s.user := rfl
@[simp] theorem State.setPipe_trail (p : Nat) (x : Pipe) : (s.setPipe p x).trail = s.trail := rfl
@[simp] theorem State.setPipe_freeCtr (p : Nat) (x : Pipe) : (s.setPipe p x).freeCtr = s.freeCtr := rfl
@[simp] theorem State.setPipe_pending (p : Nat) (x : Pipe) : (s.setPipe p x).pending = s.pending := rfl

@[simp] theorem State.dspEvent_die (i : Nat) : (s.dspEvent i).die = s.die := rfl
@[simp] theorem State.dspEvent_darn (i : Nat) : (s.dspEvent i).darn = s.darn := rfl
@[simp] theorem State.dspEvent_mem (i : Nat) : (s.dspEvent i).mem = s.mem := rfl
@[simp] theorem State.dspEvent_flash (i : Nat) : (s.dspEvent i).flash = s.flash := rfl
@[simp] theorem State.dspEvent_ptn (i : Nat) : (s.dspEvent i).ptn = s.ptn := rfl
@[simp] theorem State.dspEvent_fe (i : Nat) : (s.dspEvent i).fe = s.fe := rfl
@[simp] theorem State.dspEvent_ctxs (i : Nat) : (s.dspEvent i).ctxs = s.ctxs := rfl
@[simp] theorem State.dspEvent_queues (i : Nat) : (s.dspEvent i).queues = s.queues := rfl
@[simp] theorem State.dspEvent_jobs (i : Nat) : (s.dspEvent i).jobs = s.jobs := rfl
@[simp] theorem State.dspEvent_flt (i : Nat) : (s.dspEvent i).flt = s.flt := rfl
@[simp] theorem State.dspEvent_mmu (i : Nat) : (s.dspEvent i).mmu = s.mmu := rfl
@[simp] theorem State.dspEvent_det (i : Nat) : (s.dspEvent i).det = s.det := rfl
@[simp] theorem State.dspEvent_ic (i : Nat) : (s.dspEvent i).ic = s.ic := rfl
@[simp] theorem State.dspEvent_spl (i : Nat) : (s.dspEvent i).spl = s.spl := rfl
@[simp] theorem State.dspEvent_l3c (i : Nat) : (s.dspEvent i).l3c = s.l3c := rfl
@[simp] theorem State.dspEvent_lines (i : Nat) : (s.dspEvent i).lines = s.lines := rfl
@[simp] theorem State.dspEvent_cmp (i : Nat) : (s.dspEvent i).cmp = s.cmp := rfl
@[simp] theorem State.dspEvent_clusters (i : Nat) : (s.dspEvent i).clusters = s.clusters := rfl
@[simp] theorem State.dspEvent_cores (i : Nat) : (s.dspEvent i).cores = s.cores := rfl
@[simp] theorem State.dspEvent_groups (i : Nat) : (s.dspEvent i).groups = s.groups := rfl
@[simp] theorem State.dspEvent_blocks (i : Nat) : (s.dspEvent i).blocks = s.blocks := rfl
@[simp] theorem State.dspEvent_deltas (i : Nat) : (s.dspEvent i).deltas = s.deltas := rfl
theorem State.dspEvent_dsp (i : Nat) : (s.dspEvent i).dsp = { s.dsp with events := setBit s.dsp.events i true } := rfl
@[simp] theorem State.dspEvent_pwr (i : Nat) : (s.dspEvent i).pwr = s.pwr := rfl
@[simp] theorem State.dspEvent_slk (i : Nat) : (s.dspEvent i).slk = s.slk := rfl
@[simp] theorem State.dspEvent_mc (i : Nat) : (s.dspEvent i).mc = s.mc := rfl
@[simp] theorem State.dspEvent_svc (i : Nat) : (s.dspEvent i).svc = s.svc := rfl
@[simp] theorem State.dspEvent_jtag (i : Nat) : (s.dspEvent i).jtag = s.jtag := rfl
@[simp] theorem State.dspEvent_frames (i : Nat) : (s.dspEvent i).frames = s.frames := rfl
@[simp] theorem State.dspEvent_writes (i : Nat) : (s.dspEvent i).writes = s.writes := rfl
@[simp] theorem State.dspEvent_lastWrite (i : Nat) : (s.dspEvent i).lastWrite = s.lastWrite := rfl
@[simp] theorem State.dspEvent_user (i : Nat) : (s.dspEvent i).user = s.user := rfl
@[simp] theorem State.dspEvent_trail (i : Nat) : (s.dspEvent i).trail = s.trail := rfl
@[simp] theorem State.dspEvent_freeCtr (i : Nat) : (s.dspEvent i).freeCtr = s.freeCtr := rfl
@[simp] theorem State.dspEvent_pending (i : Nat) : (s.dspEvent i).pending = s.pending := rfl

@[simp] theorem State.updVector_die (v : Nat) (f : IcVector → IcVector) : (s.updVector v f).die = s.die := rfl
@[simp] theorem State.updVector_darn (v : Nat) (f : IcVector → IcVector) : (s.updVector v f).darn = s.darn := rfl
@[simp] theorem State.updVector_mem (v : Nat) (f : IcVector → IcVector) : (s.updVector v f).mem = s.mem := rfl
@[simp] theorem State.updVector_flash (v : Nat) (f : IcVector → IcVector) : (s.updVector v f).flash = s.flash := rfl
@[simp] theorem State.updVector_ptn (v : Nat) (f : IcVector → IcVector) : (s.updVector v f).ptn = s.ptn := rfl
@[simp] theorem State.updVector_fe (v : Nat) (f : IcVector → IcVector) : (s.updVector v f).fe = s.fe := rfl
@[simp] theorem State.updVector_ctxs (v : Nat) (f : IcVector → IcVector) : (s.updVector v f).ctxs = s.ctxs := rfl
@[simp] theorem State.updVector_queues (v : Nat) (f : IcVector → IcVector) : (s.updVector v f).queues = s.queues := rfl
@[simp] theorem State.updVector_jobs (v : Nat) (f : IcVector → IcVector) : (s.updVector v f).jobs = s.jobs := rfl
@[simp] theorem State.updVector_flt (v : Nat) (f : IcVector → IcVector) : (s.updVector v f).flt = s.flt := rfl
@[simp] theorem State.updVector_mmu (v : Nat) (f : IcVector → IcVector) : (s.updVector v f).mmu = s.mmu := rfl
@[simp] theorem State.updVector_det (v : Nat) (f : IcVector → IcVector) : (s.updVector v f).det = s.det := rfl
theorem State.updVector_ic (v : Nat) (f : IcVector → IcVector) : (s.updVector v f).ic = { s.ic with vectors := s.ic.vectors.set v (f (s.vector v)) } := rfl
@[simp] theorem State.updVector_spl (v : Nat) (f : IcVector → IcVector) : (s.updVector v f).spl = s.spl := rfl
@[simp] theorem State.updVector_l3c (v : Nat) (f : IcVector → IcVector) : (s.updVector v f).l3c = s.l3c := rfl
@[simp] theorem State.updVector_lines (v : Nat) (f : IcVector → IcVector) : (s.updVector v f).lines = s.lines := rfl
@[simp] theorem State.updVector_cmp (v : Nat) (f : IcVector → IcVector) : (s.updVector v f).cmp = s.cmp := rfl
@[simp] theorem State.updVector_clusters (v : Nat) (f : IcVector → IcVector) : (s.updVector v f).clusters = s.clusters := rfl
@[simp] theorem State.updVector_cores (v : Nat) (f : IcVector → IcVector) : (s.updVector v f).cores = s.cores := rfl
@[simp] theorem State.updVector_groups (v : Nat) (f : IcVector → IcVector) : (s.updVector v f).groups = s.groups := rfl
@[simp] theorem State.updVector_blocks (v : Nat) (f : IcVector → IcVector) : (s.updVector v f).blocks = s.blocks := rfl
@[simp] theorem State.updVector_deltas (v : Nat) (f : IcVector → IcVector) : (s.updVector v f).deltas = s.deltas := rfl
@[simp] theorem State.updVector_dsp (v : Nat) (f : IcVector → IcVector) : (s.updVector v f).dsp = s.dsp := rfl
@[simp] theorem State.updVector_pwr (v : Nat) (f : IcVector → IcVector) : (s.updVector v f).pwr = s.pwr := rfl
@[simp] theorem State.updVector_slk (v : Nat) (f : IcVector → IcVector) : (s.updVector v f).slk = s.slk := rfl
@[simp] theorem State.updVector_mc (v : Nat) (f : IcVector → IcVector) : (s.updVector v f).mc = s.mc := rfl
@[simp] theorem State.updVector_svc (v : Nat) (f : IcVector → IcVector) : (s.updVector v f).svc = s.svc := rfl
@[simp] theorem State.updVector_jtag (v : Nat) (f : IcVector → IcVector) : (s.updVector v f).jtag = s.jtag := rfl
@[simp] theorem State.updVector_frames (v : Nat) (f : IcVector → IcVector) : (s.updVector v f).frames = s.frames := rfl
@[simp] theorem State.updVector_writes (v : Nat) (f : IcVector → IcVector) : (s.updVector v f).writes = s.writes := rfl
@[simp] theorem State.updVector_lastWrite (v : Nat) (f : IcVector → IcVector) : (s.updVector v f).lastWrite = s.lastWrite := rfl
@[simp] theorem State.updVector_user (v : Nat) (f : IcVector → IcVector) : (s.updVector v f).user = s.user := rfl
@[simp] theorem State.updVector_trail (v : Nat) (f : IcVector → IcVector) : (s.updVector v f).trail = s.trail := rfl
@[simp] theorem State.updVector_freeCtr (v : Nat) (f : IcVector → IcVector) : (s.updVector v f).freeCtr = s.freeCtr := rfl
@[simp] theorem State.updVector_pending (v : Nat) (f : IcVector → IcVector) : (s.updVector v f).pending = s.pending := rfl

@[simp] theorem State.updChannel_die (c : Nat) (f : Channel → Channel) : (s.updChannel c f).die = s.die := rfl
@[simp] theorem State.updChannel_darn (c : Nat) (f : Channel → Channel) : (s.updChannel c f).darn = s.darn := rfl
@[simp] theorem State.updChannel_mem (c : Nat) (f : Channel → Channel) : (s.updChannel c f).mem = s.mem := rfl
@[simp] theorem State.updChannel_flash (c : Nat) (f : Channel → Channel) : (s.updChannel c f).flash = s.flash := rfl
@[simp] theorem State.updChannel_ptn (c : Nat) (f : Channel → Channel) : (s.updChannel c f).ptn = s.ptn := rfl
@[simp] theorem State.updChannel_fe (c : Nat) (f : Channel → Channel) : (s.updChannel c f).fe = s.fe := rfl
@[simp] theorem State.updChannel_ctxs (c : Nat) (f : Channel → Channel) : (s.updChannel c f).ctxs = s.ctxs := rfl
@[simp] theorem State.updChannel_queues (c : Nat) (f : Channel → Channel) : (s.updChannel c f).queues = s.queues := rfl
@[simp] theorem State.updChannel_jobs (c : Nat) (f : Channel → Channel) : (s.updChannel c f).jobs = s.jobs := rfl
@[simp] theorem State.updChannel_flt (c : Nat) (f : Channel → Channel) : (s.updChannel c f).flt = s.flt := rfl
@[simp] theorem State.updChannel_mmu (c : Nat) (f : Channel → Channel) : (s.updChannel c f).mmu = s.mmu := rfl
@[simp] theorem State.updChannel_det (c : Nat) (f : Channel → Channel) : (s.updChannel c f).det = s.det := rfl
@[simp] theorem State.updChannel_ic (c : Nat) (f : Channel → Channel) : (s.updChannel c f).ic = s.ic := rfl
@[simp] theorem State.updChannel_spl (c : Nat) (f : Channel → Channel) : (s.updChannel c f).spl = s.spl := rfl
@[simp] theorem State.updChannel_l3c (c : Nat) (f : Channel → Channel) : (s.updChannel c f).l3c = s.l3c := rfl
@[simp] theorem State.updChannel_lines (c : Nat) (f : Channel → Channel) : (s.updChannel c f).lines = s.lines := rfl
@[simp] theorem State.updChannel_cmp (c : Nat) (f : Channel → Channel) : (s.updChannel c f).cmp = s.cmp := rfl
@[simp] theorem State.updChannel_clusters (c : Nat) (f : Channel → Channel) : (s.updChannel c f).clusters = s.clusters := rfl
@[simp] theorem State.updChannel_cores (c : Nat) (f : Channel → Channel) : (s.updChannel c f).cores = s.cores := rfl
@[simp] theorem State.updChannel_groups (c : Nat) (f : Channel → Channel) : (s.updChannel c f).groups = s.groups := rfl
@[simp] theorem State.updChannel_blocks (c : Nat) (f : Channel → Channel) : (s.updChannel c f).blocks = s.blocks := rfl
@[simp] theorem State.updChannel_deltas (c : Nat) (f : Channel → Channel) : (s.updChannel c f).deltas = s.deltas := rfl
@[simp] theorem State.updChannel_dsp (c : Nat) (f : Channel → Channel) : (s.updChannel c f).dsp = s.dsp := rfl
@[simp] theorem State.updChannel_pwr (c : Nat) (f : Channel → Channel) : (s.updChannel c f).pwr = s.pwr := rfl
@[simp] theorem State.updChannel_slk (c : Nat) (f : Channel → Channel) : (s.updChannel c f).slk = s.slk := rfl
theorem State.updChannel_mc (c : Nat) (f : Channel → Channel) : (s.updChannel c f).mc = { s.mc with channels := s.mc.channels.set c (f (s.mc.channels.get {} c)) } := rfl
@[simp] theorem State.updChannel_svc (c : Nat) (f : Channel → Channel) : (s.updChannel c f).svc = s.svc := rfl
@[simp] theorem State.updChannel_jtag (c : Nat) (f : Channel → Channel) : (s.updChannel c f).jtag = s.jtag := rfl
@[simp] theorem State.updChannel_frames (c : Nat) (f : Channel → Channel) : (s.updChannel c f).frames = s.frames := rfl
@[simp] theorem State.updChannel_writes (c : Nat) (f : Channel → Channel) : (s.updChannel c f).writes = s.writes := rfl
@[simp] theorem State.updChannel_lastWrite (c : Nat) (f : Channel → Channel) : (s.updChannel c f).lastWrite = s.lastWrite := rfl
@[simp] theorem State.updChannel_user (c : Nat) (f : Channel → Channel) : (s.updChannel c f).user = s.user := rfl
@[simp] theorem State.updChannel_trail (c : Nat) (f : Channel → Channel) : (s.updChannel c f).trail = s.trail := rfl
@[simp] theorem State.updChannel_freeCtr (c : Nat) (f : Channel → Channel) : (s.updChannel c f).freeCtr = s.freeCtr := rfl
@[simp] theorem State.updChannel_pending (c : Nat) (f : Channel → Channel) : (s.updChannel c f).pending = s.pending := rfl

@[simp] theorem State.mcEvent_die (i : Nat) : (s.mcEvent i).die = s.die := rfl
@[simp] theorem State.mcEvent_darn (i : Nat) : (s.mcEvent i).darn = s.darn := rfl
@[simp] theorem State.mcEvent_mem (i : Nat) : (s.mcEvent i).mem = s.mem := rfl
@[simp] theorem State.mcEvent_flash (i : Nat) : (s.mcEvent i).flash = s.flash := rfl
@[simp] theorem State.mcEvent_ptn (i : Nat) : (s.mcEvent i).ptn = s.ptn := rfl
@[simp] theorem State.mcEvent_fe (i : Nat) : (s.mcEvent i).fe = s.fe := rfl
@[simp] theorem State.mcEvent_ctxs (i : Nat) : (s.mcEvent i).ctxs = s.ctxs := rfl
@[simp] theorem State.mcEvent_queues (i : Nat) : (s.mcEvent i).queues = s.queues := rfl
@[simp] theorem State.mcEvent_jobs (i : Nat) : (s.mcEvent i).jobs = s.jobs := rfl
@[simp] theorem State.mcEvent_flt (i : Nat) : (s.mcEvent i).flt = s.flt := rfl
@[simp] theorem State.mcEvent_mmu (i : Nat) : (s.mcEvent i).mmu = s.mmu := rfl
@[simp] theorem State.mcEvent_det (i : Nat) : (s.mcEvent i).det = s.det := rfl
@[simp] theorem State.mcEvent_ic (i : Nat) : (s.mcEvent i).ic = s.ic := rfl
@[simp] theorem State.mcEvent_spl (i : Nat) : (s.mcEvent i).spl = s.spl := rfl
@[simp] theorem State.mcEvent_l3c (i : Nat) : (s.mcEvent i).l3c = s.l3c := rfl
@[simp] theorem State.mcEvent_lines (i : Nat) : (s.mcEvent i).lines = s.lines := rfl
@[simp] theorem State.mcEvent_cmp (i : Nat) : (s.mcEvent i).cmp = s.cmp := rfl
@[simp] theorem State.mcEvent_clusters (i : Nat) : (s.mcEvent i).clusters = s.clusters := rfl
@[simp] theorem State.mcEvent_cores (i : Nat) : (s.mcEvent i).cores = s.cores := rfl
@[simp] theorem State.mcEvent_groups (i : Nat) : (s.mcEvent i).groups = s.groups := rfl
@[simp] theorem State.mcEvent_blocks (i : Nat) : (s.mcEvent i).blocks = s.blocks := rfl
@[simp] theorem State.mcEvent_deltas (i : Nat) : (s.mcEvent i).deltas = s.deltas := rfl
@[simp] theorem State.mcEvent_dsp (i : Nat) : (s.mcEvent i).dsp = s.dsp := rfl
@[simp] theorem State.mcEvent_pwr (i : Nat) : (s.mcEvent i).pwr = s.pwr := rfl
@[simp] theorem State.mcEvent_slk (i : Nat) : (s.mcEvent i).slk = s.slk := rfl
theorem State.mcEvent_mc (i : Nat) : (s.mcEvent i).mc = { s.mc with events := setBit s.mc.events i true } := rfl
@[simp] theorem State.mcEvent_svc (i : Nat) : (s.mcEvent i).svc = s.svc := rfl
@[simp] theorem State.mcEvent_jtag (i : Nat) : (s.mcEvent i).jtag = s.jtag := rfl
@[simp] theorem State.mcEvent_frames (i : Nat) : (s.mcEvent i).frames = s.frames := rfl
@[simp] theorem State.mcEvent_writes (i : Nat) : (s.mcEvent i).writes = s.writes := rfl
@[simp] theorem State.mcEvent_lastWrite (i : Nat) : (s.mcEvent i).lastWrite = s.lastWrite := rfl
@[simp] theorem State.mcEvent_user (i : Nat) : (s.mcEvent i).user = s.user := rfl
@[simp] theorem State.mcEvent_trail (i : Nat) : (s.mcEvent i).trail = s.trail := rfl
@[simp] theorem State.mcEvent_freeCtr (i : Nat) : (s.mcEvent i).freeCtr = s.freeCtr := rfl
@[simp] theorem State.mcEvent_pending (i : Nat) : (s.mcEvent i).pending = s.pending := rfl

@[simp] theorem State.slkEvent_die (i : Nat) : (s.slkEvent i).die = s.die := rfl
@[simp] theorem State.slkEvent_darn (i : Nat) : (s.slkEvent i).darn = s.darn := rfl
@[simp] theorem State.slkEvent_mem (i : Nat) : (s.slkEvent i).mem = s.mem := rfl
@[simp] theorem State.slkEvent_flash (i : Nat) : (s.slkEvent i).flash = s.flash := rfl
@[simp] theorem State.slkEvent_ptn (i : Nat) : (s.slkEvent i).ptn = s.ptn := rfl
@[simp] theorem State.slkEvent_fe (i : Nat) : (s.slkEvent i).fe = s.fe := rfl
@[simp] theorem State.slkEvent_ctxs (i : Nat) : (s.slkEvent i).ctxs = s.ctxs := rfl
@[simp] theorem State.slkEvent_queues (i : Nat) : (s.slkEvent i).queues = s.queues := rfl
@[simp] theorem State.slkEvent_jobs (i : Nat) : (s.slkEvent i).jobs = s.jobs := rfl
@[simp] theorem State.slkEvent_flt (i : Nat) : (s.slkEvent i).flt = s.flt := rfl
@[simp] theorem State.slkEvent_mmu (i : Nat) : (s.slkEvent i).mmu = s.mmu := rfl
@[simp] theorem State.slkEvent_det (i : Nat) : (s.slkEvent i).det = s.det := rfl
@[simp] theorem State.slkEvent_ic (i : Nat) : (s.slkEvent i).ic = s.ic := rfl
@[simp] theorem State.slkEvent_spl (i : Nat) : (s.slkEvent i).spl = s.spl := rfl
@[simp] theorem State.slkEvent_l3c (i : Nat) : (s.slkEvent i).l3c = s.l3c := rfl
@[simp] theorem State.slkEvent_lines (i : Nat) : (s.slkEvent i).lines = s.lines := rfl
@[simp] theorem State.slkEvent_cmp (i : Nat) : (s.slkEvent i).cmp = s.cmp := rfl
@[simp] theorem State.slkEvent_clusters (i : Nat) : (s.slkEvent i).clusters = s.clusters := rfl
@[simp] theorem State.slkEvent_cores (i : Nat) : (s.slkEvent i).cores = s.cores := rfl
@[simp] theorem State.slkEvent_groups (i : Nat) : (s.slkEvent i).groups = s.groups := rfl
@[simp] theorem State.slkEvent_blocks (i : Nat) : (s.slkEvent i).blocks = s.blocks := rfl
@[simp] theorem State.slkEvent_deltas (i : Nat) : (s.slkEvent i).deltas = s.deltas := rfl
@[simp] theorem State.slkEvent_dsp (i : Nat) : (s.slkEvent i).dsp = s.dsp := rfl
@[simp] theorem State.slkEvent_pwr (i : Nat) : (s.slkEvent i).pwr = s.pwr := rfl
theorem State.slkEvent_slk (i : Nat) : (s.slkEvent i).slk = { s.slk with events := setBit s.slk.events i true } := rfl
@[simp] theorem State.slkEvent_mc (i : Nat) : (s.slkEvent i).mc = s.mc := rfl
@[simp] theorem State.slkEvent_svc (i : Nat) : (s.slkEvent i).svc = s.svc := rfl
@[simp] theorem State.slkEvent_jtag (i : Nat) : (s.slkEvent i).jtag = s.jtag := rfl
@[simp] theorem State.slkEvent_frames (i : Nat) : (s.slkEvent i).frames = s.frames := rfl
@[simp] theorem State.slkEvent_writes (i : Nat) : (s.slkEvent i).writes = s.writes := rfl
@[simp] theorem State.slkEvent_lastWrite (i : Nat) : (s.slkEvent i).lastWrite = s.lastWrite := rfl
@[simp] theorem State.slkEvent_user (i : Nat) : (s.slkEvent i).user = s.user := rfl
@[simp] theorem State.slkEvent_trail (i : Nat) : (s.slkEvent i).trail = s.trail := rfl
@[simp] theorem State.slkEvent_freeCtr (i : Nat) : (s.slkEvent i).freeCtr = s.freeCtr := rfl
@[simp] theorem State.slkEvent_pending (i : Nat) : (s.slkEvent i).pending = s.pending := rfl

@[simp] theorem State.updLink_die (l : Link) (f : Module → Module) : (s.updLink l f).die = s.die := rfl
@[simp] theorem State.updLink_darn (l : Link) (f : Module → Module) : (s.updLink l f).darn = s.darn := rfl
@[simp] theorem State.updLink_mem (l : Link) (f : Module → Module) : (s.updLink l f).mem = s.mem := rfl
@[simp] theorem State.updLink_flash (l : Link) (f : Module → Module) : (s.updLink l f).flash = s.flash := rfl
@[simp] theorem State.updLink_ptn (l : Link) (f : Module → Module) : (s.updLink l f).ptn = s.ptn := rfl
@[simp] theorem State.updLink_fe (l : Link) (f : Module → Module) : (s.updLink l f).fe = s.fe := rfl
@[simp] theorem State.updLink_ctxs (l : Link) (f : Module → Module) : (s.updLink l f).ctxs = s.ctxs := rfl
@[simp] theorem State.updLink_queues (l : Link) (f : Module → Module) : (s.updLink l f).queues = s.queues := rfl
@[simp] theorem State.updLink_jobs (l : Link) (f : Module → Module) : (s.updLink l f).jobs = s.jobs := rfl
@[simp] theorem State.updLink_flt (l : Link) (f : Module → Module) : (s.updLink l f).flt = s.flt := rfl
@[simp] theorem State.updLink_mmu (l : Link) (f : Module → Module) : (s.updLink l f).mmu = s.mmu := rfl
@[simp] theorem State.updLink_det (l : Link) (f : Module → Module) : (s.updLink l f).det = s.det := rfl
@[simp] theorem State.updLink_ic (l : Link) (f : Module → Module) : (s.updLink l f).ic = s.ic := rfl
@[simp] theorem State.updLink_spl (l : Link) (f : Module → Module) : (s.updLink l f).spl = s.spl := rfl
@[simp] theorem State.updLink_l3c (l : Link) (f : Module → Module) : (s.updLink l f).l3c = s.l3c := rfl
@[simp] theorem State.updLink_lines (l : Link) (f : Module → Module) : (s.updLink l f).lines = s.lines := rfl
@[simp] theorem State.updLink_cmp (l : Link) (f : Module → Module) : (s.updLink l f).cmp = s.cmp := rfl
@[simp] theorem State.updLink_clusters (l : Link) (f : Module → Module) : (s.updLink l f).clusters = s.clusters := rfl
@[simp] theorem State.updLink_cores (l : Link) (f : Module → Module) : (s.updLink l f).cores = s.cores := rfl
@[simp] theorem State.updLink_groups (l : Link) (f : Module → Module) : (s.updLink l f).groups = s.groups := rfl
@[simp] theorem State.updLink_blocks (l : Link) (f : Module → Module) : (s.updLink l f).blocks = s.blocks := rfl
@[simp] theorem State.updLink_deltas (l : Link) (f : Module → Module) : (s.updLink l f).deltas = s.deltas := rfl
@[simp] theorem State.updLink_dsp (l : Link) (f : Module → Module) : (s.updLink l f).dsp = s.dsp := rfl
@[simp] theorem State.updLink_pwr (l : Link) (f : Module → Module) : (s.updLink l f).pwr = s.pwr := rfl
@[simp] theorem State.updLink_mc (l : Link) (f : Module → Module) : (s.updLink l f).mc = s.mc := rfl
@[simp] theorem State.updLink_svc (l : Link) (f : Module → Module) : (s.updLink l f).svc = s.svc := rfl
@[simp] theorem State.updLink_jtag (l : Link) (f : Module → Module) : (s.updLink l f).jtag = s.jtag := rfl
@[simp] theorem State.updLink_frames (l : Link) (f : Module → Module) : (s.updLink l f).frames = s.frames := rfl
@[simp] theorem State.updLink_writes (l : Link) (f : Module → Module) : (s.updLink l f).writes = s.writes := rfl
@[simp] theorem State.updLink_lastWrite (l : Link) (f : Module → Module) : (s.updLink l f).lastWrite = s.lastWrite := rfl
@[simp] theorem State.updLink_user (l : Link) (f : Module → Module) : (s.updLink l f).user = s.user := rfl
@[simp] theorem State.updLink_trail (l : Link) (f : Module → Module) : (s.updLink l f).trail = s.trail := rfl
@[simp] theorem State.updLink_freeCtr (l : Link) (f : Module → Module) : (s.updLink l f).freeCtr = s.freeCtr := rfl
@[simp] theorem State.updLink_pending (l : Link) (f : Module → Module) : (s.updLink l f).pending = s.pending := rfl

@[simp] theorem State.pwrEvent_die (i : Nat) : (s.pwrEvent i).die = s.die := rfl
@[simp] theorem State.pwrEvent_darn (i : Nat) : (s.pwrEvent i).darn = s.darn := rfl
@[simp] theorem State.pwrEvent_mem (i : Nat) : (s.pwrEvent i).mem = s.mem := rfl
@[simp] theorem State.pwrEvent_flash (i : Nat) : (s.pwrEvent i).flash = s.flash := rfl
@[simp] theorem State.pwrEvent_ptn (i : Nat) : (s.pwrEvent i).ptn = s.ptn := rfl
@[simp] theorem State.pwrEvent_fe (i : Nat) : (s.pwrEvent i).fe = s.fe := rfl
@[simp] theorem State.pwrEvent_ctxs (i : Nat) : (s.pwrEvent i).ctxs = s.ctxs := rfl
@[simp] theorem State.pwrEvent_queues (i : Nat) : (s.pwrEvent i).queues = s.queues := rfl
@[simp] theorem State.pwrEvent_jobs (i : Nat) : (s.pwrEvent i).jobs = s.jobs := rfl
@[simp] theorem State.pwrEvent_flt (i : Nat) : (s.pwrEvent i).flt = s.flt := rfl
@[simp] theorem State.pwrEvent_mmu (i : Nat) : (s.pwrEvent i).mmu = s.mmu := rfl
@[simp] theorem State.pwrEvent_det (i : Nat) : (s.pwrEvent i).det = s.det := rfl
@[simp] theorem State.pwrEvent_ic (i : Nat) : (s.pwrEvent i).ic = s.ic := rfl
@[simp] theorem State.pwrEvent_spl (i : Nat) : (s.pwrEvent i).spl = s.spl := rfl
@[simp] theorem State.pwrEvent_l3c (i : Nat) : (s.pwrEvent i).l3c = s.l3c := rfl
@[simp] theorem State.pwrEvent_lines (i : Nat) : (s.pwrEvent i).lines = s.lines := rfl
@[simp] theorem State.pwrEvent_cmp (i : Nat) : (s.pwrEvent i).cmp = s.cmp := rfl
@[simp] theorem State.pwrEvent_clusters (i : Nat) : (s.pwrEvent i).clusters = s.clusters := rfl
@[simp] theorem State.pwrEvent_cores (i : Nat) : (s.pwrEvent i).cores = s.cores := rfl
@[simp] theorem State.pwrEvent_groups (i : Nat) : (s.pwrEvent i).groups = s.groups := rfl
@[simp] theorem State.pwrEvent_blocks (i : Nat) : (s.pwrEvent i).blocks = s.blocks := rfl
@[simp] theorem State.pwrEvent_deltas (i : Nat) : (s.pwrEvent i).deltas = s.deltas := rfl
@[simp] theorem State.pwrEvent_dsp (i : Nat) : (s.pwrEvent i).dsp = s.dsp := rfl
theorem State.pwrEvent_pwr (i : Nat) : (s.pwrEvent i).pwr = { s.pwr with events := setBit s.pwr.events i true } := rfl
@[simp] theorem State.pwrEvent_slk (i : Nat) : (s.pwrEvent i).slk = s.slk := rfl
@[simp] theorem State.pwrEvent_mc (i : Nat) : (s.pwrEvent i).mc = s.mc := rfl
@[simp] theorem State.pwrEvent_svc (i : Nat) : (s.pwrEvent i).svc = s.svc := rfl
@[simp] theorem State.pwrEvent_jtag (i : Nat) : (s.pwrEvent i).jtag = s.jtag := rfl
@[simp] theorem State.pwrEvent_frames (i : Nat) : (s.pwrEvent i).frames = s.frames := rfl
@[simp] theorem State.pwrEvent_writes (i : Nat) : (s.pwrEvent i).writes = s.writes := rfl
@[simp] theorem State.pwrEvent_lastWrite (i : Nat) : (s.pwrEvent i).lastWrite = s.lastWrite := rfl
@[simp] theorem State.pwrEvent_user (i : Nat) : (s.pwrEvent i).user = s.user := rfl
@[simp] theorem State.pwrEvent_trail (i : Nat) : (s.pwrEvent i).trail = s.trail := rfl
@[simp] theorem State.pwrEvent_freeCtr (i : Nat) : (s.pwrEvent i).freeCtr = s.freeCtr := rfl
@[simp] theorem State.pwrEvent_pending (i : Nat) : (s.pwrEvent i).pending = s.pending := rfl

@[simp] theorem State.splEvent_die (i : Nat) : (s.splEvent i).die = s.die := rfl
@[simp] theorem State.splEvent_darn (i : Nat) : (s.splEvent i).darn = s.darn := rfl
@[simp] theorem State.splEvent_mem (i : Nat) : (s.splEvent i).mem = s.mem := rfl
@[simp] theorem State.splEvent_flash (i : Nat) : (s.splEvent i).flash = s.flash := rfl
@[simp] theorem State.splEvent_ptn (i : Nat) : (s.splEvent i).ptn = s.ptn := rfl
@[simp] theorem State.splEvent_fe (i : Nat) : (s.splEvent i).fe = s.fe := rfl
@[simp] theorem State.splEvent_ctxs (i : Nat) : (s.splEvent i).ctxs = s.ctxs := rfl
@[simp] theorem State.splEvent_queues (i : Nat) : (s.splEvent i).queues = s.queues := rfl
@[simp] theorem State.splEvent_jobs (i : Nat) : (s.splEvent i).jobs = s.jobs := rfl
@[simp] theorem State.splEvent_flt (i : Nat) : (s.splEvent i).flt = s.flt := rfl
@[simp] theorem State.splEvent_mmu (i : Nat) : (s.splEvent i).mmu = s.mmu := rfl
@[simp] theorem State.splEvent_det (i : Nat) : (s.splEvent i).det = s.det := rfl
@[simp] theorem State.splEvent_ic (i : Nat) : (s.splEvent i).ic = s.ic := rfl
theorem State.splEvent_spl (i : Nat) : (s.splEvent i).spl = { s.spl with events := setBit s.spl.events i true } := rfl
@[simp] theorem State.splEvent_l3c (i : Nat) : (s.splEvent i).l3c = s.l3c := rfl
@[simp] theorem State.splEvent_lines (i : Nat) : (s.splEvent i).lines = s.lines := rfl
@[simp] theorem State.splEvent_cmp (i : Nat) : (s.splEvent i).cmp = s.cmp := rfl
@[simp] theorem State.splEvent_clusters (i : Nat) : (s.splEvent i).clusters = s.clusters := rfl
@[simp] theorem State.splEvent_cores (i : Nat) : (s.splEvent i).cores = s.cores := rfl
@[simp] theorem State.splEvent_groups (i : Nat) : (s.splEvent i).groups = s.groups := rfl
@[simp] theorem State.splEvent_blocks (i : Nat) : (s.splEvent i).blocks = s.blocks := rfl
@[simp] theorem State.splEvent_deltas (i : Nat) : (s.splEvent i).deltas = s.deltas := rfl
@[simp] theorem State.splEvent_dsp (i : Nat) : (s.splEvent i).dsp = s.dsp := rfl
@[simp] theorem State.splEvent_pwr (i : Nat) : (s.splEvent i).pwr = s.pwr := rfl
@[simp] theorem State.splEvent_slk (i : Nat) : (s.splEvent i).slk = s.slk := rfl
@[simp] theorem State.splEvent_mc (i : Nat) : (s.splEvent i).mc = s.mc := rfl
@[simp] theorem State.splEvent_svc (i : Nat) : (s.splEvent i).svc = s.svc := rfl
@[simp] theorem State.splEvent_jtag (i : Nat) : (s.splEvent i).jtag = s.jtag := rfl
@[simp] theorem State.splEvent_frames (i : Nat) : (s.splEvent i).frames = s.frames := rfl
@[simp] theorem State.splEvent_writes (i : Nat) : (s.splEvent i).writes = s.writes := rfl
@[simp] theorem State.splEvent_lastWrite (i : Nat) : (s.splEvent i).lastWrite = s.lastWrite := rfl
@[simp] theorem State.splEvent_user (i : Nat) : (s.splEvent i).user = s.user := rfl
@[simp] theorem State.splEvent_trail (i : Nat) : (s.splEvent i).trail = s.trail := rfl
@[simp] theorem State.splEvent_freeCtr (i : Nat) : (s.splEvent i).freeCtr = s.freeCtr := rfl
@[simp] theorem State.splEvent_pending (i : Nat) : (s.splEvent i).pending = s.pending := rfl

@[simp] theorem State.setLog_die (p : Nat) (w : LogWin) : (s.setLog p w).die = s.die := rfl
@[simp] theorem State.setLog_darn (p : Nat) (w : LogWin) : (s.setLog p w).darn = s.darn := rfl
@[simp] theorem State.setLog_mem (p : Nat) (w : LogWin) : (s.setLog p w).mem = s.mem := rfl
@[simp] theorem State.setLog_flash (p : Nat) (w : LogWin) : (s.setLog p w).flash = s.flash := rfl
@[simp] theorem State.setLog_ptn (p : Nat) (w : LogWin) : (s.setLog p w).ptn = s.ptn := rfl
@[simp] theorem State.setLog_fe (p : Nat) (w : LogWin) : (s.setLog p w).fe = s.fe := rfl
@[simp] theorem State.setLog_ctxs (p : Nat) (w : LogWin) : (s.setLog p w).ctxs = s.ctxs := rfl
@[simp] theorem State.setLog_queues (p : Nat) (w : LogWin) : (s.setLog p w).queues = s.queues := rfl
@[simp] theorem State.setLog_jobs (p : Nat) (w : LogWin) : (s.setLog p w).jobs = s.jobs := rfl
@[simp] theorem State.setLog_flt (p : Nat) (w : LogWin) : (s.setLog p w).flt = s.flt := rfl
@[simp] theorem State.setLog_mmu (p : Nat) (w : LogWin) : (s.setLog p w).mmu = s.mmu := rfl
theorem State.setLog_det (p : Nat) (w : LogWin) : (s.setLog p w).det = { s.det with logs := s.det.logs.set p w } := rfl
@[simp] theorem State.setLog_ic (p : Nat) (w : LogWin) : (s.setLog p w).ic = s.ic := rfl
@[simp] theorem State.setLog_spl (p : Nat) (w : LogWin) : (s.setLog p w).spl = s.spl := rfl
@[simp] theorem State.setLog_l3c (p : Nat) (w : LogWin) : (s.setLog p w).l3c = s.l3c := rfl
@[simp] theorem State.setLog_lines (p : Nat) (w : LogWin) : (s.setLog p w).lines = s.lines := rfl
@[simp] theorem State.setLog_cmp (p : Nat) (w : LogWin) : (s.setLog p w).cmp = s.cmp := rfl
@[simp] theorem State.setLog_clusters (p : Nat) (w : LogWin) : (s.setLog p w).clusters = s.clusters := rfl
@[simp] theorem State.setLog_cores (p : Nat) (w : LogWin) : (s.setLog p w).cores = s.cores := rfl
@[simp] theorem State.setLog_groups (p : Nat) (w : LogWin) : (s.setLog p w).groups = s.groups := rfl
@[simp] theorem State.setLog_blocks (p : Nat) (w : LogWin) : (s.setLog p w).blocks = s.blocks := rfl
@[simp] theorem State.setLog_deltas (p : Nat) (w : LogWin) : (s.setLog p w).deltas = s.deltas := rfl
@[simp] theorem State.setLog_dsp (p : Nat) (w : LogWin) : (s.setLog p w).dsp = s.dsp := rfl
@[simp] theorem State.setLog_pwr (p : Nat) (w : LogWin) : (s.setLog p w).pwr = s.pwr := rfl
@[simp] theorem State.setLog_slk (p : Nat) (w : LogWin) : (s.setLog p w).slk = s.slk := rfl
@[simp] theorem State.setLog_mc (p : Nat) (w : LogWin) : (s.setLog p w).mc = s.mc := rfl
@[simp] theorem State.setLog_svc (p : Nat) (w : LogWin) : (s.setLog p w).svc = s.svc := rfl
@[simp] theorem State.setLog_jtag (p : Nat) (w : LogWin) : (s.setLog p w).jtag = s.jtag := rfl
@[simp] theorem State.setLog_frames (p : Nat) (w : LogWin) : (s.setLog p w).frames = s.frames := rfl
@[simp] theorem State.setLog_writes (p : Nat) (w : LogWin) : (s.setLog p w).writes = s.writes := rfl
@[simp] theorem State.setLog_lastWrite (p : Nat) (w : LogWin) : (s.setLog p w).lastWrite = s.lastWrite := rfl
@[simp] theorem State.setLog_user (p : Nat) (w : LogWin) : (s.setLog p w).user = s.user := rfl
@[simp] theorem State.setLog_trail (p : Nat) (w : LogWin) : (s.setLog p w).trail = s.trail := rfl
@[simp] theorem State.setLog_freeCtr (p : Nat) (w : LogWin) : (s.setLog p w).freeCtr = s.freeCtr := rfl
@[simp] theorem State.setLog_pending (p : Nat) (w : LogWin) : (s.setLog p w).pending = s.pending := rfl

@[simp] theorem State.setPq_die (p : Nat) (w : PartFq) : (s.setPq p w).die = s.die := rfl
@[simp] theorem State.setPq_darn (p : Nat) (w : PartFq) : (s.setPq p w).darn = s.darn := rfl
@[simp] theorem State.setPq_mem (p : Nat) (w : PartFq) : (s.setPq p w).mem = s.mem := rfl
@[simp] theorem State.setPq_flash (p : Nat) (w : PartFq) : (s.setPq p w).flash = s.flash := rfl
@[simp] theorem State.setPq_ptn (p : Nat) (w : PartFq) : (s.setPq p w).ptn = s.ptn := rfl
@[simp] theorem State.setPq_fe (p : Nat) (w : PartFq) : (s.setPq p w).fe = s.fe := rfl
@[simp] theorem State.setPq_ctxs (p : Nat) (w : PartFq) : (s.setPq p w).ctxs = s.ctxs := rfl
@[simp] theorem State.setPq_queues (p : Nat) (w : PartFq) : (s.setPq p w).queues = s.queues := rfl
@[simp] theorem State.setPq_jobs (p : Nat) (w : PartFq) : (s.setPq p w).jobs = s.jobs := rfl
theorem State.setPq_flt (p : Nat) (w : PartFq) : (s.setPq p w).flt = { s.flt with pq := s.flt.pq.set p w } := rfl
@[simp] theorem State.setPq_mmu (p : Nat) (w : PartFq) : (s.setPq p w).mmu = s.mmu := rfl
@[simp] theorem State.setPq_det (p : Nat) (w : PartFq) : (s.setPq p w).det = s.det := rfl
@[simp] theorem State.setPq_ic (p : Nat) (w : PartFq) : (s.setPq p w).ic = s.ic := rfl
@[simp] theorem State.setPq_spl (p : Nat) (w : PartFq) : (s.setPq p w).spl = s.spl := rfl
@[simp] theorem State.setPq_l3c (p : Nat) (w : PartFq) : (s.setPq p w).l3c = s.l3c := rfl
@[simp] theorem State.setPq_lines (p : Nat) (w : PartFq) : (s.setPq p w).lines = s.lines := rfl
@[simp] theorem State.setPq_cmp (p : Nat) (w : PartFq) : (s.setPq p w).cmp = s.cmp := rfl
@[simp] theorem State.setPq_clusters (p : Nat) (w : PartFq) : (s.setPq p w).clusters = s.clusters := rfl
@[simp] theorem State.setPq_cores (p : Nat) (w : PartFq) : (s.setPq p w).cores = s.cores := rfl
@[simp] theorem State.setPq_groups (p : Nat) (w : PartFq) : (s.setPq p w).groups = s.groups := rfl
@[simp] theorem State.setPq_blocks (p : Nat) (w : PartFq) : (s.setPq p w).blocks = s.blocks := rfl
@[simp] theorem State.setPq_deltas (p : Nat) (w : PartFq) : (s.setPq p w).deltas = s.deltas := rfl
@[simp] theorem State.setPq_dsp (p : Nat) (w : PartFq) : (s.setPq p w).dsp = s.dsp := rfl
@[simp] theorem State.setPq_pwr (p : Nat) (w : PartFq) : (s.setPq p w).pwr = s.pwr := rfl
@[simp] theorem State.setPq_slk (p : Nat) (w : PartFq) : (s.setPq p w).slk = s.slk := rfl
@[simp] theorem State.setPq_mc (p : Nat) (w : PartFq) : (s.setPq p w).mc = s.mc := rfl
@[simp] theorem State.setPq_svc (p : Nat) (w : PartFq) : (s.setPq p w).svc = s.svc := rfl
@[simp] theorem State.setPq_jtag (p : Nat) (w : PartFq) : (s.setPq p w).jtag = s.jtag := rfl
@[simp] theorem State.setPq_frames (p : Nat) (w : PartFq) : (s.setPq p w).frames = s.frames := rfl
@[simp] theorem State.setPq_writes (p : Nat) (w : PartFq) : (s.setPq p w).writes = s.writes := rfl
@[simp] theorem State.setPq_lastWrite (p : Nat) (w : PartFq) : (s.setPq p w).lastWrite = s.lastWrite := rfl
@[simp] theorem State.setPq_user (p : Nat) (w : PartFq) : (s.setPq p w).user = s.user := rfl
@[simp] theorem State.setPq_trail (p : Nat) (w : PartFq) : (s.setPq p w).trail = s.trail := rfl
@[simp] theorem State.setPq_freeCtr (p : Nat) (w : PartFq) : (s.setPq p w).freeCtr = s.freeCtr := rfl
@[simp] theorem State.setPq_pending (p : Nat) (w : PartFq) : (s.setPq p w).pending = s.pending := rfl

@[simp] theorem State.withCommand_die (c : Instr) : (s.withCommand c).die = s.die := rfl
@[simp] theorem State.withCommand_darn (c : Instr) : (s.withCommand c).darn = s.darn := rfl
@[simp] theorem State.withCommand_mem (c : Instr) : (s.withCommand c).mem = s.mem := rfl
@[simp] theorem State.withCommand_flash (c : Instr) : (s.withCommand c).flash = s.flash := rfl
@[simp] theorem State.withCommand_ptn (c : Instr) : (s.withCommand c).ptn = s.ptn := rfl
@[simp] theorem State.withCommand_fe (c : Instr) : (s.withCommand c).fe = s.fe := rfl
@[simp] theorem State.withCommand_ctxs (c : Instr) : (s.withCommand c).ctxs = s.ctxs := rfl
@[simp] theorem State.withCommand_queues (c : Instr) : (s.withCommand c).queues = s.queues := rfl
@[simp] theorem State.withCommand_jobs (c : Instr) : (s.withCommand c).jobs = s.jobs := rfl
@[simp] theorem State.withCommand_flt (c : Instr) : (s.withCommand c).flt = s.flt := rfl
@[simp] theorem State.withCommand_mmu (c : Instr) : (s.withCommand c).mmu = s.mmu := rfl
@[simp] theorem State.withCommand_det (c : Instr) : (s.withCommand c).det = s.det := rfl
@[simp] theorem State.withCommand_ic (c : Instr) : (s.withCommand c).ic = s.ic := rfl
@[simp] theorem State.withCommand_spl (c : Instr) : (s.withCommand c).spl = s.spl := rfl
@[simp] theorem State.withCommand_l3c (c : Instr) : (s.withCommand c).l3c = s.l3c := rfl
@[simp] theorem State.withCommand_lines (c : Instr) : (s.withCommand c).lines = s.lines := rfl
@[simp] theorem State.withCommand_cmp (c : Instr) : (s.withCommand c).cmp = s.cmp := rfl
@[simp] theorem State.withCommand_clusters (c : Instr) : (s.withCommand c).clusters = s.clusters := rfl
@[simp] theorem State.withCommand_cores (c : Instr) : (s.withCommand c).cores = s.cores := rfl
@[simp] theorem State.withCommand_groups (c : Instr) : (s.withCommand c).groups = s.groups := rfl
@[simp] theorem State.withCommand_blocks (c : Instr) : (s.withCommand c).blocks = s.blocks := rfl
@[simp] theorem State.withCommand_deltas (c : Instr) : (s.withCommand c).deltas = s.deltas := rfl
@[simp] theorem State.withCommand_dsp (c : Instr) : (s.withCommand c).dsp = s.dsp := rfl
@[simp] theorem State.withCommand_pwr (c : Instr) : (s.withCommand c).pwr = s.pwr := rfl
@[simp] theorem State.withCommand_slk (c : Instr) : (s.withCommand c).slk = s.slk := rfl
@[simp] theorem State.withCommand_mc (c : Instr) : (s.withCommand c).mc = s.mc := rfl
@[simp] theorem State.withCommand_svc (c : Instr) : (s.withCommand c).svc = s.svc := rfl
@[simp] theorem State.withCommand_jtag (c : Instr) : (s.withCommand c).jtag = s.jtag := rfl
@[simp] theorem State.withCommand_frames (c : Instr) : (s.withCommand c).frames = s.frames := rfl
@[simp] theorem State.withCommand_writes (c : Instr) : (s.withCommand c).writes = s.writes := rfl
@[simp] theorem State.withCommand_lastWrite (c : Instr) : (s.withCommand c).lastWrite = s.lastWrite := rfl
@[simp] theorem State.withCommand_user (c : Instr) : (s.withCommand c).user = s.user := rfl
@[simp] theorem State.withCommand_trail (c : Instr) : (s.withCommand c).trail = s.trail := rfl
@[simp] theorem State.withCommand_freeCtr (c : Instr) : (s.withCommand c).freeCtr = s.freeCtr := rfl
theorem State.withCommand_pending (c : Instr) : (s.withCommand c).pending = c :: s.pending := rfl

/-! ### Updates that find their place first -/

@[simp] theorem State.updJob_die (j : Nat) (f : Job → Job) : (s.updJob j f).die = s.die := by
  unfold State.updJob; split <;> rfl
@[simp] theorem State.updJob_darn (j : Nat) (f : Job → Job) : (s.updJob j f).darn = s.darn := by
  unfold State.updJob; split <;> rfl
@[simp] theorem State.updJob_mem (j : Nat) (f : Job → Job) : (s.updJob j f).mem = s.mem := by
  unfold State.updJob; split <;> rfl
@[simp] theorem State.updJob_flash (j : Nat) (f : Job → Job) : (s.updJob j f).flash = s.flash := by
  unfold State.updJob; split <;> rfl
@[simp] theorem State.updJob_ptn (j : Nat) (f : Job → Job) : (s.updJob j f).ptn = s.ptn := by
  unfold State.updJob; split <;> rfl
@[simp] theorem State.updJob_fe (j : Nat) (f : Job → Job) : (s.updJob j f).fe = s.fe := by
  unfold State.updJob; split <;> rfl
@[simp] theorem State.updJob_ctxs (j : Nat) (f : Job → Job) : (s.updJob j f).ctxs = s.ctxs := by
  unfold State.updJob; split <;> rfl
@[simp] theorem State.updJob_queues (j : Nat) (f : Job → Job) : (s.updJob j f).queues = s.queues := by
  unfold State.updJob; split <;> rfl
@[simp] theorem State.updJob_flt (j : Nat) (f : Job → Job) : (s.updJob j f).flt = s.flt := by
  unfold State.updJob; split <;> rfl
@[simp] theorem State.updJob_mmu (j : Nat) (f : Job → Job) : (s.updJob j f).mmu = s.mmu := by
  unfold State.updJob; split <;> rfl
@[simp] theorem State.updJob_det (j : Nat) (f : Job → Job) : (s.updJob j f).det = s.det := by
  unfold State.updJob; split <;> rfl
@[simp] theorem State.updJob_ic (j : Nat) (f : Job → Job) : (s.updJob j f).ic = s.ic := by
  unfold State.updJob; split <;> rfl
@[simp] theorem State.updJob_spl (j : Nat) (f : Job → Job) : (s.updJob j f).spl = s.spl := by
  unfold State.updJob; split <;> rfl
@[simp] theorem State.updJob_l3c (j : Nat) (f : Job → Job) : (s.updJob j f).l3c = s.l3c := by
  unfold State.updJob; split <;> rfl
@[simp] theorem State.updJob_lines (j : Nat) (f : Job → Job) : (s.updJob j f).lines = s.lines := by
  unfold State.updJob; split <;> rfl
@[simp] theorem State.updJob_cmp (j : Nat) (f : Job → Job) : (s.updJob j f).cmp = s.cmp := by
  unfold State.updJob; split <;> rfl
@[simp] theorem State.updJob_clusters (j : Nat) (f : Job → Job) : (s.updJob j f).clusters = s.clusters := by
  unfold State.updJob; split <;> rfl
@[simp] theorem State.updJob_cores (j : Nat) (f : Job → Job) : (s.updJob j f).cores = s.cores := by
  unfold State.updJob; split <;> rfl
@[simp] theorem State.updJob_groups (j : Nat) (f : Job → Job) : (s.updJob j f).groups = s.groups := by
  unfold State.updJob; split <;> rfl
@[simp] theorem State.updJob_blocks (j : Nat) (f : Job → Job) : (s.updJob j f).blocks = s.blocks := by
  unfold State.updJob; split <;> rfl
@[simp] theorem State.updJob_deltas (j : Nat) (f : Job → Job) : (s.updJob j f).deltas = s.deltas := by
  unfold State.updJob; split <;> rfl
@[simp] theorem State.updJob_dsp (j : Nat) (f : Job → Job) : (s.updJob j f).dsp = s.dsp := by
  unfold State.updJob; split <;> rfl
@[simp] theorem State.updJob_pwr (j : Nat) (f : Job → Job) : (s.updJob j f).pwr = s.pwr := by
  unfold State.updJob; split <;> rfl
@[simp] theorem State.updJob_slk (j : Nat) (f : Job → Job) : (s.updJob j f).slk = s.slk := by
  unfold State.updJob; split <;> rfl
@[simp] theorem State.updJob_mc (j : Nat) (f : Job → Job) : (s.updJob j f).mc = s.mc := by
  unfold State.updJob; split <;> rfl
@[simp] theorem State.updJob_svc (j : Nat) (f : Job → Job) : (s.updJob j f).svc = s.svc := by
  unfold State.updJob; split <;> rfl
@[simp] theorem State.updJob_jtag (j : Nat) (f : Job → Job) : (s.updJob j f).jtag = s.jtag := by
  unfold State.updJob; split <;> rfl
@[simp] theorem State.updJob_frames (j : Nat) (f : Job → Job) : (s.updJob j f).frames = s.frames := by
  unfold State.updJob; split <;> rfl
@[simp] theorem State.updJob_writes (j : Nat) (f : Job → Job) : (s.updJob j f).writes = s.writes := by
  unfold State.updJob; split <;> rfl
@[simp] theorem State.updJob_lastWrite (j : Nat) (f : Job → Job) : (s.updJob j f).lastWrite = s.lastWrite := by
  unfold State.updJob; split <;> rfl
@[simp] theorem State.updJob_user (j : Nat) (f : Job → Job) : (s.updJob j f).user = s.user := by
  unfold State.updJob; split <;> rfl
@[simp] theorem State.updJob_trail (j : Nat) (f : Job → Job) : (s.updJob j f).trail = s.trail := by
  unfold State.updJob; split <;> rfl
@[simp] theorem State.updJob_freeCtr (j : Nat) (f : Job → Job) : (s.updJob j f).freeCtr = s.freeCtr := by
  unfold State.updJob; split <;> rfl
@[simp] theorem State.updJob_pending (j : Nat) (f : Job → Job) : (s.updJob j f).pending = s.pending := by
  unfold State.updJob; split <;> rfl

@[simp] theorem State.pokeTagged_die (a : Nat) (bs : List U8) : (s.pokeTagged a bs).die = s.die := rfl
@[simp] theorem State.pokeTagged_darn (a : Nat) (bs : List U8) : (s.pokeTagged a bs).darn = s.darn := rfl
@[simp] theorem State.pokeTagged_flash (a : Nat) (bs : List U8) : (s.pokeTagged a bs).flash = s.flash := rfl
@[simp] theorem State.pokeTagged_ptn (a : Nat) (bs : List U8) : (s.pokeTagged a bs).ptn = s.ptn := rfl
@[simp] theorem State.pokeTagged_fe (a : Nat) (bs : List U8) : (s.pokeTagged a bs).fe = s.fe := rfl
@[simp] theorem State.pokeTagged_ctxs (a : Nat) (bs : List U8) : (s.pokeTagged a bs).ctxs = s.ctxs := rfl
@[simp] theorem State.pokeTagged_queues (a : Nat) (bs : List U8) : (s.pokeTagged a bs).queues = s.queues := rfl
@[simp] theorem State.pokeTagged_jobs (a : Nat) (bs : List U8) : (s.pokeTagged a bs).jobs = s.jobs := rfl
@[simp] theorem State.pokeTagged_mmu (a : Nat) (bs : List U8) : (s.pokeTagged a bs).mmu = s.mmu := rfl
@[simp] theorem State.pokeTagged_det (a : Nat) (bs : List U8) : (s.pokeTagged a bs).det = s.det := rfl
@[simp] theorem State.pokeTagged_ic (a : Nat) (bs : List U8) : (s.pokeTagged a bs).ic = s.ic := rfl
@[simp] theorem State.pokeTagged_l3c (a : Nat) (bs : List U8) : (s.pokeTagged a bs).l3c = s.l3c := rfl
@[simp] theorem State.pokeTagged_lines (a : Nat) (bs : List U8) : (s.pokeTagged a bs).lines = s.lines := rfl
@[simp] theorem State.pokeTagged_cmp (a : Nat) (bs : List U8) : (s.pokeTagged a bs).cmp = s.cmp := rfl
@[simp] theorem State.pokeTagged_clusters (a : Nat) (bs : List U8) : (s.pokeTagged a bs).clusters = s.clusters := rfl
@[simp] theorem State.pokeTagged_cores (a : Nat) (bs : List U8) : (s.pokeTagged a bs).cores = s.cores := rfl
@[simp] theorem State.pokeTagged_groups (a : Nat) (bs : List U8) : (s.pokeTagged a bs).groups = s.groups := rfl
@[simp] theorem State.pokeTagged_blocks (a : Nat) (bs : List U8) : (s.pokeTagged a bs).blocks = s.blocks := rfl
@[simp] theorem State.pokeTagged_deltas (a : Nat) (bs : List U8) : (s.pokeTagged a bs).deltas = s.deltas := rfl
@[simp] theorem State.pokeTagged_dsp (a : Nat) (bs : List U8) : (s.pokeTagged a bs).dsp = s.dsp := rfl
@[simp] theorem State.pokeTagged_pwr (a : Nat) (bs : List U8) : (s.pokeTagged a bs).pwr = s.pwr := rfl
@[simp] theorem State.pokeTagged_slk (a : Nat) (bs : List U8) : (s.pokeTagged a bs).slk = s.slk := rfl
@[simp] theorem State.pokeTagged_mc (a : Nat) (bs : List U8) : (s.pokeTagged a bs).mc = s.mc := rfl
@[simp] theorem State.pokeTagged_svc (a : Nat) (bs : List U8) : (s.pokeTagged a bs).svc = s.svc := rfl
@[simp] theorem State.pokeTagged_jtag (a : Nat) (bs : List U8) : (s.pokeTagged a bs).jtag = s.jtag := rfl
@[simp] theorem State.pokeTagged_frames (a : Nat) (bs : List U8) : (s.pokeTagged a bs).frames = s.frames := rfl
@[simp] theorem State.pokeTagged_writes (a : Nat) (bs : List U8) : (s.pokeTagged a bs).writes = s.writes := rfl
@[simp] theorem State.pokeTagged_lastWrite (a : Nat) (bs : List U8) : (s.pokeTagged a bs).lastWrite = s.lastWrite := rfl
@[simp] theorem State.pokeTagged_user (a : Nat) (bs : List U8) : (s.pokeTagged a bs).user = s.user := rfl
@[simp] theorem State.pokeTagged_trail (a : Nat) (bs : List U8) : (s.pokeTagged a bs).trail = s.trail := rfl
@[simp] theorem State.pokeTagged_freeCtr (a : Nat) (bs : List U8) : (s.pokeTagged a bs).freeCtr = s.freeCtr := rfl
@[simp] theorem State.pokeTagged_pending (a : Nat) (bs : List U8) : (s.pokeTagged a bs).pending = s.pending := rfl

/-! ### Reading after an update -/

theorem State.updCtx_ctx (c k : Nat) (f : Ctx → Ctx) :
    (s.updCtx c f).ctx k = if k = c then f (s.ctx c) else s.ctx k := TMap.get_set ..

theorem State.updQueue_queue (q k : Nat) (f : Queue → Queue) :
    (s.updQueue q f).queue k = if k = q then f (s.queue q) else s.queue k := TMap.get_set ..

theorem State.updSource_source (n k : Nat) (f : IcSource → IcSource) :
    (s.updSource n f).source k = if k = n then f (s.source n) else s.source k := TMap.get_set ..

theorem State.updVector_vector (n k : Nat) (f : IcVector → IcVector) :
    (s.updVector n f).vector k = if k = n then f (s.vector n) else s.vector k := TMap.get_set ..

theorem State.raise_source (n k : Nat) :
    (s.raise n).source k = if k = n then { s.source n with pending := true } else s.source k := TMap.get_set ..

theorem State.updJob_find (j k : Nat) (f : Job → Job) :
    (s.updJob j f).jobs.find k = if k = j then (s.jobs.find j).map f else s.jobs.find k := by
  unfold State.updJob
  split
  · rename_i h; by_cases hk : k = j <;> simp [hk, h]
  · rename_i v h; simp [TMap.find_set, h]

/-- A group whose reconvergence stack fits on chip: nothing but the group changes (R63). -/
theorem State.setGroup_short (i : Nat) (g : Group) (h : g.stack.length ≤ 16) (h' : g.spilled = []) :
    s.setGroup i g = { s with groups := s.groups.set i g } := by
  simp [State.setGroup, h, h']

theorem State.setGroup_find (i k : Nat) (g : Group) (h : g.stack.length ≤ 16) (h' : g.spilled = []) :
    (s.setGroup i g).groups.find k = if k = i then some g else s.groups.find k := by
  rw [State.setGroup_short s i g h h']; exact TMap.find_set ..

theorem State.setBlock_find (b k : Nat) (x : Block) :
    (s.setBlock b x).blocks.find k = if k = b then some x else s.blocks.find k := TMap.find_set ..

/-- The windows of a partition do not depend on what an update of contexts, queues or interrupts changes. -/
@[simp] theorem State.updCtx_part (c p : Nat) (f : Ctx → Ctx) : (s.updCtx c f).part p = s.part p := rfl
@[simp] theorem State.updQueue_part (q p : Nat) (f : Queue → Queue) : (s.updQueue q f).part p = s.part p := rfl
@[simp] theorem State.raise_part (n p : Nat) : (s.raise n).part p = s.part p := rfl

/-- A write of bytes keeps memory in canonical form (R123 for the frames it touches). -/
theorem State.pokeTagged_wf (a : Nat) (bs : List U8) (h : s.mem.wf = true) : (s.pokeTagged a bs).mem.wf = true :=
  Mem.wf_putBytes bs s.mem a h

theorem State.poke_wf (a : Nat) (bs : List U8) (h : s.mem.wf = true) : (s.poke a bs).mem.wf = true :=
  Mem.wf_putBytes bs s.mem a h

/-- What a byte reads as after a write of bytes. -/
theorem State.poke_byte (a b : Nat) (bs : List U8) (h : s.mem.wf = true) :
    (s.poke a bs).mem.byte b = if a ≤ b ∧ b < a + bs.length then bs.getD (b - a) 0 else s.mem.byte b :=
  Mem.byte_putBytes bs s.mem a b h

end

end Sys2Proof.Machine
end

