-- ==== Sys2Proof/Laws/Registers.lean ====
section
/-! SUPPORT. Registers of a group: reading after a write, the executing threads one after another, and the issue of an
instruction of form V. -/

namespace Sys2Proof.Machine

open Sys2Proof

/-! ### Bits -/

theorem bit_setBit {w : Nat} (m : BitVec w) (i j : Nat) (v : Bool) :
    bit (setBit m i v) j = if j = i ∧ j < w then v else bit m j := by
  unfold bit setBit
  by_cases hj : j < w
  · cases v
    · by_cases h : j = i
      · subst h; simp [hj]
      · have : i ≠ j := fun x => h x.symm
        simp [h, hj]
    · by_cases h : j = i
      · subst h; simp [hj]
      · have : i ≠ j := fun x => h x.symm
        simp [h, BitVec.getLsbD_twoPow, this]
  · have : w ≤ j := by omega
    simp [hj, BitVec.getLsbD_of_ge _ _ this]

/-- A thread of a mask is one of the 64. -/
theorem mem_threads {e : U64} {t : Nat} : t ∈ threads e ↔ t < 64 ∧ bit e t = true := by
  simp [threads, bitsOf]

theorem threads_nodup (e : U64) : (threads e).Nodup := List.Nodup.sublist List.filter_sublist List.nodup_range

/-! ### Reading after a write -/

theorem Group.reg_setReg (g : Group) (r r' t t' : Nat) (v : U32) (h : t < 64) (h' : t' < 64) :
    (g.setReg r t v).reg r' t' = if r' = r ∧ t' = t then v else g.reg r' t' := by
  unfold Group.setReg Group.reg
  simp only [TMap.get_set]
  by_cases hk : r' = r ∧ t' = t
  · rw [if_pos hk, if_pos (by omega)]
  · rw [if_neg hk, if_neg (by omega)]; rfl

@[simp] theorem Group.ureg_setUreg (g : Group) (r r' : Nat) (v : U32) :
    (g.setUreg r v).ureg r' = if r' = r then v else g.ureg r' := by
  simp [Group.setUreg, Group.ureg, TMap.get_set]

theorem Group.pred_setPred (g : Group) (p t q : Nat) (b : Bool) :
    (g.setPred p t b).pred q = if q = p ∧ p ≠ 7 then setBit (g.pred p) t b else g.pred q := by
  unfold Group.setPred
  by_cases hp : p = 7
  · simp [hp]
  · rw [if_neg hp]
    by_cases hq : q = p
    · subst hq; simp [Group.pred, hp]
    · by_cases h7 : q = 7
      · have : ¬ 7 = p := fun x => hp x.symm
        simp [Group.pred, h7, this]
      · simp only [Group.pred, h7, hq, TMap.get_set, if_false, false_and]; rfl

@[simp] theorem Group.reg_setPred (g : Group) (p t r t' : Nat) (b : Bool) :
    (g.setPred p t b).reg r t' = g.reg r t' := by unfold Group.setPred; split <;> rfl

@[simp] theorem Group.pred_setReg (g : Group) (r t p : Nat) (v : U32) : (g.setReg r t v).pred p = g.pred p := rfl

@[simp] theorem Group.ureg_setReg (g : Group) (r t p : Nat) (v : U32) : (g.setReg r t v).ureg p = g.ureg p := rfl

@[simp] theorem Group.reg_setUreg (g : Group) (r p t : Nat) (v : U32) : (g.setUreg p v).reg r t = g.reg r t := rfl

/-! ### Moving on -/

@[simp] theorem Group.reg_advance (g : Group) (n r t : Nat) : (g.advance n).reg r t = g.reg r t := rfl

@[simp] theorem Group.pred_advance (g : Group) (n p : Nat) : (g.advance n).pred p = g.pred p := rfl

@[simp] theorem Group.ureg_advance (g : Group) (n r : Nat) : (g.advance n).ureg r = g.ureg r := rfl

theorem Group.advance_regs (g : Group) (n : Nat) (m : TMap U32) :
    Group.advance { g with regs := m } n = { g.advance n with regs := m } := rfl

theorem Group.advance_uregs (g : Group) (n : Nat) (m : TMap U32) :
    Group.advance { g with uregs := m } n = { g.advance n with uregs := m } := rfl

theorem Group.advance_preds (g : Group) (n : Nat) (m : TMap U64) :
    Group.advance { g with preds := m } n = { g.advance n with preds := m } := rfl

/-! ### The executing threads one after another -/

/-- Words written to consecutive registers of one thread. -/
def Group.setWords (g : Group) (d t : Nat) : List U32 → Group
  | [] => g
  | v :: vs => (g.setReg d t v).setWords (d + 1) t vs

theorem Group.reg_setWords (vs : List U32) : ∀ (g : Group) (d t r t' : Nat), t < 64 → t' < 64 →
    (g.setWords d t vs).reg r t' =
      if t' = t ∧ d ≤ r ∧ r < d + vs.length then vs.getD (r - d) 0 else g.reg r t' := by
  induction vs with
  | nil => intro g d t r t' _ _; rw [if_neg (by simp only [List.length_nil]; omega)]; rfl
  | cons v vs ih =>
    intro g d t r t' ht ht'
    simp only [Group.setWords, List.length_cons]
    rw [ih _ _ _ _ _ ht ht', Group.reg_setReg _ _ _ _ _ _ ht ht']
    by_cases h : t' = t
    · subst h
      by_cases hr : r = d
      · subst hr
        rw [if_neg (by omega), if_pos ⟨rfl, rfl⟩, if_pos (by omega)]; simp
      · by_cases hin : d + 1 ≤ r ∧ r < d + 1 + vs.length
        · obtain ⟨m, hm⟩ : ∃ m, r - d = m + 1 := ⟨r - d - 1, by omega⟩
          have : r - (d + 1) = m := by omega
          rw [if_pos ⟨rfl, hin⟩, if_pos (by omega), hm, this]; simp
        · rw [if_neg (by omega), if_neg (by omega), if_neg (by omega)]
    · rw [if_neg (by omega), if_neg (by omega), if_neg (by omega)]

theorem Group.setWords_eq (vs : List U32) : ∀ (g : Group) (d t : Nat),
    g.setWords d t vs = { g with regs := (g.setWords d t vs).regs } := by
  induction vs with
  | nil => intro g d t; rfl
  | cons v vs ih => intro g d t; simp only [Group.setWords]; rw [ih]; rfl

theorem Group.foldl_setWords (d : Nat) (k : Nat → List U32) (ts : List Nat) : ∀ (g : Group),
    ts.Nodup → (∀ t ∈ ts, t < 64) →
    (ts.foldl (fun h t => h.setWords d t (k t)) g = { g with regs := (ts.foldl (fun h t => h.setWords d t (k t)) g).regs }) ∧
    ∀ r t, t < 64 → (ts.foldl (fun h t => h.setWords d t (k t)) g).reg r t =
      if t ∈ ts ∧ d ≤ r ∧ r < d + (k t).length then (k t).getD (r - d) 0 else g.reg r t := by
  induction ts with
  | nil => intro g _ _; exact ⟨rfl, by intro r t _; simp⟩
  | cons u ts ih =>
    intro g hn hb
    have hu := hb u (by simp)
    have ih' := ih (g.setWords d u (k u)) (List.nodup_cons.1 hn).2 (fun t ht => hb t (by simp [ht]))
    have hnot := (List.nodup_cons.1 hn).1
    refine ⟨?_, ?_⟩
    · simp only [List.foldl_cons]
      rw [ih'.1]; rw [Group.setWords_eq (k u) g d u]
    · intro r t ht
      simp only [List.foldl_cons]
      rw [ih'.2 r t ht, Group.reg_setWords _ _ _ _ _ _ hu ht]
      by_cases htu : t = u
      · subst htu
        by_cases hin : d ≤ r ∧ r < d + (k t).length
        · rw [if_neg (by simp [hnot]), if_pos ⟨rfl, hin⟩, if_pos ⟨by simp, hin⟩]
        · rw [if_neg (by simp [hnot]), if_neg (fun h => hin h.2), if_neg (fun h => hin h.2)]
      · simp only [htu, List.mem_cons, false_or, false_and, if_false]

/-- Words written by each executing thread: what `Lanes` says. -/
theorem lanes_each (x : Group) (n d : Nat) (e : U64) (k : Nat → List U32) :
    Lanes x ((x.each e (fun h t => h.setWords d t (k t))).advance n) n d e k := by
  have h := Group.foldl_setWords d k (threads e) x (threads_nodup e) (fun t ht => (mem_threads.1 ht).1)
  refine ⟨?_, ?_⟩
  · conv => lhs; unfold Group.each; rw [h.1]
    rw [Group.advance_regs]; rfl
  · intro r t ht
    rw [Group.reg_advance]
    unfold Group.each
    rw [h.2 r t ht]
    simp only [mem_threads, ht, true_and]

theorem Group.foldl_setPred (d : Nat) (k : Nat → Bool) (ts : List Nat) : ∀ (g : Group), ts.Nodup → (∀ t ∈ ts, t < 64) →
    (ts.foldl (fun h t => h.setPred d t (k t)) g = { g with preds := (ts.foldl (fun h t => h.setPred d t (k t)) g).preds }) ∧
    ∀ p t, t < 64 → bit ((ts.foldl (fun h t => h.setPred d t (k t)) g).pred p) t =
      if t ∈ ts ∧ p = d ∧ d ≠ 7 then k t else bit (g.pred p) t := by
  induction ts with
  | nil => intro g _ _; exact ⟨rfl, by intro r t _; simp⟩
  | cons u ts ih =>
    intro g hn hb
    have hu := hb u (by simp)
    have ih' := ih (g.setPred d u (k u)) (List.nodup_cons.1 hn).2 (fun t ht => hb t (by simp [ht]))
    have hnot := (List.nodup_cons.1 hn).1
    refine ⟨?_, ?_⟩
    · simp only [List.foldl_cons]
      rw [ih'.1]; unfold Group.setPred; split <;> rfl
    · intro p t ht
      simp only [List.foldl_cons]
      rw [ih'.2 p t ht, Group.pred_setPred]
      by_cases hp : p = d ∧ d ≠ 7
      · obtain ⟨rfl, h7⟩ := hp
        simp only [h7, ne_eq, not_false_eq_true, and_true, if_true, bit_setBit]
        by_cases htu : t = u
        · subst htu; simp [hnot, ht]
        · simp [htu]
      · rw [if_neg (fun h => hp h.2), if_neg hp, if_neg (fun h => hp h.2)]

/-- A predicate bit written by each executing thread: what `PredLanes` says. -/
theorem predLanes_each (x : Group) (n d : Nat) (e : U64) (k : Nat → Bool) :
    PredLanes x ((x.each e (fun h t => h.setPred d t (k t))).advance n) n d e k := by
  have h := Group.foldl_setPred d k (threads e) x (threads_nodup e) (fun t ht => (mem_threads.1 ht).1)
  refine ⟨?_, ?_⟩
  · conv => lhs; unfold Group.each; rw [h.1]
    rw [Group.advance_preds]; rfl
  · intro p t ht
    rw [Group.pred_advance]
    unfold Group.each
    rw [h.2 p t ht]
    simp only [mem_threads, ht, true_and]

/-! ### The issue of an instruction of form V -/

/-- An instruction of form V with defined fields and a thread to execute it gives the group its results. -/
theorem State.runV_issues {s : State} {g : Nat} {x : Group} {f : VForm} {ok : Group → Bool} {k : Group → U64 → Group}
    (h : Issues s g x f.pneg f.pred) (hs : f.sel ≠ 3) (ho : ok x = true) :
    s.runV g f ok k = s.setGroup g ((k x (x.executing f.pneg f.pred)).advance (vWords f)) := by
  have he := h.2
  simp only [State.runV, h.1]
  rw [if_neg he, if_neg (by simpa [ho] using hs)]

/-- With no thread to execute it, an instruction of form V only moves the group on (R61). -/
theorem State.runV_empty {s : State} {g : Nat} {x : Group} {f : VForm} {ok : Group → Bool} {k : Group → U64 → Group}
    (h : s.mayIssue g = some x) (he : x.executing f.pneg f.pred = 0) :
    s.runV g f ok k = s.setGroup g (x.advance (vWords f)) := by
  simp [State.runV, h, he]

/-- With a field that is undefined it traps (R81). -/
theorem State.runV_undefined {s : State} {g : Nat} {x : Group} {f : VForm} {ok : Group → Bool} {k : Group → U64 → Group}
    (h : Issues s g x f.pneg f.pred) (hu : f.sel = 3 ∨ ok x = false) :
    s.runV g f ok k = s.trap x 1 (lowest (x.executing f.pneg f.pred)) := by
  have he := h.2
  simp only [State.runV, h.1]
  rw [if_neg he, if_pos (by rcases hu with hu | hu <;> simp [hu])]

end Sys2Proof.Machine
end

