-- ==== Sys2Proof/Laws/Lanes.lean ====
section
/-! SUPPORT. What a thread instruction that issues gives: the lanes or predicates it writes, the words of the texture and
ray units, an access that meets nothing on its way, and a matrix instruction that the whole group issues. -/

namespace Sys2Proof.Machine

open Sys2Proof

/-- The floating-point operations write the words of `fpWords` lane by lane (R78, R96). -/
theorem fpEach_words (f : VForm) (op : Fmt → Rnd → FVal → FVal → FVal → Nat) (x : Group) (e : U64) :
    fpEach f op x e = x.each e (fun h t => h.setWords f.dst.toNat t (fpWords f op x t)) := by
  unfold fpEach fpWords
  by_cases h0 : f.ty = 0
  · simp only [h0]; rfl
  · by_cases h1 : f.ty = 1
    · simp only [h1]; rfl
    · simp only [h0, h1, if_false]; rfl

section

variable {s : State} {g : Nat} {x : Group} {f : VForm} {ok : Group → Bool}

/-- An instruction of form V that writes words in each executing lane. -/
theorem runV_lanes {k : Group → U64 → Group} {w : Nat → List U32} (h : Issues s g x f.pneg f.pred) (hs : f.sel ≠ 3)
    (ho : ok x = true) (hk : ∀ e, k x e = x.each e (fun h t => h.setWords f.dst.toNat t (w t))) :
    ∃ y, Host.Outcome.next (φ := Fault) (ρ := Refusal) (s.runV g f ok k) = .next (s.setGroup g y) ∧
      Lanes x y (vWords f) f.dst.toNat (x.executing f.pneg f.pred) w := by
  refine ⟨_, by rw [State.runV_issues h hs ho], ?_⟩
  rw [hk]; exact lanes_each ..

/-- One that writes a predicate bit in each. -/
theorem runV_predLanes {k : Group → U64 → Group} {w : Nat → Bool} (h : Issues s g x f.pneg f.pred) (hs : f.sel ≠ 3)
    (ho : ok x = true) (hk : ∀ e, k x e = x.each e (fun h t => h.setPred f.dst.toNat t (w t))) :
    ∃ y, Host.Outcome.next (φ := Fault) (ρ := Refusal) (s.runV g f ok k) = .next (s.setGroup g y) ∧
      PredLanes x y (vWords f) f.dst.toNat (x.executing f.pneg f.pred) w := by
  refine ⟨_, by rw [State.runV_issues h hs ho], ?_⟩
  rw [hk]; exact predLanes_each ..

end

/-- The four registers of a texture result, and the eight of a ray's, as words from DST up. -/
theorem Group.setFour_words (g : Group) (d t : Nat) (ws : List U32) :
    g.setFour d t ws = g.setWords d t ((List.range 4).map (fun i => (ws[i]?).getD 0)) := by
  simp [Group.setFour, Group.setWords, List.range, List.range.loop]

theorem Group.setEight_words (g : Group) (d t : Nat) (ws : List U32) :
    g.setEight d t ws = g.setWords d t ((List.range 8).map (fun i => (ws[i]?).getD 0)) := by
  simp [Group.setEight, Group.setWords, List.range, List.range.loop]

/-- Any step that writes its lane's words, taken over the executing threads. -/
theorem lanes_fold (x : Group) (n d : Nat) (e : U64) (k : Nat → List U32) (step : Group → Nat → Group)
    (h : ∀ g t, step g t = g.setWords d t (k t)) : Lanes x (((threads e).foldl step x).advance n) n d e k := by
  have : step = fun g t => g.setWords d t (k t) := by funext g t; exact h g t
  subst this
  exact lanes_each x n d e k

/-- An access on whose way nothing happens passes. -/
theorem State.meetsAt_none (s : State) (g : Group) (space a : Nat) (acc : Access) :
    s.meetsAt g space a acc .none = (s, false) := by
  unfold State.meetsAt
  split
  · rfl
  · split
    · rfl
    · split <;> rfl

/-- A matrix instruction that every live thread executes, on an engine the block holds and with flags that its
instruction takes, does what it does (R97, R107, R108). -/
theorem State.runX_ok {s : State} {g : Nat} {x : Group} {b : Block} {f : XForm} {uses pairs sweeps : Bool}
    {k : State → Group → Block → State} (h : Issues s g x f.pneg f.pred) (hl : x.executing f.pneg f.pred = x.live)
    (hb : s.blocks.find x.block = some b)
    (ho : (uses && decide ((if f.engine then 2 else 1) ≤ b.engines) && decide (f.flags.toNat < 64) &&
      (!xPair f || (pairs && !f.engine && b.engines == 2)) && (!xSweep f || sweeps)) = true) :
    s.runX g f uses pairs sweeps k = k (s.onGroup x) x b := by
  have he := h.2
  simp only [State.runX, h.1, hb]
  rw [if_neg he, if_neg (by simp [hl]), if_pos ho]

end Sys2Proof.Machine
end

