-- ==== Sys2Proof/Laws/Undo.lean ====
section
/-! SUPPORT. What noting a written range and giving up an uncommitted command's output leave of the state (R28). -/

namespace Sys2Proof.Machine

open Sys2Proof

/-- Noting a range changes the model's own record alone. -/
theorem State.note_eq (s : State) (j pa n : Nat) : ∃ w, s.note j pa n = { s with trail := w } := by
  unfold State.note
  split
  · exact ⟨s.trail, rfl⟩
  · dsimp only
    split
    · exact ⟨s.trail, rfl⟩
    · exact ⟨_, rfl⟩

/-- One range takes a free value. -/
def State.spoilRange (s : State) (r : Nat × Nat) : State :=
  { s with freeCtr := s.freeCtr + 1, mem := s.mem.putBytes r.1 (toBytes r.2 (Config.free s.freeCtr)) }

theorem State.spoil_fold (s : State) (j : Nat) :
    s.spoil j = { (s.trail.get [] j).foldl State.spoilRange s with
      trail := ((s.trail.get [] j).foldl State.spoilRange s).trail.del j } := rfl

theorem toBytes_length (n v : Nat) : (toBytes n v).length = n := by
  induction n generalizing v with
  | zero => rfl
  | succ n ih => simp [toBytes, ih]

/-- Only memory and the counter of free values change, no byte outside the ranges does, and the canonical form stays. -/
theorem spoilRanges_frame : ∀ (rs : List (Nat × Nat)) (s : State), s.mem.wf = true →
    (∃ m k, rs.foldl State.spoilRange s = { s with mem := m, freeCtr := k } ∧ m.wf = true ∧
      ∀ b, (∀ r ∈ rs, b < r.1 ∨ r.1 + r.2 ≤ b) → m.byte b = s.mem.byte b)
  | [], s, h => ⟨s.mem, s.freeCtr, rfl, h, fun _ _ => rfl⟩
  | r :: rs, s, h => by
    have w : (s.spoilRange r).mem.wf = true := Mem.wf_putBytes _ _ _ h
    obtain ⟨m, k, e, hm, hb⟩ := spoilRanges_frame rs (s.spoilRange r) w
    refine ⟨m, k, by rw [List.foldl_cons, e]; rfl, hm, fun b hr => ?_⟩
    rw [hb b (fun q hq => hr q (List.mem_cons_of_mem _ hq))]
    have := hr r (List.mem_cons_self ..)
    show (s.mem.putBytes _ _).byte b = _
    rw [Mem.byte_putBytes _ _ _ _ h, toBytes_length, if_neg (by omega)]

/-- What giving up an uncommitted output leaves. -/
theorem State.spoil_frame (s : State) (j : Nat) (h : s.mem.wf = true) :
    ∃ m k w, s.spoil j = { s with mem := m, freeCtr := k, trail := w } ∧ m.wf = true ∧
      ∀ b, (∀ r ∈ (s.trail.get [] j : List (Nat × Nat)), b < r.1 ∨ r.1 + r.2 ≤ b) → m.byte b = s.mem.byte b := by
  obtain ⟨m, k, e, hm, hb⟩ := spoilRanges_frame (s.trail.get [] j) s h
  exact ⟨m, k, _, by rw [State.spoil_fold, e], hm, hb⟩

end Sys2Proof.Machine
end

