-- ==== Sys2Proof/Machine/ReadRegs.lean ====
section
/-! DEFINITION. What the registers of the other blocks read as, and the whole of BAR0: the value of a 32-bit read, without
the latches of R175 (R10 to R12, R52, R53, R132, R172 to R174, R193 to R196, R213 to R215, R234, R235, R237, R261 to R263,
R313 to R315, R368, R369, R386, R387, R399 to R401, R440, R488 to R490). -/

namespace Sys2Proof.Machine

open Sys2Proof

/-- Half of a 64-bit value: the high one for an offset whose bit 2 differs from that of the pair's first register. -/
def half (v : Nat) (hi : Bool) : Nat := if hi then v / 2 ^ 32 % 2 ^ 32 else v % 2 ^ 32

/-! ### PTN (R52, R53) -/

/-- A selvedge window's registers. -/
def SvWindow.reg (w : SvWindow) (r : Nat) : Nat :=
  match r with
  | 0x0 => w.base % 2 ^ 32 / 2 ^ 21 * 2 ^ 21
  | 0x4 => w.base / 2 ^ 32 % 2 ^ 20
  | 0x8 => w.size % 2 ^ 32 / 2 ^ 21 * 2 ^ 21
  | _ => w.size / 2 ^ 32 % 2 ^ 20 + atBit w.valid.toNat 28 + atBit w.rd.toNat 29 + atBit w.wr.toNat 30 + atBit w.shared.toNat 31

/-- The active values of a partition window's registers. -/
def Part16.reg (x : Part16) (r : Nat) : Nat :=
  if 0x40 ≤ r && r < 0xC0 then (x.windows.get {} ((r - 0x40) / 16)).reg (r % 16)
  else
  match r with
  | 0x00 => x.enable.toNat + atBit x.vf.toNat 1 + atBit x.rekey.toNat 2
  | 0x04 => x.qFirst.toNat + atBit x.qCount.toNat 16
  | 0x08 => x.quota.toNat
  | 0x0C => half x.cores.toNat false
  | 0x10 => half x.cores.toNat true
  | 0x18 => x.banks.toNat + atBit x.pipes.toNat 8 + atBit x.ways.toNat 16
  | 0x1C => x.dma.toNat
  | 0x34 => half x.key.toNat false
  | 0x38 => half x.key.toNat true
  | _ => if liveOffsets.contains r then (x.liveReg r).toNat else 0

/-- Partition `p` of this die has a live shadow. -/
def State.shadowed (s : State) (p : Nat) : Bool := s.ptn.shadows.any (fun e => e.1 / 256 == s.partKey p)

def State.ptnReg (s : State) (off : Nat) : Nat :=
  let x := s.ptn
  if 0x800 ≤ off && off < 0x1800 then
    let p := (off - 0x800) / 0x100
    match (if x.view then x.shadows.find (shadowKey (s.partKey p) (off % 0x100)) else none) with
    | some v => ((({} : Part16).loadLive (off % 0x100) v).liveReg (off % 0x100)).toNat
    | none => (s.part p).reg (off % 0x100)
  else
  match off with
  | 0x000 => 0x201003
  | 0x004 => x.srcLo.toNat
  | 0x008 => x.srcHi.toNat
  | 0x00C => x.srcLen.toNat
  | 0x014 => x.busy.toNat + atBit x.step.toNat 1 + atBit x.result.toNat 8
  | 0x018 => x.failOffset.toNat
  | 0x01C => x.activeSeq.toNat
  | 0x020 => x.applyTime.toNat
  | 0x024 => x.events.toNat
  | 0x028 => x.view.toNat
  | 0x02C => ((List.range 16).map (fun p => atBit (s.shadowed p).toNat p)).sum
  | 0x030 => x.haltReq.toNat + atBit x.halted.toNat 16
  | _ => 0

/-! ### FE (R261 to R263) -/

/-- The codes of context and queue states (R246, R251). -/
def CtxState.code : CtxState → Nat
  | .closed => 0 | .running => 1 | .faultWait => 2 | .lost => 3 | .destroying => 4

def QueueState.code : QueueState → Nat
  | .free => 0 | .active => 1 | .stalled => 2 | .halted => 3 | .stopped => 4 | .destroying => 5

def State.ctxReg (s : State) (c r : Nat) : Nat :=
  let x := s.ctx c
  match r with
  | 0x0 => x.state.code + atBit x.strict.toNat 3 + atBit x.partition 4 + atBit (s.queuesOf c).length 8
  | 0x4 =>
    x.csLevel.toNat + atBit x.ptnLevel.toNat 8 + atBit x.abiLevel.toNat 16 +
      atBit (if x.state = .lost then x.loss.toNat else 0) 24
  | 0x8 => x.ignored.toNat
  | _ => x.failedEvents.toNat

def Queue.reg (x : Queue) (r : Nat) : Nat :=
  match r with
  | 0x0 => x.shown.code + atBit x.cls 4 + atBit x.ctx 8 + atBit x.sqOrder 16 + atBit x.cqOrder 24
  | 0x4 => x.sqRead.toNat
  | 0x8 => x.cqWrite.toNat
  | _ => x.dropped.toNat

def State.feReg (s : State) (off : Nat) : Nat :=
  let x := s.fe
  if 0x1000 ≤ off && off < 0x2000 then s.ctxReg ((off - 0x1000) / 16) (off % 16)
  else if 0x4000 ≤ off && off < 0x8000 then (s.queue ((off - 0x4000) / 16)).reg (off % 16)
  else if 0x8000 ≤ off && off < 0x9000 then wordAt s.capTable (off - 0x8000)
  else
  match off with
  | 0x000 => 0x04000204
  | 0x004 => (!s.leader).toNat + atBit s.stageShown 2
  | 0x010 => half x.ctxReq false
  | 0x014 => half x.ctxReq true
  | 0x01C => x.ctxBusy.toNat + atBit x.ctxStatus.toNat 8 + atBit x.ctxContext.toNat 16 + atBit x.ctxReason.toNat 24
  | 0x020 => half x.queueDesc false
  | 0x024 => half x.queueDesc true
  | 0x02C => x.queueBusy.toNat + atBit x.queueStatus.toNat 8 + atBit x.queueReason.toNat 16
  | 0x030 => half x.eventAddr false
  | 0x034 => half x.eventAddr true
  | 0x038 => half x.eventValue.toNat false
  | 0x03C => half x.eventValue.toNat true
  | 0x044 => atBit x.eventStatus.toNat 8 + atBit x.eventIgnored.toNat 16
  | 0x048 => x.events.toNat
  | 0x04C => x.ignoredCount.toNat
  | _ => 0

/-- A doorbell page of BAR2 (R250). -/
def State.doorbellReg (s : State) (q r : Nat) : Nat :=
  match r with
  | 0x008 => (s.queue q).sqRead.toNat
  | 0x00C => (s.queue q).cqWrite.toNat
  | _ => 0

/-! ### IC (R399 to R401) -/

/-- A source register. -/
def State.sourceReg (s : State) (src : Nat) : Nat :=
  if !(hostSource src || innerSource src) then 0 else
  let x := s.source src
  x.enable.toNat + atBit (s.pendingNow src).toNat 1 + atBit x.inService.toNat 2 +
    atBit (levelSource src && s.asserted src).toNat 3 + atBit (fastSource src).toNat 4 + atBit (levelSource src).toNat 5 +
    (if hostSource src then atBit (x.vector.getD (vectorReset src)) 8 else atBit (sourceCore src + 1) 16)

/-- A vector window. -/
def State.vectorReg (s : State) (v r : Nat) : Nat :=
  let x := s.vector v
  if r = 0 then x.holdoff.toNat + atBit (vectorFn v) 8 + atBit x.awaiting.toNat 16 + atBit (decide (v < 4)).toNat 17
  else if r = 4 then x.count.toNat
  else 0

def State.icReg (s : State) (off : Nat) : Nat :=
  let word (i : Nat) (f : Nat → Bool) : Nat := ((List.range 32).map (fun b => atBit (f (32 * i + b)).toNat b)).sum
  if 0x1000 ≤ off && off < 0x1800 then s.sourceReg ((off - 0x1000) / 4)
  else if 0x3000 ≤ off && off < 0x3400 then s.vectorReg ((off - 0x3000) / 16) (off % 16)
  else if 0x100 ≤ off && off < 0x140 then word ((off - 0x100) / 4) s.pendingNow
  else if 0x180 ≤ off && off < 0x1C0 then word ((off - 0x180) / 4) (fun i => (s.source i).inService)
  else if off = 0 then 0x4400200
  else 0

/-! ### FLT (R313 to R315) -/

def PartFq.reg (w : PartFq) (r : Nat) : Nat :=
  match r with
  | 0x00 => half w.base false
  | 0x04 => half w.base true
  | 0x08 => w.order + atBit w.enable.toNat 8
  | 0x0C => w.write.toNat
  | 0x10 => w.read.toNat
  | 0x14 => w.dropped.toNat
  | _ => 0

def Ctx.fltReg (x : Ctx) (r : Nat) : Nat :=
  match r with
  | 0x00 => x.fqWrite.toNat
  | 0x04 => x.fqRead.toNat
  | 0x08 => x.overflow.toNat
  | 0x0C => x.causeStatus.toNat + atBit x.causeSource.toNat 8 + atBit x.causeLoss.toNat 16
  | 0x10 => x.fltMerged.toNat
  | 0x18 => x.invVa.toNat % 2 ^ 20 * 2 ^ 12
  | 0x1C => x.invVa.toNat / 2 ^ 20
  | 0x20 => x.invPages.toNat
  | 0x24 => atBit x.invBusy.toNat 1 + atBit x.invRejected.toNat 2
  | _ => 0

/-- On a follower the block reads zero. -/
def State.fltReg (s : State) (off : Nat) : Nat :=
  let x := s.flt
  if !s.leader then 0
  else if 0x800 ≤ off && off < 0xC00 then (x.pq.get {} ((off - 0x800) / 0x40)).reg (off % 0x40)
  else if 0x4000 ≤ off && off < 0x8000 then (s.ctx ((off - 0x4000) / 0x40)).fltReg (off % 0x40)
  else
  match off with
  | 0x000 => 0x1120
  | 0x004 => x.events.toNat
  | 0x008 => s.fltRestarts
  | 0x00C => half x.quar.toNat false
  | 0x010 => half x.quar.toNat true
  | _ => 0

/-! ### MMU (R234, R235) -/

/-- MMU_CTX STATE; DESTROYING reads as lost. -/
def CtxState.mmuCode : CtxState → Nat
  | .closed => 0 | .running => 1 | .faultWait => 2 | .lost => 3 | .destroying => 3

def State.mmuCtxReg (s : State) (c r : Nat) : Nat :=
  let x := s.ctx c
  match r with
  | 0x00 => half (if s.dieNo = 0 then x.root0 else x.root1).toNat false
  | 0x04 => half (if s.dieNo = 0 then x.root0 else x.root1).toNat true
  | 0x08 => x.state.mmuCode + atBit ((s.jobs.filter (fun e => e.2.ctx == c && e.2.st == .faultWait)).length % 256) 8
  | 0x0C => x.faultPage.toNat % 2 ^ 20 * 2 ^ 12
  | 0x10 => x.faultPage.toNat / 2 ^ 20
  | 0x14 => x.faultSpan.toNat
  | 0x18 => x.merged.toNat
  | _ => x.faults.toNat

def State.mmuReg (s : State) (off : Nat) : Nat :=
  let x := s.mmu
  if 0x1000 ≤ off && off < 0x3000 then s.mmuCtxReg ((off - 0x1000) / 0x20) (off % 0x20)
  else
  match off with
  | 0x000 => 0xF343110
  | 0x010 => x.invVa.toNat % 2 ^ 20 * 2 ^ 12
  | 0x014 => x.invVa.toNat / 2 ^ 20
  | 0x018 => x.invPages.toNat
  | 0x01C => x.invContext.toNat
  | 0x020 => x.inval.isSome.toNat + atBit x.doneSeq.toNat 16
  | 0x024 => x.events.toNat
  | 0x02C => x.walks.toNat
  | _ => 0

/-! ### L3C, the cluster blocks and SPL (R132, R193 to R196, R213 to R215, R440) -/

/-- The partition of this die that binds L3 way `w`. -/
def State.wayOwner (s : State) (w : Nat) : Option Nat :=
  (List.range 16).find? (fun p => (s.part p).enable && bit (s.part p).ways w)

/-- OWNER and BOUND. -/
def ownerReg (p : Option Nat) : Nat := p.elim 0 (fun p => p + 16)

/-- The three state bits of a cache. -/
def CacheState.bits (x : CacheState) : Nat := x.enabled.toNat + 2 * x.invalidated.toNat + 4 * x.busy.toNat

def HotWin.reg (h : HotWin) (r : Nat) : Nat :=
  match r with
  | 0x00 => h.channel.toNat + atBit h.set.toNat 1
  | 0x04 => h.hotChannel.toNat + atBit h.hotGroup.toNat 8
  | 0x08 => min 0xFF (max h.runChannel h.runSet)
  | 0x0C => h.rekeys.toNat
  | _ => 0

def State.l3cReg (s : State) (off : Nat) : Nat :=
  let x := s.l3c
  if 0x100 ≤ off && off < 0x200 then
    let w := (off - 0x100) / 16
    match off % 16 with
    | 0x0 => (x.ce.get 0 w).toNat
    | 0x4 => (x.ue.get 0 w).toNat
    | 0x8 => ownerReg (s.wayOwner w)
    | _ => 0
  else if 0x800 ≤ off && off < 0xA00 then (x.hot.get {} ((off - 0x800) / 0x20)).reg (off % 0x20)
  else
  match off with
  | 0x000 => 0x10000010 + atBit (s.die.part == .x64).toNat 8 + atBit s.die.part.l3Mib 16
  | 0x004 => x.cache.enableReg.toNat
  | 0x008 => x.cache.bits + atBit x.result.toNat 8
  | 0x00C => x.events.toNat
  | 0x010 => x.live.toNat + atBit x.disabled.toNat 16
  | 0x014 => x.thresh.toNat
  | _ => 0

/-- CLU_CORE of a logical slot. -/
def CoreSlot.reg (x : CoreSlot) : Nat :=
  x.phys + atBit x.st.toNat 4 + atBit x.lanes.toNat 8 + atBit (min x.idle.toNat 1023) 16 + atBit x.ray.toNat 26

def State.cluReg (s : State) (c off : Nat) : Nat :=
  let x := s.clusters.get {} c
  if 0x410 ≤ off && off < 0x430 then
    let k := 8 * c + (off - 0x410) / 4
    if (off - 0x410) / 4 < s.die.part.slots then (x.mxSpares.get 0 (s.cores.get {} k).phys).toNat else 0
  else if 0x700 ≤ off && off < 0x720 then
    if (off - 0x700) / 4 < s.die.part.slots then (s.cores.get {} (8 * c + (off - 0x700) / 4)).reg else 0x30
  else
  match off with
  | 0x400 => x.sweeps.toNat
  | 0x404 => x.stale.toNat
  | 0x408 => x.residue.toNat
  | 0x500 => x.lmCe.toNat
  | 0x504 => x.lmUe.toNat
  | 0x508 => x.tbCe.toNat
  | 0x50C => x.tbUe.toNat
  | 0x600 => x.l1.enableReg.toNat + 2 * x.l2.enableReg.toNat
  | 0x604 => x.l1.bits + atBit x.l2.bits 4 + atBit x.cacheResult.toNat 8
  | 0x608 => x.l2Ce.toNat
  | 0x60C => x.l2Ue.toNat
  | 0x720 =>
    (((List.range 9).filter (fun ps => !s.darn.slotFailed c ps)).map (atBit 1)).sum +
      atBit (((List.range 9).filter (fun ps => (s.heldSlots c).contains ps)).map (atBit 1)).sum 16
  | _ => 0

/-- SPL_GRAN_STATE of the selected granule. -/
def State.granReg (s : State) : Nat :=
  let b := s.spl.granSel.toNat % 8
  let g := s.spl.granSel.toNat / 256 % 256
  if s.granCount ≤ g then 0 else
  let x : Granule := s.spl.grans.get {} (256 * b + g)
  let owner := (s.bankOwner b).getD 0
  match x.st with
  | .free => atBit owner 16
  | .pack =>
    1 + atBit (s.spl.shares.any (fun e => e.2.bank == b && decide (e.2.first ≤ g) &&
        decide (g < e.2.first + e.2.count))).toNat 2 + atBit owner 16
  | .alloc => 2 + atBit x.ctx 8 + atBit (s.ctx x.ctx).partition 16

def State.splReg (s : State) (off : Nat) : Nat :=
  let x := s.spl
  if 0x100 ≤ off && off < 0x200 then
    let b := (off - 0x100) / 0x20
    let w := x.banks.get {} b
    match off % 0x20 with
    | 0x00 => w.ce.toNat
    | 0x04 => w.ue.toNat
    | 0x08 => w.stalls.toNat
    | 0x0C => (w.spares.map Prod.snd).sum % 256 + atBit (16 - (w.spares.map Prod.snd).foldl max 0) 8
    | 0x10 => ownerReg (s.bankOwner b) + atBit (bit x.retain b).toNat 5
    | 0x14 => w.ueOffset.toNat
    | _ => 0
  else if 0x400 ≤ off && off < 0x800 then
    match x.shares.find ((off - 0x400) / 16) with
    | none => 0
    | some e =>
      match off % 16 with
      | 0x0 => e.bank + 8 + atBit e.readers.toNat 16
      | 0x4 => e.first
      | 0x8 => e.count
      | _ => 0
  else
  match off with
  | 0x000 => 0x40008 + atBit s.die.part.bankMib 8
  | 0x004 => x.online.toNat + atBit x.retired.toNat 8 + atBit x.clearing.toNat 16
  | 0x008 => x.retain.toNat
  | 0x00C => x.scrub.toNat + atBit x.period.toNat 8
  | 0x010 => x.events.toNat
  | 0x014 => x.granSel.toNat
  | 0x018 => s.granReg
  | _ => 0

/-! ### CMP, DSP, DET, SLK and MC (R172 to R174, R368, R369, R386, R387, R488 to R490) -/

/-- The coding slots of an engine that hold a stream. -/
def State.slotsBusy (s : State) (e : Nat) : Nat := (s.jobs.filter (fun f => f.2.onEngines && f.2.cmp == some e)).length

/-- Their numbers, as a mask. -/
def State.slotsHeld (s : State) (e : Nat) : U16 :=
  (s.jobs.filter (fun f => f.2.onEngines && f.2.cmp == some e)).foldl (fun (m : U16) f => setBit m f.2.codingSlot true) 0

def State.cmpReg (s : State) (off : Nat) : Nat :=
  if off = 0 then s.die.part.engines + 0x11000
  else if s.die.part.engines = 0 then 0
  else if 0x100 ≤ off && off < 0x180 then
    let e := (off - 0x100) / 0x40
    let x : CmpEngine := s.cmp.engines.get {} e
    match off % 0x40 with
    | 0x00 => x.blocks.toNat
    | 0x04 => x.nofit.toNat
    | 0x08 => x.faults.toNat
    | 0x0C => x.ce.toNat
    | 0x10 => x.ue.toNat
    | 0x14 => 2 ^ 16 - 1 - (s.slotsHeld e).toNat
    | _ => 0
  else
  match off with
  | 0x004 => s.slotsBusy 0 + atBit (s.slotsBusy 1) 8
  | 0x008 => s.cmp.events.toNat
  | _ => 0

def Region.reg (y : Region) (r : Nat) : Nat :=
  match r with
  | 0x0 => y.x0.toNat + atBit y.y0.toNat 16
  | 0x4 => y.x1.toNat + atBit y.y1.toNat 16
  | 0x8 => y.expected.toNat
  | _ => y.actual.toNat

def Pipe.reg (x : Pipe) (r : Nat) : Nat :=
  if 0x100 ≤ r && r < 0x200 then (x.palette.get 0 ((r - 0x100) / 4)).toNat
  else if 0x200 ≤ r && r < 0x300 then (x.regions.get {} ((r - 0x200) / 16)).reg (r % 16)
  else if 0x300 ≤ r && r < 0x340 then
    let y : Region := x.regions.get {} ((r - 0x300) / 4)
    y.mode.toNat + atBit y.mismatch.toNat 8 + atBit y.count.toNat 16
  else
  match r with
  | 0x00 =>
    x.enable.toNat + atBit x.regs.output.toNat 4 + atBit x.regs.stream.toNat 6 + atBit x.regs.bpc.toNat 8 +
      atBit x.regs.pq.toNat 10 + atBit x.regs.dsc.toNat 11
  | 0x04 => x.regs.hactive.toNat + atBit x.regs.htotal.toNat 16
  | 0x08 => x.regs.vactive.toNat + atBit x.regs.vtotal.toNat 16
  | 0x0C => x.regs.clock.toNat
  | 0x10 => x.running.toNat + atBit x.mirroring.toNat 1 + atBit x.result.toNat 8
  | 0x14 => x.frame.toNat
  | 0x18 => half x.flipBase false
  | 0x1C => half x.flipBase true
  | 0x20 => x.flipOrder
  | 0x24 => x.flipWrite.toNat
  | 0x28 => x.flipRead.toNat
  | 0x2C => x.late.toNat
  | 0x30 => x.skipped.toNat
  | 0x34 => x.underflow.toNat
  | 0x38 => x.inkDropped.toNat
  | 0x40 => half x.inkBase false
  | 0x44 => half x.inkBase true
  | 0x48 => x.inkOrder + atBit x.horizon.toNat 8 + atBit x.predict.toNat 16
  | 0x4C => x.inkWrite.toNat
  | 0x50 => x.inkRead.toNat
  | _ => 0

def State.dspReg (s : State) (off : Nat) : Nat :=
  let x := s.dsp
  if 0x1000 ≤ off && off < 0x1000 + 0x400 * s.die.part.pipes then (s.pipe ((off - 0x1000) / 0x400)).reg (off % 0x400)
  else if 0x8000 ≤ off && off < 0xB000 then
    let d := x.sinks.get [] ((off - 0x8000) / 0x1000)
    if off % 0x1000 = 0 then d.length else wordAt d (off % 0x1000 - 4)
  else
  match off with
  | 0x000 => s.die.part.pipes + 0x101870
  | 0x004 => x.mirror.toNat
  | 0x008 => half x.bootAddr false
  | 0x00C => half x.bootAddr true
  | 0x010 => x.bootWidth.toNat + atBit x.bootHeight.toNat 16
  | 0x014 => x.bootPitch.toNat
  | 0x018 => x.connected.toNat + atBit x.linkUp.toNat 8
  | 0x01C => x.events.toNat
  | _ => 0

def LogWin.reg (w : LogWin) (r : Nat) : Nat :=
  match r with
  | 0x00 => half w.base false
  | 0x04 => half w.base true
  | 0x08 => w.order
  | 0x0C => w.head.toNat
  | 0x10 => w.tail.toNat
  | 0x14 => w.enable.toNat
  | 0x18 => w.dropped.toNat
  | 0x1C => w.live.toNat
  | _ => 0

def Ctx.detReg (x : Ctx) (r : Nat) : Nat :=
  match r with
  | 0x00 => x.strict.toNat + atBit (x.state != .closed).toNat 1
  | 0x08 => half x.work.toNat false
  | 0x0C => half x.work.toNat true
  | 0x10 => half x.mem.toNat false
  | 0x14 => half x.mem.toNat true
  | 0x18 => half x.link.toNat false
  | 0x1C => half x.link.toNat true
  | 0x20 => half x.refresh.toNat false
  | 0x24 => half x.refresh.toNat true
  | 0x28 => half x.retry.toNat false
  | 0x2C => half x.retry.toNat true
  | 0x30 => half x.killed.toNat false
  | 0x34 => half x.killed.toNat true
  | 0x38 => x.loose.toNat
  | 0x3C => x.hostTimed.toNat
  | _ => 0

def State.detReg (s : State) (off : Nat) : Nat :=
  let x := s.det
  if 0x800 ≤ off && off < 0x1800 then (x.logs.get {} ((off - 0x800) / 0x100)).reg (off % 0x100)
  else if 0x4000 ≤ off && off < 0x8000 then (s.ctx ((off - 0x4000) / 0x40)).detReg (off % 0x40)
  else
  match off with
  | 0x000 => 0x101
  | 0x004 => x.profile.toNat
  | 0x008 => x.profileInfo.toNat
  | 0x00C => x.lateUntagged.toNat
  | _ => 0

def Module.reg (m : Module) (r : Nat) : Nat :=
  match r with
  | 0x00 => m.state.toNat + atBit m.rate.toNat 8 + atBit m.width.toNat 16 + atBit m.repaired.toNat 24
  | 0x04 => m.retries.toNat
  | 0x08 => m.crcErrors.toNat
  | 0x0C => m.retrains.toNat
  | _ => 0

def State.slkReg (s : State) (off : Nat) : Nat :=
  if 0x100 ≤ off && off < 0x200 then (s.module ((off - 0x100) / 0x40)).reg (off % 0x40)
  else
  match off with
  | 0x000 => (if s.die.part.big then 4 else 2) + atBit s.slk.level.toNat 8 + atBit s.slk.partnerStepping.toNat 12
  | 0x004 => s.slk.events.toNat
  | _ => 0

def Channel.reg (x : Channel) (r : Nat) : Nat :=
  match r with
  | 0x00 => x.ce.toNat
  | 0x04 => x.ue.toNat
  | 0x08 => x.linkCe.toNat
  | 0x0C => x.repeats.toNat
  | 0x10 => half x.stalls.toNat false
  | 0x14 => half x.stalls.toNat true
  | 0x18 => x.rate.toNat
  | _ => x.ueAddr.toNat

def State.mcReg (s : State) (off : Nat) : Nat :=
  let x := s.mc
  if 0x100 ≤ off && off < 0x300 then (x.channels.get {} ((off - 0x100) / 0x20)).reg (off % 0x20)
  else
  match off with
  | 0x000 => 0x10010 + atBit (s.die.dramMts / 400) 8 + atBit s.die.inlineEcc.toNat 17
  | 0x004 => s.capacity / 2 ^ 20
  | 0x008 => x.events.toNat
  | 0x00C => x.scrub.toNat + atBit x.period.toNat 8
  | _ => 0

/-! ### BAR0 (R237) -/

/-- The value of a 4-byte aligned register of BAR0; an offset of no register reads zero (R10, R12). -/
def State.bar0Reg (s : State) (off : Nat) : Nat :=
  let r := off % 0x10000
  if 0x100000 ≤ off then
    if off < 0x200000 then s.cluReg ((off - 0x100000) / 0x20000) (off % 0x20000) else 0
  else
  match off / 0x10000 with
  | 0x0 => s.idReg r
  | 0x1 => s.ptnReg r
  | 0x2 => s.feReg r
  | 0x3 => s.icReg r
  | 0x4 => s.fltReg r
  | 0x5 => s.mmuReg r
  | 0x6 => s.l3cReg r
  | 0x7 => s.splReg r
  | 0x8 => s.cmpReg r
  | 0x9 => s.pwrReg r
  | 0xA => s.dspReg r
  | 0xB => s.detReg r
  | 0xC => s.svcReg r
  | 0xD => s.slkReg r
  | 0xE => s.mcReg r
  | _ => 0

/-- The addressed bytes of a register's value: an aligned read of 1, 2 or 4 bytes; none for one that is not aligned, of
which R10 says nothing. -/
def readBytes (v off size : Nat) : Option Nat :=
  if [1, 2, 4].contains size && off % size = 0 then some (v / 2 ^ (8 * (off % 4)) % 2 ^ (8 * size)) else none

/-- A host's read of BAR0, with what it latches (R10, R175). -/
def State.readBar0 (s : State) (off size : Nat) : Option (Nat × State) :=
  let w := off / 4 * 4
  let r := s.throughLatch w (s.bar0Reg w)
  (readBytes r.1 off size).map (fun v => (v, r.2))

/-! ### The views of a VF (R42, R174, R239, R261 to R263, R313, R399) -/

/-- Context `c` is one of partition `n`'s. -/
def State.ownCtx (s : State) (n c : Nat) : Bool := (s.ctx c).partition == n && (s.ctx c).state != .closed

/-- FE in VF `n`: the windows of the partition's contexts and queue range, and the table's copy of its own units; every
other window reads zero. MODE reads UNBOUND while the VF gives no access to its partition. -/
def State.vfFe (s : State) (n r : Nat) : Nat :=
  let bound := s.onVf n
  if r = 0x004 then (if bound then 0 else 2) + atBit s.stageShown 2
  else if !bound then 0
  else if 0x1000 ≤ r && r < 0x2000 then if s.ownCtx n ((r - 0x1000) / 16) then s.feReg r else 0
  else if 0x4000 ≤ r && r < 0x8000 then
    let q := (r - 0x4000) / 16
    if decide ((s.part n).qFirst.toNat ≤ q) && decide (q < (s.part n).qFirst.toNat + (s.part n).qCount.toNat) then s.feReg r
    else 0
  else if 0x8000 ≤ r && r < 0x9000 then wordAt (s.capCopy (s.vfCaps n)) (r - 0x8000)
  else s.feReg r

/-- FLT in VF `n`: the global registers, its own partition's window, and those of its contexts. -/
def State.vfFlt (s : State) (n r : Nat) : Nat :=
  if 0x800 ≤ r && r < 0x840 then s.fltReg (r + 0x40 * n)
  else if 0x800 ≤ r && r < 0x4000 then 0
  else if 0x4000 ≤ r && r < 0x8000 then if s.ownCtx n ((r - 0x4000) / 0x40) then s.fltReg r else 0
  else s.fltReg r

/-- The sources that VF `n` shows: FAULT_P, EVENT_P, and COMPLETE_C of its contexts. -/
def State.vfSource (s : State) (n src : Nat) : Bool :=
  src == 32 + n || src == 48 + n || (decide (256 ≤ src) && decide (src < 512) && s.ownCtx n (src - 256))

/-- IC in VF `n`: IC_ID, its sources, and the summaries masked to them. -/
def State.vfIc (s : State) (n r : Nat) : Nat :=
  let mask (i v : Nat) : Nat :=
    ((List.range 32).map (fun b => if s.vfSource n (32 * i + b) then atBit (v / 2 ^ b % 2) b else 0)).sum
  if r = 0 then s.icReg 0
  else if 0x1000 ≤ r && r < 0x1800 then if s.vfSource n ((r - 0x1000) / 4) then s.icReg r else 0
  else if 0x100 ≤ r && r < 0x140 then mask ((r - 0x100) / 4) (s.icReg r)
  else if 0x180 ≤ r && r < 0x1C0 then mask ((r - 0x180) / 4) (s.icReg r)
  else 0

/-- DET in VF `n`: the global registers, its own log window at 0x800, and the windows of its contexts. -/
def State.vfDet (s : State) (n r : Nat) : Nat :=
  if 0x800 ≤ r && r < 0x900 then s.detReg (r + 0x100 * n)
  else if 0x900 ≤ r && r < 0x4000 then 0
  else if 0x4000 ≤ r && r < 0x8000 then if s.ownCtx n ((r - 0x4000) / 0x40) then s.detReg r else 0
  else s.detReg r

/-- A register of the BAR0 of VF `n`: four blocks of 64 KiB, of which only FE_STATUS answers while the VF gives no access. -/
def State.vfReg (s : State) (n off : Nat) : Nat :=
  let r := off % 0x10000
  match off / 0x10000, s.onVf n with
  | 0, _ => s.vfFe n r
  | 1, true => s.vfFlt n r
  | 2, true => s.vfIc n r
  | 3, true => s.vfDet n r
  | _, _ => 0

/-- The BAR0 offset whose counter a VF's offset reads. -/
def vfCounter (off : Nat) : Nat := if off / 0x10000 = 3 then 0xB0000 + off % 0x10000 else off

/-- A read of the BAR0 of VF `n`, which only the leader presents (R42, R175). -/
def State.readVf (s : State) (n off size : Nat) : Option (Nat × State) :=
  let w := off / 4 * 4
  let v := s.vfReg n w
  let r := if w / 0x10000 = 3 && s.onVf n && decide (0x4000 ≤ w % 0x10000) && s.ownCtx n ((w % 0x10000 - 0x4000) / 0x40) then
      s.throughLatch (vfCounter w) v else (v, s)
  if s.leader then (readBytes r.1 off size).map (fun v => (v, r.2)) else none

/-- A read of a doorbell page of BAR2 and of VF `n`'s BAR2. -/
def State.readBar2 (s : State) (off size : Nat) : Option Nat :=
  readBytes (if off / 0x1000 < 1024 then s.doorbellReg (off / 0x1000) (off / 4 * 4 % 0x1000) else 0) off size

def State.readVfBar2 (s : State) (n off size : Nat) : Option Nat :=
  (s.vfQueue n off).bind (fun q => readBytes (s.doorbellReg q (off / 4 * 4 % 0x1000)) off size)

/-- A read of `n` bytes through the aperture, within a line of usable DRAM; an uncorrectable error is the host's (R238,
R310). -/
def State.readAperture (s : State) (off n : Nat) : Option (List U8) × State :=
  let a := s.apertureAddr off
  if !s.memUp || s.capacity < a + n then (none, s)
  else
    let s := s.apertureServed a n false
    if s.failing a n then (none, s.hostDram (a / 64 * 64)) else (some (s.peek a n), s)

end Sys2Proof.Machine
end

