-- ==== Sys2Proof/Tests/Slice0.lean ====
section
/-! SUPPORT. The tests of the model: words written out from the encodings, the worked examples of the specification,
a refused term for each check of WellFormed, and for every obligation a state and operands that meet its hypotheses. -/

namespace Sys2Proof.Tests

open Sys2Proof Sys2Proof.Machine

set_option Elab.async false

/-! ### Small states -/

/-- A die that has started: stage 3, every Thimble core, 1 GiB of DRAM at 8000 MT/s. -/
def up : State :=
  { State.reset with die := { State.reset.die with
      inReset := false, pinLow := false, stage := .finished, thimbles := 0x3F, dramMib := 1024, dramMts := 8000 } }

/-- Partition 0 of it: eight cores, the pipes and ways, one bank and DMA channel, windows over DRAM and the host's first GiB. -/
def ownPart : Part16 :=
  { enable := true, qFirst := 0, qCount := 16, quota := 8, cores := 0xFF, banks := 1, pipes := 0xF, ways := 0xFFFF, dma := 1
    windows := [(0, { valid := true, rd := true, wr := true, base := 0, size := 2 ^ 30 }),
                (1, { valid := true, rd := true, wr := true, base := 2 ^ 51, size := 2 ^ 30 })]
    regs := [(0, { rate := 100, burst := 64 })] }

/-- A page table at the end of the first GiB, whose first entry maps that GiB to DRAM address 0. -/
def tables : Mem := Mem.putBytes [] 0x3FFF1000 [0x0F]

/-- Context 0 runs in partition 0, which holds credit, at level 2, relaxed or strict. Core 0 holds the translation of its
first GiB, and the walk cache the pointer to the table that maps it. -/
def open_ (strict : Bool) : State :=
  { up with
    mem := tables
    ptn := { up.ptn with parts := [(0, ownPart)], credit := [(0, 65536), (1, 65536), (2, 65536), (6, 65536)] }
    ctxs := [(0, { state := .running, strict := strict, csLevel := 2, priority := 1 })]
    mmu := { up.mmu with
      coreTlb := [(0, [{ ctx := 0, page := 0, pages := 2 ^ 18, pa := 0, wr := true, ex := true, uncached := false }])]
      walkCache := [{ ctx := 0, level := 4, pre := 0, table := 0x3FFF1000 }] } }

/-- A kernel of context 0 that runs as command 1 of queue 0. -/
def kernel : Job :=
  { queue := 0, slot := 0, ctx := 0, opcode := 5, kind := 1, handle := 0, nonRestart := false, payload := [], st := .running }

/-- A group of that kernel with 64 registers, whose source registers hold 1 in thread 0. -/
def group : Group := { job := 1, block := 1, index := 0, n := 64, seed := 0 }

/-- Its block, on core 0, with 4 KiB of local memory and one matrix engine. -/
def block : Block :=
  { job := 1, linear := 0, cluster := 1, rank := 0, size := 1, core := 0, base := 0, bytes := 4096, groups := [1], engines := 1 }

/-- The state in which group `x`, at key 1, runs. -/
def running (x : Group) : State :=
  { open_ false with jobs := [(1, kernel)], groups := [(1, x)], blocks := [(1, block)] }

/-- Form V: DST g0, SA g2, SB g4 or u4, SC g6, under p7. -/
def fv (sel : BitVec 2) (ty : BitVec 2) (dst : U8) (sub : BitVec 6) : VForm :=
  ⟨false, 7, sel, dst, 2, 4, 6, 0, false, ty, 0, sub, 0⟩

/-- Accesses of a core that pass every check: nothing is left of them but their traffic. -/
theorem passes {s : State} {j : Nat} {v : Job} {rs : List (Nat × Nat × Access)} (hj : s.jobs.find j = some v)
    (hp : s.probe v.ctx rs = (none, s)) (hf : s.funded v.ctx rs = true)
    (hd : rs.findSome? (fun r => s.dramAt v.ctx r.1 r.2.1 r.2.2 (r.2.2 == .write)) = none) :
    Goes (fun k => s.probedAs true j 0 rs k) (s.traffic j v.ctx rs) := by
  intro k
  simp [State.probedAs, State.passed, hj, hp, hf, hd]

/-! ### Words -/

theorem test_word_ffma (g : Nat) : decodeWords g [0x11080C0405060000] =
    some (.ffma g ⟨false, 1, 0, 12, 4, 5, 6, 0, false, 0, 0, 0, 0⟩, []) := rfl

theorem test_word_manchor (g : Nat) : decodeWords g [0x790A0408000DC021] =
    some (.manchor g ⟨false, 7, true, 4, 8, 0, 1, 23, 33⟩, []) := rfl

theorem test_word_bra (g : Nat) : decodeWords g [0xF800FFFFFE000004] = some (.bra g ⟨true, 7, 0xFFFFFE, 4⟩, []) := rfl

theorem test_words_round_trip_hypotheses :
    (Instr.ffma 3 ⟨false, 1, 0, 12, 4, 5, 6, 0, false, 0, 0, 0, 0⟩).readable = true ∧
    encodeWords (.ffma 3 ⟨false, 1, 0, 12, 4, 5, 6, 0, false, 0, 0, 0, 0⟩) = some [0x11080C0405060000] ∧
    (Instr.bra 3 ⟨true, 7, 0xFFFFFE, 4⟩).readable = true ∧
    encodeWords (.bra 3 ⟨true, 7, 0xFFFFFE, 4⟩) = some [0xF800FFFFFE000004] := by decide

/-! ### The queue -/

theorem test_idle_hypotheses : State.reset.pending = [] ∧ State.reset.die.waiting = none := ⟨rfl, rfl⟩

/-! ### Thread instructions -/

theorem group_issues : Issues (running group) 1 group false 7 := ⟨rfl, by decide⟩

theorem test_p7_hypotheses :
    (running group).mayIssue 1 = some group ∧ (fv 0 0 7 0).dst = 7 ∧ (fv 0 0 7 0).sel ≠ 3 ∧
    okReg group (fv 0 0 7 0).ty (fv 0 0 7 0).sa = true ∧
    okSrcB group (fv 0 0 7 0) = true ∧ (Rnd.ofField (fv 0 0 7 0).rnd.toNat).isSome = true ∧
    group.names (fv 0 0 7 0).sa.toNat 1 = true ∧ group.okB (fv 0 0 7 0) = true := by decide

theorem test_empty_set_hypotheses :
    (Instr.fadd 1 { fv 0 0 0 0 with pneg := true }).laneForm = some (1, { fv 0 0 0 0 with pneg := true }) ∧
    (running group).mayIssue 1 = some group ∧ group.executing true 7 = 0 := by decide

theorem test_float_hypotheses :
    Issues (running group) 1 group false 7 ∧ (fv 0 1 0 0).sel ≠ 3 ∧ okBinary (fv 0 1 0 0) group = true ∧
    okReg group (fv 0 1 0 0).ty (fv 0 1 0 0).sc = true ∧ okUnary (fv 0 1 0 0) true true true group = true :=
  ⟨group_issues, by decide⟩

theorem test_compare_hypotheses : Issues (running group) 1 group false 7 ∧
    (∀ ty : BitVec 2, (fv 0 ty 0 0).sel ≠ 3 ∧ (fv 0 ty 0 0).dst.toNat < 8 ∧
      okReg group (fv 0 ty 0 0).ty (fv 0 ty 0 0).sa = true ∧ okSrcB group (fv 0 ty 0 0) = true ∧
      (Rnd.ofField (fv 0 ty 0 0).rnd.toNat).isSome = true) ∧
    group.names (fv 0 0 0 0).sa.toNat 1 = true ∧ group.okB (fv 0 0 0 0) = true :=
  ⟨group_issues, by decide, by decide, by decide⟩

/-- CVT from an FP16 code (13) or an FP32 one (14) in g2. -/
def fc (sub : BitVec 6) : VForm := ⟨false, 7, 0, 0, 2, 0, 0, 0, false, 0, 0, sub, 0⟩

theorem test_approximation_hypotheses :
    Issues (running group) 1 group false 7 ∧ (fv 0 1 0 0).sel ≠ 3 ∧
    okUnary (fv 0 1 0 0) true false ((fv 0 1 0 0).ty == 1) group = true ∧
    okUnary { fv 0 1 0 0 with rnd := 0 } true false false group = true ∧
    okUnary (fv 0 0 0 0) false false false group = true ∧ okAcvt (fv 1 0 0 0) group = true ∧
    okAcvt { fv 1 1 0 1 with sa := 4 } group = true ∧ (running group).levelOf group = 2 ∧
    okTwin (fv 0 0 0 0) true true false group = true ∧ okTwin (fv 0 0 0 0) false false true group = true ∧
    okTwin (fv 0 0 0 0) true false false group = true ∧
    (Fmt.ofCode 13 = some .fp16 ∧ Fmt.ofCode ((fc 14).sub.toNat % 32) = some .fp32 ∧
      okCvt 13 (fc 14) .fp16 .fp32 group = true ∧ Fmt.fp32.isPair = false) ∧
    (Fmt.ofCode ((fc 15).sub.toNat % 32) = some .fp64 ∧ okCvt 13 (fc 15) .fp16 .fp64 group = true) ∧
    (Fmt.ofCode ((fc 16).sub.toNat % 32) = some .tw32 ∧ okCvt 13 (fc 16) .fp16 .tw32 group = true) :=
  ⟨group_issues, by decide⟩

theorem test_integer_hypotheses :
    Issues (running group) 1 group false 7 ∧ (fv 0 0 0 0).sel ≠ 3 ∧
    (∀ c b, IntOp.imad ≠ .icmp c b) ∧ okInt .imad (fv 0 0 0 0) group = true ∧ group.names 0 1 = true ∧
    group.okB (fv 0 0 0 0) = true ∧ group.names 2 1 = true ∧ (∀ c, S2rSel.rank ≠ .clock c) ∧
    (running group).mayIssue 1 = some group ∧ (fv 1 0 63 0).sel = 1 ∧ (fv 2 0 63 0).sel = 2 ∧
    (fv 1 0 63 0).dst.toNat < 64 ∧ (fv 1 0 63 0).sb.toNat < 64 ∧ (fv 1 0 63 0).sa.toNat < 64 :=
  ⟨group_issues, by decide, by intros; simp, by decide, by decide, by decide, by decide, by intros; simp, by decide⟩

theorem test_shuffle_hypotheses :
    Issues (running group) 1 group false 7 ∧ (fv 0 0 0 3).sel ≠ 3 ∧ group.names 0 1 = true ∧
    group.names 2 1 = true ∧ group.okB (fv 0 0 0 3) = true ∧ (fv 0 0 0 3).sc.toNat < 8 ∧ (fv 0 0 0 3).sub.toNat < 4 ∧
    (running group).mayIssue 1 = some group ∧
    (∀ sub : BitVec 6, sub.toNat < 4 → (fv 0 0 62 sub).sel ≠ 3 ∧ (fv 0 0 62 sub).sa.toNat < 8 ∧
      (fv 0 0 62 sub).dst.toNat < 64 ∧ ((fv 0 0 62 sub).sub = 2 → (fv 0 0 62 sub).dst.toNat % 2 = 0)) :=
  ⟨group_issues, by decide, by decide, by decide, by decide, by decide, by decide, by decide, by decide⟩

theorem test_philox_hypotheses : ∃ f : VForm, f = { fv 0 0 60 0 with sa := 0, sc := 0 } ∧
    Issues (running group) 1 group f.pneg f.pred ∧ f.sel ≠ 3 ∧
    f.dst.toNat % 4 = 0 ∧ group.names f.dst.toNat 4 = true ∧ group.okB f = true ∧ f.sa = 0 ∧ f.sc = 0 ∧ f.rnd = 0 ∧
    f.sat = false ∧ f.ty = 0 ∧ f.negAbs = 0 ∧ f.sub = 0 := ⟨_, rfl, group_issues, by decide⟩

theorem test_undefined_encoding_hypotheses :
    (Instr.fadd 1 (fv 3 0 0 0)).laneForm = some (1, fv 3 0 0 0) ∧ Issues (running group) 1 group false 7 ∧
    (fv 3 0 0 0).sel = 3 ∧ (Instr.fadd 1 (fv 0 0 64 0)).defined (running group) group = false ∧
    (running group).mayIssue 1 = some group ∧ group.executing (bit (0x7000000000000000 : U64) 63) 7 ≠ 0 ∧
    group.executing (bit (0xF000000000000000 : U64) 63) 7 = 0 ∧ 64 ≤ (fv 0 0 64 0).dst.toNat ∧ (fv 0 0 0 0).sel = 0 :=
  ⟨rfl, group_issues, by decide⟩

/-- The group past a branch: threads 0 to 31 are active, the rest wait with the join address 9. -/
def forked : Group :=
  { group with active := 0xFFFFFFFF, stack := [(9, 5, 0xFFFFFFFF00000000), (9, 9, 0xFFFFFFFFFFFFFFFF)], calls := [7]
               preds := [(0, 0xFFFF), (1, 0)] }

theorem test_branch_hypotheses :
    (running forked).mayIssue 1 = some forked ∧ forked.executing false 7 = forked.active ∧
    (forked.executing false 1 = 0 ∧ forked.executing false 1 ≠ forked.active) ∧
    (forked.executing false 0 ≠ 0 ∧ forked.executing false 0 ≠ forked.active ∧
      forked.stack.length + 2 ≤ (running forked).stackLimit forked) ∧
    (∃ y : Group, y = { forked with stack := List.replicate 15 (9, 9, 0xFFFFFFFF) } ∧
      (running y).mayIssue 1 = some y ∧ y.executing false 0 ≠ 0 ∧ y.executing false 0 ≠ y.active ∧
      (running y).stackLimit y < y.stack.length + 2) ∧
    (forked.stack = (9, 5, 0xFFFFFFFF00000000) :: [(9, 9, 0xFFFFFFFFFFFFFFFF)] ∧ (8 : Nat) ≠ 9 ∧ forked.active ≠ 0) ∧
    group.stack = [] ∧ Issues (running forked) 1 forked false 7 ∧ forked.calls = 7 :: [] ∧ group.calls = [] ∧
    forked.live &&& ~~~(forked.executing false 7) ≠ 0 ∧ group.live &&& ~~~(group.executing false 7) = 0 :=
  ⟨by decide, by decide, by decide, by decide, ⟨_, rfl, by decide⟩, by decide, by decide, ⟨by decide, by decide⟩, by decide⟩

/-- A second group of the block. -/
def pairOf (s : State) : State :=
  { s with groups := [(1, group), (2, { group with index := 1 })], blocks := [(1, { block with groups := [1, 2] })] }

/-- The kernel parks: PARKABLE, with SUSPEND under way. -/
def parking : State :=
  { running group with jobs := [(1, { kernel with parkable := true, suspending := true })] }

theorem test_barrier_hypotheses :
    Issues (running group) 1 group false 7 ∧ (fv 0 0 0 0).sel = 0 ∧ (fv 1 0 0 0).sel = 1 ∧ (fv 1 0 0 0).sb.toNat < 64 ∧
    (Issues (running forked) 1 forked false 7 ∧ forked.executing false 7 ≠ forked.live) ∧
    ((pairOf (running group)).blocks.find 1 = some { block with groups := [1, 2] } ∧
      group.executing false 7 = group.live ∧ group.stack.length ≤ 16 ∧ group.spilled = [] ∧
      0 + 1 ≠ ((pairOf (running group)).liveGroups 1).length ∧ 0 + 1 ≠ (({ group with uregs := [(4, 3)] } : Group).ureg 4).toNat ∧
      0 + 1 = (({ group with uregs := [(4, 1)] } : Group).ureg 4).toNat) ∧
    ((running group).blocks.find 1 = some block ∧ 0 + 1 = ((running group).liveGroups 1).length ∧
      (fv 0 0 0 0).sa.toNat % 16 ≠ 15) ∧
    ((running group).jobs.find 1 = some kernel ∧ kernel.suspending = false) ∧
    (Issues parking 1 group false 7 ∧ parking.blocks.find 1 = some block ∧
      (∃ v, parking.jobs.find 1 = some v ∧ v.parkable = true ∧ v.suspending = true) ∧
      0 + 1 = (parking.liveGroups 1).length ∧ ({ fv 0 0 0 0 with sa := 15 } : VForm).sa.toNat % 16 = 15 ∧
      ∀ k z, (k, z) ∈ parking.liveGroups 1 → (k = 1 ∨ k ∈ ([] : List Nat)) ∧ z.stack = []) ∧
    (((pairOf (running group)).clusterBlocks { block with groups := [1, 2] }).any (fun q =>
      ((pairOf (running group)).liveGroups q.1).any (fun z => !q.2.cbar.contains z.1)) = true) ∧
    ((fv 0 0 0 6).sub.toNat % 8 ≠ 7 ∧ block.retired = false) := by
  refine ⟨group_issues, by decide, by decide, by decide, ⟨⟨by decide, by decide⟩, by decide⟩, by decide, by decide,
    by decide, ⟨⟨rfl, by decide⟩, by decide, ⟨_, rfl, by decide, by decide⟩, by decide, by decide, ?_⟩, by decide,
    by decide⟩
  intro k z h
  have : (k, z) = (1, group) := by simpa [parking, running, State.liveGroups, group, open_] using h
  cases this
  exact ⟨.inl rfl, rfl⟩

theorem test_cbar_completes_hypotheses :
    ((running group).setBlock 1 { block with cbar := [1] }).clusterBlocks block |>.all (fun q =>
      (((running group).setBlock 1 { block with cbar := [1] }).liveGroups q.1).all (fun z => q.2.cbar.contains z.1)) := by
  decide

/-! ### Memory instructions -/

/-- A group with thread 0 alone: g2 and g3 hold the address 0x1000, g1 the FP32 value 1.0. -/
def solo : Group :=
  { group with active := 1, live := 1, regs := [(64, 0x3F800000), (128, 0x1000), (192, 0)], uregs := [(0, 0x000E0000)] }

/-- The same at the local address 16. -/
def soloLocal : Group := { solo with regs := [(64, 0x3F800000), (128, 16), (192, 0)] }

/-- Memory form: data g0, address g2, 8 bytes. -/
def fm (space : BitVec 2) : MForm := ⟨false, 7, space, 0, 2, 3, 0, 0, 0⟩

theorem test_access_hypotheses :
    (Issues (running soloLocal) 1 soloLocal false 7 ∧ (fm 1).size.toNat ≤ 4 ∧ (fm 1).sem ≠ 3 ∧ (fm 1).scope ≠ 7 ∧
      soloLocal.okAddr (fm 1) = true ∧ soloLocal.okData 0 8 = true ∧
      (running soloLocal).accessTrap soloLocal 1 8 [(0, 16)] = none ∧
      (threads (soloLocal.executing false 7)).map (fun t => (t, soloLocal.addrAt (fm 1) 0 t)) = [(0, 16)]) ∧
    ((running soloLocal).accessTrap soloLocal 3 8 [(0, 16)] = none ∧
      (running soloLocal).packWrite soloLocal 3 [(0, 16)] = none) ∧
    (Issues (running solo) 1 solo false 7 ∧ solo.okAddr (fm 0) = true ∧
      (running solo).accessTrap solo 0 8 [(0, 0x1000)] = none ∧
      (threads (solo.executing false 7)).map (fun t => (t, solo.addrAt (fm 0) 0 t)) = [(0, 0x1000)] ∧
      ∃ t, Goes (fun k => ((running solo).onGroup solo).probedAs true solo.job 0 [(0x1000, 8, .write)] k) t) :=
  ⟨⟨⟨rfl, by decide⟩, by decide⟩, by decide, ⟨rfl, by decide⟩, by decide, by decide, by decide, _, fun _ => rfl⟩

theorem test_load_store_hypotheses :
    (∃ t, (∀ k, (running solo).runM 1 (fm 0) (fm 0).offset.toInt (fun y => y.okData (fm 0).data.toNat 8) .read .none k =
      k t solo [(0, 0x1000)])) ∧
    (∃ t, (∀ k, (running solo).runM 1 (fm 0) (fm 0).offset.toInt (fun y => y.okData (fm 0).data.toNat 8) .write .none k =
      k t solo [(0, 0x1000)])) ∧
    ([(0, 0x1000)].map Prod.fst : List Nat).Nodup ∧ (∀ a ∈ [((0 : Nat), (0x1000 : Nat))], a.1 < 64) :=
  ⟨⟨_, fun _ => rfl⟩, ⟨_, fun _ => rfl⟩, by decide, by decide⟩

theorem test_store_frame_hypotheses :
    (running solo).mem.wf = true ∧ (0 : Nat) < 8 ∧ 0xFF8 % 4096 + 8 ≤ 4096 ∧
    ((running solo).onGroup solo).reachOf 0 0xFF8 1 .write = some 0xFF8 ∧ ((running solo).onGroup solo).keeps 0xFF8 = false ∧
    (running solo).localPlace solo.block 1 0xFF8 = some (1, 0xFF8) ∧ (running solo).blocks.find 1 = some block ∧
    block.mem.wf = true := by decide

/-- Thread 0 alone with the FP32 value 1.0 in g2, the address 0x800 in g4 and g5, and FP32 with an anchor in u0. -/
def adds (anchor : U32) : Group :=
  { group with active := 1, live := 1, regs := [(128, 0x3F800000), (256, 0x800), (320, 0)], uregs := [(0, anchor)] }

/-- ATOM: DATA g1, address g4. -/
def ff (space : BitVec 2) (size : BitVec 3) : MForm := ⟨false, 7, space, 1, 4, size, 0, 0, 0⟩

/-- The access of `adds` passes, in a space with a size. -/
def AtomPasses (y : Group) (f : MForm) (off : Int) (ok : Group → Bool) : Prop :=
  ∃ t, ∀ k, (running y).runM 1 f off ok .atomic .none k = k t y [(0, 0x800)]

theorem test_atomic_hypotheses :
    (∀ op ∈ [AtomOp.iadd true, .fadd false], AtomPasses (adds 0x000E0001) (ff 0 2) (ff 0 2).offset.toInt (fun y =>
      y.okData ((ff 0 2).data.toNat + 1) 4 && (!atomReturns op || y.okData (ff 0 2).data.toNat 4) &&
        (match op with
         | .fadd _ => !(running (adds 0x000E0001)).strictGroup y && ((4 : Nat) == 4 || (4 : Nat) == 8)
         | _ => true))) ∧
    AtomPasses (adds 0x000E0001) (ff 0 2) (ff 0 2).offset.toInt (fun y =>
      y.okData (ff 0 2).data.toNat 4 && y.okData ((ff 0 2).data.toNat + 1) 4) := by
  refine ⟨fun op h => ?_, _, fun _ => rfl⟩
  simp only [List.mem_cons, List.not_mem_nil, or_false] at h
  obtain rfl | rfl := h <;> exact ⟨_, fun _ => rfl⟩

theorem test_afadd_hypotheses :
    (∀ space ∈ [(0 : BitVec 2), 1], AtomPasses (adds 0x000E0001) (ff space 3) 0 (okAfadd (ff space 3))) ∧
    AtomPasses (adds 0x000E0000) (ff 1 3) 0 (okAfadd (ff 1 3)) ∧
    (∀ a ∈ [((0 : Nat), (0x800 : Nat))], afaddEnters (afaddOperand (ff 1 3) (adds 0x000E0001) a.1) 1 = true) ∧
    afaddEnters (afaddOperand (ff 1 3) (adds 0x000E0000) 0) 0 = false ∧
    signedOf 16 ((adds 0x000E0001).ureg 0).toNat = 1 ∧ signedOf 16 ((adds 0x000E0000).ureg 0).toNat = 0 := by
  refine ⟨fun sp h => ?_, ⟨_, fun _ => rfl⟩, by decide, by decide, by decide, by decide⟩
  simp only [List.mem_cons, List.not_mem_nil, or_false] at h
  obtain rfl | rfl := h <;> exact ⟨_, fun _ => rfl⟩

/-! ### Matrix instructions -/

/-- A 2 by 2 tensor descriptor in global space: base, format. -/
def tdBytes (base : Nat) (fmt : U8) : List U8 :=
  toBytes 8 base ++ toBytes 4 2 ++ toBytes 4 2 ++ toBytes 8 64 ++ [fmt]

/-- What it parses to. -/
def td (base : Nat) (fmt : Fmt) : Td :=
  { base := base, rows := 2, cols := 2, pitch := 64, fmt := fmt, space := 0, colMajor := false, scaled := false
    scaleRows := false, summarised := false, scaleAddr := 0, scalePitch := 0, summary := 0 }

/-- A group whose u4 to u7 name the operand at 0x1000 and u8 to u11 the epilogue at 0x1100, or 0x1140 for Bolts. -/
def mxGroup : Group :=
  { group with uregs := [(4, 0x1000), (5, 0), (6, 0), (7, 0), (8, 0x1100), (9, 0), (10, 0), (11, 0), (12, 0x1140), (13, 0), (14, 0), (15, 0)] }

/-- A loaded half of one line, 1.0 in FP16. -/
def half : MxHalf := { td := 0x1000, fmt := 13, kc := 0, codes := [[0x3C00]], scales := [[]] }

/-- A bank whose first row and column have the exponent 1. -/
def bank : MxBank := { rows := [some 1], cols := [some 1] }

/-- The group with its descriptors in memory and its engine loaded. -/
def mxState : State :=
  { running mxGroup with
    mem := ((((Mem.putBytes tables 0x1000 (tdBytes 0x2000 13)).putBytes 0x1100 (toBytes 8 13 ++ toBytes 8 0x1200)).putBytes 0x1140
      (toBytes 8 0x11 ++ toBytes 8 0x1240)).putBytes 0x1200 (tdBytes 0x3000 13)).putBytes 0x1240 (tdBytes 0x4000 17)
    blocks := [(1, { block with mx := [(0, { halves := [(0, half), (2, half)], banks := [(0, bank)] })] })] }

/-- What its accesses start from. -/
def mx0 : State := mxState.onGroup mxGroup

def mxBlock : Block := { block with mx := [(0, { halves := [(0, half), (2, half)], banks := [(0, bank)] })] }

/-- Form X: A and B at u4, OUT at u8, both FP16, half 0 of each, bank 0. -/
def fx : XForm := ⟨false, 7, false, 4, 4, 8, 13, 13, 0⟩

theorem mx_issues : Issues mxState 1 mxGroup false 7 := ⟨rfl, by decide⟩

theorem test_mload_hypotheses :
    Issues mxState 1 mxGroup fx.pneg fx.pred ∧ mxGroup.executing fx.pneg fx.pred = mxGroup.live ∧
    mxState.blocks.find 1 = some mxBlock ∧ (if fx.engine then 2 else 1) ≤ mxBlock.engines ∧ fx.flags.toNat < 64 ∧
    xPair fx = false ∧ xSweep fx = false ∧ fx.a.toNat < 64 ∧ fx.a.toNat % 4 = 0 ∧
    mxGroup.opDesc fx.a.toNat = some { td := 0x1000, origin := 0, k0 := 0, kc := 0 } ∧
    operandTrap (td 0x2000 .fp16) fx.fmtA false = none ∧ operandTrap (td 0x2000 .fp16) fx.fmtB true = none ∧
    32 * (32 * 2 ^ 0) * (td 0x2000 .fp16).fmt.bits / 8 ≤ 32768 :=
  ⟨mx_issues, by decide⟩

theorem test_mload_goes :
    ∃ t, (∀ trap, GoesWith (fun k => mx0.withTd mxGroup.job 0x1000 true trap k) t (td 0x2000 .fp16)) ∧
      ∃ u, ∀ trap, Goes (fun k => t.mxRanges true mxGroup.job (t.ctx (t.ctxOf mxGroup)).partition mxGroup.block
        trap 0 ((td 0x2000 .fp16).lines 0 0 1 1 ++ (td 0x2000 .fp16).scaleLines 0 0 1 1) .read [] k) u :=
  ⟨_, fun _ _ => rfl, _, fun _ _ => rfl⟩

theorem test_manchor_goes :
    (∃ t, GoesWith (fun k => mx0.withTerms mxGroup (td 0x2000 .fp16) false (xSweep fx) 0 k) t false ∧
      ∃ u, GoesWith (fun k => t.withTerms mxGroup (td 0x2000 .fp16) true (xSweep fx) 0 k) u false) :=
  ⟨_, fun _ => rfl, _, fun _ => rfl⟩

/-- The epilogue of `mxState`. -/
def epi (control out : Nat) : Epilogue :=
  { control := control, outTd := out, bias := 0, scale := 0, rowScale := 0, colScale := 0, lo := 0, hi := 0 }

theorem test_mstore_hypotheses :
    ((mxBlock.mx.get {} fx.engine.toNat : MxEngine).banks.find (xBank fx) = some bank ∧
      mxGroup.descAddr fx.out.toNat = some 0x1100 ∧ mxGroup.descAddr 12 = some 0x1140 ∧ fx.out.toNat < 64 ∧
      fx.out.toNat % 4 = 0) ∧
    bank.bolts.all (fun q => q.2.agrees) = true ∧
    ({ bank with bolts := [(0, { shadow := 1 })] } : MxBank).bolts.all (fun q => q.2.agrees) = false ∧
    (∃ s, (∀ trap q, mx0.withEpilogue mxGroup.job 0x1100 true false trap q = q s (epi 13 0x1200) (td 0x3000 .fp16)) ∧
      ∃ t, (∀ trap, Goes (fun q => s.mxRanges true mxGroup.job (s.ctx (s.ctxOf mxGroup)).partition mxGroup.block
        trap 0 ((epi 13 0x1200).writes (td 0x3000 .fp16) 0 0 2 2).1 .write
        ((epi 13 0x1200).reads 0 0 2 2 ++ ((epi 13 0x1200).writes (td 0x3000 .fp16) 0 0 2 2).2) q) t) ∧
        ∃ u, Goes (fun q => t.beginSummary mxGroup.job (s.ctxOf mxGroup) (epi 13 0x1200) (td 0x3000 .fp16) q) u) :=
  ⟨by decide, by decide, by decide, _, fun _ _ => rfl, _, fun _ _ => rfl, _, fun _ => rfl⟩

theorem test_madd_hypotheses :
    ∃ s, (∀ trap q, mx0.withEpilogue mxGroup.job 0x1140 true true trap q = q s (epi 0x11 0x1240) (td 0x4000 .bolt)) ∧
    (∃ t, (∀ trap, Goes (fun q => s.mxRanges true mxGroup.job (s.ctx (s.ctxOf mxGroup)).partition mxGroup.block
      trap 0 ((td 0x4000 .bolt).lines 0 0 1 1) .read [] q) t) ∧
      (∀ i ∈ List.range 2, ∀ j ∈ List.range 2,
        Bolt.addSpill (bank.bolts.get {} (32 * i + j)) (anchorOf ((bank.rows[i]?).getD none) ((bank.cols[j]?).getD none))
        (t.spaceRead (s.ctxOf mxGroup) mxGroup.block 0 ((td 0x4000 .bolt).where_ i j).1 32) ≠ none)) :=
  ⟨_, fun _ _ => rfl, _, fun _ _ => rfl, by decide⟩

theorem test_matrix_trap_hypotheses :
    (Issues (running forked) 1 forked false 7 ∧ forked.executing false 7 ≠ forked.live) ∧
    ((running group).blocks.find 1 = some block ∧ block.engines < (if (true : Bool) then 2 else 1)) :=
  ⟨⟨⟨rfl, by decide⟩, by decide⟩, by decide⟩

theorem test_mma_hypotheses :
    Fmt.ofCode fx.fmtA.toNat = some .fp16 ∧ Fmt.ofCode fx.fmtB.toNat = some .fp16 ∧
    pairAllowed .fp16 .fp16 (mxBlock.faithful fx.engine) = true ∧
    (mxBlock.mx.get {} fx.engine.toNat : MxEngine).halves.find (xAH fx) = some half ∧
    (mxBlock.mx.get {} fx.engine.toNat : MxEngine).halves.find (xBH fx) = some half ∧ half.fmt = fx.fmtA.toNat ∧
    half.fmt = fx.fmtB.toNat ∧ staleLines bank.rows (halfValues (some half)) = false ∧
    staleLines bank.cols (halfValues (some half)) = false ∧
    ((mxBlock.mx.get {} fx.engine.toNat : MxEngine).halves.find 1 = none ∧ staleLines bank.rows (halfValues none) = false) := by
  decide +kernel

/-! ### Textures and rays -/

/-- A texture of one texel at 0x2000, and what its descriptor parses to. -/
def texBytes : List U8 := toBytes 8 0x2000 ++ [0, 0, 0, 0, 0, 0, 1, 3] ++ toBytes 4 256 ++ List.replicate 44 0
def tex : Tex :=
  { base := 0x2000, width := 1, height := 1, layers := 1, levels := 1, sfmt := 3, pitch := 256, astc := 0, kind := 0
    srgb := false, flags := 0, clearA := List.replicate 16 0, clearB := List.replicate 16 0 }

/-- Thread 0 at coordinates (0, 0), its descriptor at 0x1000 and its sampler at 0x1040. -/
def texGroup : Group :=
  { group with active := 1, live := 1, regs := [(128, 0), (192, 0), (384, 0)]
               uregs := [(4, 0x1000), (5, 0), (6, 0x1040), (7, 0)] }
def texState : State := { running texGroup with mem := Mem.putBytes tables 0x1000 texBytes }

/-- The state once the descriptor and the sampler have been read. -/
def tex1 : State := (texState.onGroup texGroup).traffic 1 0 [(0x1000, 64, .read), (0x1040, 16, .read)]

theorem tex1_reached : Goes (fun k => (texState.onGroup texGroup).probedAs true texGroup.job 0
    [((texGroup.upair 4).toNat, 64, .read), ((texGroup.upair 6).toNat, 16, .read)] k) tex1 := fun _ => rfl

theorem xlat_texel : tex1.xlat 0 0x2000 4 .read = (.ok 0x2000, tex1) := rfl

theorem reached_texel : tex1.reached 0 [(0x2000, 4, .read)] = [(0x2000, 4, .read, false)] := by decide +kernel

/-- Any number of reads of one texel passes. -/
theorem probe_texel (n : Nat) : tex1.probe 0 (List.replicate n (0x2000, 4, .read)) = (none, tex1) := by
  unfold State.probe
  induction n with
  | zero => rfl
  | succ n ih =>
    rw [List.replicate_succ, List.flatMap_cons, List.foldl_append, show pieces 0x2000 4 = [(0x2000, 4)] from rfl]
    simp only [List.map_cons, List.map_nil, List.foldl_cons, List.foldl_nil, xlat_texel]
    exact ih

theorem funded_texel (n : Nat) : tex1.funded 0 (List.replicate n (0x2000, 4, .read)) = true := by
  unfold State.funded State.reached
  induction n with
  | zero => rfl
  | succ n ih =>
    rw [List.replicate_succ, List.flatMap_cons, List.all_append, ih, Bool.and_true]
    have h : [((0x2000 : Nat), (4 : Nat), Access.read, false)].all (fun q =>
      tex1.credited (tex1.ctx 0).partition q.2.2.1 q.2.2.2 q.1 q.2.1) = true := by decide +kernel
    exact (congrArg (fun l => List.all l (fun q => tex1.credited (tex1.ctx 0).partition q.2.2.1 q.2.2.2 q.1 q.2.1))
      reached_texel).trans h

theorem dramAt_texel (n : Nat) : (List.replicate n ((0x2000 : Nat), (4 : Nat), Access.read)).findSome?
    (fun r => tex1.dramAt 0 r.1 r.2.1 r.2.2 (r.2.2 == .write)) = none := by
  induction n with
  | zero => rfl
  | succ n ih =>
    rw [List.replicate_succ, List.findSome?_cons, show tex1.dramAt 0 0x2000 4 .read (Access.read == .write) = none from by
      decide +kernel]
    exact ih

theorem probed_texel (n : Nat) : Goes (fun k => tex1.probedAs true texGroup.job 0 (List.replicate n (0x2000, 4, .read)) k)
    (tex1.traffic 1 0 (List.replicate n (0x2000, 4, .read))) :=
  passes (v := kernel) rfl (probe_texel n) (funded_texel n) (dramAt_texel n)

theorem withTexels_texel (ps : List Place) (h : ∀ p ∈ ps, p = (0, 0, 0, 0)) :
    ∃ t, Goes (tex1.withTexels texGroup tex ps) t := by
  rw [List.eq_replicate_of_mem h]
  generalize ps.length = n
  have e1 : (List.replicate n ((0, 0, 0, 0) : Place)).filterMap
      (fun p => (tex.flagAddr p.1 p.2.2.1 p.2.2.2).map (fun a => (a, (4 : Nat), Access.read))) = [] := by
    rw [List.filterMap_eq_nil_iff]; intro p _; rfl
  have e2 : ((List.replicate n ((0, 0, 0, 0) : Place)).filter (fun p => (tex1.texelFlag 0 tex p).isNone)).map
      (fun p => (tex.addr p.1 p.2.1 p.2.2.1 p.2.2.2, tex.block.2.2, Access.read)) =
      List.replicate n (0x2000, 4, .read) := by
    rw [List.filter_replicate]; exact List.map_replicate
  refine ⟨tex1.traffic 1 0 (List.replicate n (0x2000, 4, .read)), fun k => ?_⟩
  have h0 : ∀ k, tex1.probedAs true texGroup.job 0 [] k = k tex1 := fun _ => rfl
  unfold State.withTexels
  simp only [show tex1.ctxOf texGroup = 0 from rfl, e1, h0]
  exact (congrArg (fun l => tex1.probedAs true texGroup.job 0 l k) e2).trans (probed_texel n k)

theorem store_texel : ∃ t, Goes (fun k => tex1.probedAs true texGroup.job 0 [(0x2000, 4, .write)] k) t := ⟨_, fun _ => rfl⟩

theorem one_store (layer : Nat → Nat) : (((threads (texGroup.executing false 7)).map (fun th =>
      (th, fetchPlace texGroup (fv 1 0 0 0) tex.kind th (layer th)))).filter
        (fun p => tex.holds p.2 && !texGroup.helper p.1)).map (fun p =>
          (tex.addr p.2.1 p.2.2.1 p.2.2.2.1 p.2.2.2.2, surfaceBytes tex.sfmt, Access.write)) = [(0x2000, 4, .write)] := by
  have h : ∀ th, fetchPlace texGroup (fv 1 0 0 0) tex.kind th (layer th) = fetchPlace texGroup (fv 1 0 0 0) tex.kind th 0 :=
    fun _ => rfl
  simp only [h]
  decide +kernel

theorem test_texture_hypotheses :
    Issues texState 1 texGroup false 7 ∧ (fv 1 0 0 0).sel = 1 ∧ (fv 1 0 0 0).sb.toNat % 4 = 0 ∧ (fv 1 0 0 0).sb.toNat < 64 ∧
    texGroup.names 0 4 = true ∧ texGroup.names 2 2 = true ∧ (texGroup.upair 4).toNat % 64 = 0 ∧
    Tex.parse (tex1.vread 0 (texGroup.upair 4).toNat 64) = some tex ∧ texGroup.names 6 1 = true ∧
    texGroup.names 2 (coordCount tex.kind false) = true ∧ texGroup.names 2 (coordCount tex.kind true) = true ∧
    bit (fv 1 0 0 0).sub 2 = false ∧ colourFormat tex.sfmt = true :=
  ⟨⟨rfl, by decide⟩, by decide, by decide, by decide, by decide, by decide, by decide, by decide +kernel, by decide, by decide,
    by decide, by decide, by decide⟩

theorem test_texels_go :
    (∀ lod : Bool, ∃ t, Goes (tex1.withTexels texGroup tex ((threads (texGroup.executing false 7)).flatMap (fun th =>
      (tex.taps (tex1.vread 0 0x1040 16) (coords texGroup (fv 1 0 0 0) th 2)
        (if lod then [] else quadCoords texGroup (fv 1 0 0 0) th 2)).filterMap (fun p => p.2.2.1.map (fun q =>
          (p.1 % tex.levels, p.2.1 % (tex.levelSize (p.1 % tex.levels)).2.2, q.1 % (tex.levelSize (p.1 % tex.levels)).1,
            q.2 % (tex.levelSize (p.1 % tex.levels)).2.1)))))) t) ∧
    (∃ t, Goes (tex1.withTexels texGroup tex (((threads (texGroup.executing false 7)).map (fun th =>
      fetchPlace texGroup (fv 1 0 0 0) tex.kind th (texGroup.reg 6 th).toNat)).filter tex.holds)) t) ∧
    (∀ layer : Nat → Nat, ∃ t, Goes (fun k => tex1.probedAs true texGroup.job 0 ((((threads (texGroup.executing false 7)).map (fun th =>
      (th, fetchPlace texGroup (fv 1 0 0 0) tex.kind th (layer th)))).filter
        (fun p => tex.holds p.2 && !texGroup.helper p.1)).map (fun p =>
          (tex.addr p.2.1 p.2.2.1 p.2.2.2.1 p.2.2.2.2, surfaceBytes tex.sfmt, .write))) k) t) := by
  refine ⟨fun lod => withTexels_texel _ ?_, withTexels_texel _ (by decide), fun layer => by rw [one_store layer]; exact store_texel⟩
  intro p hp
  simp only [List.mem_flatMap, List.mem_filterMap, Option.map_eq_some_iff] at hp
  obtain ⟨_, _, q, _, r, _, rfl⟩ := hp
  have h1 : ∀ l : Nat, l % tex.levels = 0 := fun l => Nat.mod_one l
  rw [h1]
  rw [show tex.levelSize 0 = (1, 1, 1) from rfl]
  simp only [Nat.mod_one]

/-- A procedural node (type 4): a box from -1 to 1 about the origin; a ray of thread 0 from (0, 0, -5) along z. -/
def boxNode : List U8 :=
  [4] ++ List.replicate 15 0 ++ (List.replicate 3 (toBytes 4 0xBF800000)).flatten ++
    (List.replicate 3 (toBytes 4 0x3F800000)).flatten
def rayWords : List U32 := [0, 0, 0xC0A00000, 0, 0, 0, 0x3F800000, 0x42C80000]

/-- The ray in g8 to g15, the flags in g6, the root in u4 and u5; bit 5 of the flags passes procedural nodes over. -/
def rayGroup (flags : U32) (rays : TMap Trav) : Group :=
  { group with active := 1, live := 1, regs := [(384, flags)] ++ ((List.range 8).zip rayWords).map (fun e => (64 * (8 + e.1), e.2))
               uregs := [(4, 0x1000), (5, 0)], rays := rays }
/-- Its private memory is at 0x100000, 32 KiB a group. -/
def rayState (flags : U32) (going : TMap Trav) : State :=
  let x : Group := { rayGroup flags [] with going := going }
  { running x with
    mem := Mem.putBytes tables 0x1000 boxNode
    ctxs := [(0, { state := .running, csLevel := 2, privBase := 0x100000, privPerGroup := 0x8000 })] }

/-- The state once the traversal state of thread 0 has been reached. -/
def ray0 (flags : U32) (going : TMap Trav) : State :=
  ((rayState flags going).onGroup (rayGroup flags [])).traffic 1 0
    [((rayState flags going).travAt (rayGroup flags []) 0, 256, .write)]

/-- The ray at its root, and one that goes on after a candidate with nothing left to visit. -/
def begun (flags : U32) : Trav := { root := 0x1000, flags := flags, ray := rayWords, stack := [{ node := 0x1000, kind := 0 }] }
def after : Trav := { root := 0x1000, flags := 0, ray := rayWords }

theorem traverse_ends {j c n : Nat} {s : State} {x : Trav} {e : TravEnd} (h : (traverse j c n s x).2.2 = e) :
    ∃ u y, traverse j c n s x = (u, y, e) := ⟨_, _, Prod.ext rfl (Prod.ext rfl h)⟩

theorem ray_passes_box : (traverse 1 0 traceFuel (ray0 0x20 []) (begun 0x20)).2.2 = .done := by decide +kernel

theorem ray_meets_box : (traverse 1 0 traceFuel (ray0 0 []) (begun 0)).2.2 = .candidate := by decide +kernel

theorem test_ray_hypotheses :
    Issues (rayState 0 []) 1 (rayGroup 0 []) false 7 ∧ (rayState 0 []).hasRay = true ∧ (fv 1 0 16 0).sel = 1 ∧
    (fv 1 0 16 0).sb.toNat % 2 = 0 ∧ (fv 1 0 16 0).sb.toNat < 64 ∧ ({ fv 1 0 16 0 with sa := 8 } : VForm).sa.toNat % 4 = 0 ∧
    (fv 1 0 16 0).dst.toNat % 4 = 0 ∧ (rayGroup 0 []).names 8 8 = true ∧ (rayGroup 0 []).names 16 8 = true ∧
    (rayGroup 0 []).names 6 1 = true ∧ threads ((rayGroup 0 []).executing false 7) = [0] ∧ (rayGroup 0 []).traced = [] ∧
    (rayGroup 0 []).going.find 0 = none ∧
    begun 0 = {
      root := ((rayGroup 0 []).upair 4).toNat, flags := (rayGroup 0 []).reg 6 0,
      ray := (List.range 8).map (fun i => (rayGroup 0 []).reg (8 + i) 0),
      stack := [{ node := ((rayGroup 0 []).upair 4).toNat, kind := 0 }] } ∧
    (∃ u y, traverse 1 0 traceFuel (ray0 0x20 []) (begun 0x20) = (u, y, .done)) ∧
    (∃ u y, traverse 1 0 traceFuel (ray0 0 []) (begun 0) = (u, y, .candidate)) :=
  ⟨⟨rfl, by decide⟩, by decide +kernel, by decide, by decide, by decide, by decide, by decide, by decide, by decide, by decide,
    by decide, rfl, rfl, rfl, traverse_ends ray_passes_box, traverse_ends ray_meets_box⟩

/-- The traversal state of thread 0 is within reach. -/
theorem ray0_reached (going : TMap Trav) (h : going = [] ∨ going = [(0, after)]) :
    Goes (fun k => ((rayState 0 going).onGroup (rayGroup 0 [])).probedAs true 1 0
      [((rayState 0 going).travAt (rayGroup 0 []) 0, 256, .write)] k) (ray0 0 going) := by
  obtain rfl | rfl := h <;>
    exact passes (v := kernel) rfl (by decide +kernel) (by decide +kernel) (by decide +kernel)

theorem after_ends : (traverse 1 0 traceFuel (ray0 0 [(0, after)]) after).2.2 = .done := by decide +kernel

/-- ACCEPT and REJECT of a group that the fuel of one command left at a traversal. -/
theorem test_candidate_hypotheses :
    ({ rayGroup 0 [] with going := [(0, after)] } : Group).going.find 0 = some after ∧
    (∃ u y, traverse 1 0 traceFuel (ray0 0 [(0, after)]) after = (u, y, .done)) :=
  ⟨rfl, traverse_ends after_ends⟩

/-- An internal node at 0x2000 whose one child is the node itself, in core 0's L1. -/
def loopNode : List U8 :=
  [1, 1, 1, 1, 1, 0, 0, 0] ++ (List.replicate 3 (toBytes 4 0xBF800000)).flatten ++ [0, 0, 0, 1, 1, 1] ++ List.replicate 30 0 ++
    toBytes 8 0x2000 ++ List.replicate 24 0 ++ [1, 0, 0, 0, 0, 0, 0xFF] ++ List.replicate 33 0
def loopState : State :=
  { running (rayGroup 0xFF00 []) with
    user := some 0, clusters := [(0, { l1 := { enabled := true } })]
    lines := { l1 := [(l1Base 0 0x2000, { tag := 0x40, sectors := [(0, { bytes := loopNode })] })] } }
def loopRay : Trav :=
  { root := 0x2000, flags := 0xFF00, ray := rayWords, stack := [{ node := 0x2000, kind := 1 }] }

theorem loop_fetches : loopState.fetchNode 1 0 0x2000 = (loopState, .inr loopNode) := by decide +kernel

/-- A traversal that does not end within any number of nodes. -/
theorem test_endless_traversal (n : Nat) : traverse 1 0 n loopState loopRay = (loopState, loopRay, .more) := by
  induction n with
  | zero => rfl
  | succ n ih =>
    have e : ({ loopRay with stack := [] } : Trav).push (hitChildren { loopRay with stack := [] } loopRay.ray loopNode none) =
      loopRay := by decide +kernel
    rw [Sys2Proof.Machine.traverse]
    simp only [show loopRay.stack = [{ node := 0x2000, kind := 1 }] from rfl, loop_fetches,
      show nodeDefined loopNode = true from by decide +kernel, show field loopNode 0 1 = 1 from by decide +kernel]
    exact (congrArg (traverse 1 0 n loopState) e).trans ih

/-! ### Reset, start, restarts -/

/-- What a start finds: one host module at 32 GT/s. -/
def trains : StartInputs := { host0 := { rate := 32, width := 64 }, pauseTack := true, pauseFitting := true }

theorem test_reset_hypotheses : up.die.inReset = false ∧ up.pwr.state ≠ .hold ∧ up.pwr.state ≠ .off ∧
    up.mem.wf = true ∧ State.reset.mem.wf = true := by decide

theorem test_start_hypotheses :
    State.reset.die.pinLow = true ∧ ({ trains with t0RamOk := false } : StartInputs).t0RamOk = false ∧
    (trains.t0RamOk = true ∧ linkRate ({} : StartInputs).host0 ({} : StartInputs).host1 32 = 0) ∧
    (linkRate trains.host0 trains.host1 32 ≠ 0 ∧ ({ trains with romOk := false } : StartInputs).romOk = false) ∧
    (trains.romOk = true ∧ trains.pauseTack = true ∧ (0 : Nat) < up.die.part.pipes ∧ bit trains.badPipes 0 = false) ∧
    (∃ s : State, s = { State.reset with die := { State.reset.die with inReset := false, waiting := some {} } } ∧
      s.die.waiting = some {} ∧ s.die.stage = .preTack) := by
  refine ⟨by decide, by decide, by decide, by decide, by decide, _, rfl, rfl, rfl⟩

/-- A die in Tack whose start goes on, with an empty flash. -/
def inTack : State := { up with die := { up.die with stage := .tack, waiting := some trains } }

theorem test_idle_start_hypotheses :
    inTack.pending = [] ∧ inTack.die.waiting = some trains ∧ inTack.die.stage = .tack ∧
    inTack.slotBoots slotA = false ∧ trains.dramPass = true ∧ 6400 ≤ trains.dramMts ∧ trains.pauseFitting = true ∧
    ({ trains with dramMts := 6399 } : StartInputs).dramMts < 6400 := by decide +kernel

/-- A slot that verifies boots; whether one verifies rests on the digest in mask ROM, which the rules do not give. -/
theorem test_boot_of_verified_slot (s : State) (p : Option PartnerInfo) (h : s.slotBoots slotA = true)
    (hb : s.slotBoots slotB = false) (hd : s.actRec.1.dies ≠ 2) : ∃ b, s.boot p = some b := by
  simp [State.boot, h, hb, hd]

theorem test_restart_hypotheses :
    (open_ false).die.inReset = false ∧ (open_ false).die.stage ≠ .preTack ∧ ((open_ false).ctx 0).state = .running ∧
    (open_ false).thimbleUp 1 = true ∧ (open_ false).thimbleUp 3 = true ∧ (open_ false).thimbleUp 5 = true ∧
    (∃ s : State, s = { open_ false with
        ptn := { (open_ false).ptn with apply := some { affected := 1, result := [], seq := 1, cycles := 0 }, busy := true }
        queues := [(0, { state := .active })], flt := { (open_ false).flt with restartTimes := [20, 10] } } ∧
      s.ptn.apply.isSome = true ∧ (s.queue 0).ctx = 0 ∧ (s.queue 0).state ≠ .free ∧ (s.queue 0).state ≠ .destroying ∧
      s.flt.restartTimes = 20 :: 10 :: [] ∧ 10000010 - 10 ≤ 10000000) :=
  ⟨by decide, by decide, by decide, by decide, by decide, by decide, _, rfl, by decide⟩

/-! ### Translation, faults and host objects -/

/-- Context 0 with its tables at 0x10000 and no translation cached: its first GiB is one page, at DRAM address 0. -/
def walks : State :=
  { open_ false with
    mem := Mem.putBytes tables 0x10000 (toBytes 8 0x11001) |>.putBytes 0x11000 (toBytes 8 0x0F)
    ctxs := [(0, { state := .running, csLevel := 2, root0 := 0x10000 })]
    mmu := up.mmu }

theorem test_walk_hypotheses :
    (open_ false).die.inReset = false ∧ ((open_ false).ctx 0).state ≠ .closed ∧ (0x1000 : U64).toNat < 2 ^ 49 ∧
    (((open_ false).on (some 0)).tlbHit 0 0x1000).isSome = true ∧ (walks.on (some 0)).tlbHit 0 0x1000 = none ∧
    walks.mmu.inval = none ∧ (walks.ctx 0).state ≠ .closed ∧
    (∃ s : State, s = { walks with mmu := { walks.mmu with inval := some { ctx := 0, page := 0, pages := 1 } } } ∧
      (s.on none).tlbHit 0 0x1000 = none ∧ s.mmu.inval ≠ none) := by
  refine ⟨by decide, by decide, by decide, by decide, by decide, by decide, by decide, _, rfl, by decide, by decide⟩

theorem test_walk_ends_hypotheses :
    (∃ e, (walks.walk 0 0x1000 (walks.walkStart 0 0x1000).1 (walks.walkStart 0 0x1000).2).1 = .page e) ∧
    (running group).jobs.find 1 = some kernel ∧ kernel.st = .running ∧ kernel.launch = none ∧
    (((running group).on none).probe kernel.ctx [((0x1000 : U64).toNat, 1, .read)]).1 = none ∧
    (((running group).on none).probe kernel.ctx [((0x1000 : U64).toNat, 1, .read)]).2.dramAt kernel.ctx
      (0x1000 : U64).toNat 1 .read (Access.read == .write) = none := by
  refine ⟨?_, by decide, by decide, by decide, by decide +kernel, by decide +kernel⟩
  have h : (match (walks.walk 0 0x1000 (walks.walkStart 0 0x1000).1 (walks.walkStart 0 0x1000).2).1 with
    | .page _ => true | _ => false) = true := by decide +kernel
  split at h
  · exact ⟨_, ‹_›⟩
  · cases h

/-- A context whose fault queue has room, and one whose queue is full. -/
def emptyQueue : Ctx := { state := .running, fqBase := 0x8000, fqWrite := 1 }
def fullQueue : Ctx := { state := .running, fqBase := 0x8000, fqWrite := 64 }
/-- The kernel's state with its context `x`. -/
def runs (x : Ctx) : State := { running group with ctxs := [(0, x)] }

theorem test_page_fault_hypotheses :
    2 ^ 49 ≤ (0xFFFFFFFFFFFFFFFF : U64).toNat ∧ ((running group).ctx kernel.ctx).state = .running ∧
    (running group).ptn.apply = none ∧ (running group).pwr.entry = none ∧ (0x40001000 : U64).toNat < 2 ^ 49 ∧
    (running group).mmu.inval = none ∧ kernel.nonRestart = false ∧ kernel.committed = false ∧
    (∃ x : Ctx, x = emptyQueue ∧ ((runs x).ctx 0) = x ∧
      ¬ 2 ^ x.fqOrder ≤ (x.fqWrite - x.fqRead).toNat ∧
      (runs x).windowOk x.partition (0x8000 + 32 * (1 % 2 ^ 6)) 32 true = true ∧
      (runs x).failingPart (0x8000 + 32 * (1 % 2 ^ 6)) 32 = false) ∧
    (∃ x : Ctx, x = fullQueue ∧ ((runs x).ctx 0) = x ∧
      2 ^ x.fqOrder ≤ (x.fqWrite - x.fqRead).toNat) := by
  refine ⟨by decide, by decide, by decide, by decide, by decide, by decide, by decide, by decide,
    ⟨_, rfl, rfl, by decide, by decide, by decide⟩, _, rfl, rfl, by decide⟩

theorem test_absent_page : ∃ l,
    ((runs emptyQueue).walk kernel.ctx 0x40001000 ((runs emptyQueue).walkStart kernel.ctx 0x40001000).1
      ((runs emptyQueue).walkStart kernel.ctx 0x40001000).2).1 = .absent l false := by
  have h : (match ((runs emptyQueue).walk kernel.ctx 0x40001000 ((runs emptyQueue).walkStart kernel.ctx 0x40001000).1
      ((runs emptyQueue).walkStart kernel.ctx 0x40001000).2).1 with
    | .absent _ b => !b | _ => false) = true := by decide +kernel
  split at h
  · rename_i b _; cases b
    · exact ⟨_, ‹_›⟩
    · cases h
  · cases h

theorem test_absent_page_full : ∃ l,
    ((runs fullQueue).walk kernel.ctx 0x40001000 ((runs fullQueue).walkStart kernel.ctx 0x40001000).1
      ((runs fullQueue).walkStart kernel.ctx 0x40001000).2).1 = .absent l false := by
  have h : (match ((runs fullQueue).walk kernel.ctx 0x40001000 ((runs fullQueue).walkStart kernel.ctx 0x40001000).1
      ((runs fullQueue).walkStart kernel.ctx 0x40001000).2).1 with
    | .absent _ b => !b | _ => false) = true := by decide +kernel
  split at h
  · rename_i b _; cases b
    · exact ⟨_, ‹_›⟩
    · cases h
  · cases h

theorem test_invalidation_hypotheses :
    ((open_ false).hostWake false).leaderUp = true ∧ bit (0x100 : U32) 8 = true ∧ (0x100 : U32).toNat % 256 = 0 ∧
    ((open_ false).hostWake false).mmu.inval = none ∧
    (∃ s : State, s = { open_ false with mmu := { up.mmu with inval := some { ctx := 0, page := 0, pages := 1 } } } ∧
      (s.hostWake false).leaderUp = true ∧ (s.hostWake false).mmu.inval ≠ none ∧
      s.mmu.inval = some { ctx := 0, page := 0, pages := 1 }) :=
  ⟨by decide, by decide, by decide, by decide, _, rfl, by decide⟩

/-- Context 0 waits on a page fault, its record taken. -/
def faulted : State := { open_ false with ctxs := [(0, { state := .faultWait, outstanding := true, csLevel := 2 })] }

theorem test_resume_hypotheses :
    (faulted.hostWake false).leaderUp = true ∧ ((faulted.hostWake false).ctx 0).state = .faultWait ∧
    (0x100 : U32).toNat % 256 = 0 ∧ ((faulted.hostWake false).ctx 0).held = none ∧ (faulted.hostWake false).ptn.apply = none ∧
    (faulted.hostWake false).pwr.entry = none ∧ bit (0x100 : U32) 8 = true ∧ bit (0x100 : U32) 9 = false ∧
    bit (0x200 : U32) 9 = true ∧ (0x200 : U32).toNat % 256 = 0 := by decide

theorem test_loss_hypotheses :
    (open_ false).die.inReset = false ∧ ((open_ false).ctx 0).state = .running ∧ (faulted.ctx 0).state = .faultWait ∧
    (open_ false).ptn.apply = none ∧ (open_ false).pwr.entry = none := by decide

/-- Context 0 with a fault queue of 64 records at 0x8000, one record written. -/
def records (x : Ctx) : State := { open_ false with ctxs := [(0, x)] }
def fqCtx : Ctx := { state := .running, fqBase := 0x8000, fqWrite := 1 }

theorem test_fault_queue_hypotheses :
    ((records fqCtx).hostWake false).leaderUp = true ∧ (((records fqCtx).hostWake false).ctx 0).state ≠ .closed ∧
    (fqCtx.fqWrite - fqCtx.fqRead).toNat < ((2 : U32) - fqCtx.fqRead).toNat ∧
    ((1 : U32) - fqCtx.fqRead).toNat ≤ (fqCtx.fqWrite - fqCtx.fqRead).toNat ∧ fqCtx.held = none ∧ fqCtx.fqDroppedSince = 0 ∧
    (∃ x : Ctx, x = { fqCtx with fqDroppedSince := 3 } ∧ (((records x).hostWake false).ctx 0) = x ∧
      (x.fqWrite - 1).toNat < 2 ^ x.fqOrder ∧ x.fqDroppedSince ≠ 0 ∧
      (((records x).hostWake false).updCtx 0 (fun y => { y with fqRead := 1 })).windowOk 0 (0x8000 + 32 * (1 % 2 ^ 6)) 32 true = true ∧
      (((records x).hostWake false).updCtx 0 (fun y => { y with fqRead := 1 })).failingPart (0x8000 + 32 * (1 % 2 ^ 6)) 32 = false) ∧
    (∃ w : PartFq, w = { write := 2, read := 1 } ∧
      (({ open_ false with flt := { up.flt with pq := [(0, w)] } } : State).flt.pq.get {} 0 : PartFq) = w ∧
      (w.write - w.read).toNat < ((0 : U32) - w.read).toNat ∧ ((2 : U32) - w.read).toNat ≤ (w.write - w.read).toNat ∧
      w.droppedSince = 0 ∧ w.enable = false) := by
  refine ⟨by decide, by decide, by decide, by decide, by decide, by decide, ⟨_, rfl, rfl, by decide⟩, _, rfl, by decide⟩

/-- An open request at DRAM address 0x5000 for partition 0: relaxed, quota in hand, a save area of 112 MiB. -/
def openBytes : List U8 :=
  [2, 4, 3, 3, 5, 5, 2, 0] ++ toBytes 8 0x20000 ++ toBytes 8 0 ++ toBytes 8 0 ++ toBytes 4 0 ++ toBytes 4 1 ++
    toBytes 8 0x9000 ++ toBytes 8 6 ++ toBytes 8 0x100000 ++ toBytes 8 0 ++ toBytes 4 1792 ++ toBytes 4 0 ++
    toBytes 8 0xA000 ++ List.replicate 40 0

def opening (bs : List U8) : State :=
  { open_ false with mem := Mem.putBytes tables 0x5000 bs, fe := { up.fe with ctxReq := 0x5000 } }

theorem test_open_hypotheses :
    ((opening openBytes).hostWake true).feUp = true ∧ ((opening openBytes).hostWake true).fe.ctxBusy = false ∧
    ((opening openBytes).hostWake true).leader = true ∧ ((opening openBytes).hostWake true).die.stage ≠ .tack ∧
    ((opening openBytes).hostWake true).affectedNow ((opening openBytes).hostWake true).openPart = false ∧
    ((opening openBytes).hostWake true).fe.halted = false ∧ target 0x5000 = 0 ∧
    0x5000 + 128 ≤ ((opening openBytes).hostWake true).capacity ∧ ((opening openBytes).hostWake true).failing 0x5000 128 = false ∧
    ((OpenReq.parse (((opening openBytes).hostWake true).mem.bytes 0x5000 128)).reason ((opening openBytes).hostWake true) 0 0x5000 = 0 ∧
      ((opening openBytes).hostWake true).freeCtx = some 1 ∧
      (OpenReq.parse (((opening openBytes).hostWake true).mem.bytes 0x5000 128)).levels .finished = some (4, 3, 5) ∧
      ((opening openBytes).hostWake true).failingPart (OpenReq.parse (((opening openBytes).hostWake true).mem.bytes 0x5000 128)).resp 64 =
        false) ∧
    (OpenReq.parse (((opening []).hostWake true).mem.bytes 0x5000 128)).reason ((opening []).hostWake true) 0 0x5000 = 4 := by
  decide +kernel

theorem test_open_waits_hypotheses :
    (∃ s : State, s = { opening openBytes with ptn := { (opening openBytes).ptn with
        apply := some { affected := 1, result := [], seq := 1, cycles := 0 } } } ∧
      (s.hostWake true).affectedNow (s.hostWake true).openPart = true) ∧
    (∃ s : State, s = { open_ false with fe := { up.fe with ctxBusy := true } } ∧ (s.hostWake true).fe.ctxBusy = true) :=
  ⟨⟨_, rfl, by decide +kernel⟩, _, rfl, by decide⟩

theorem test_destroy_hypotheses :
    ((open_ false).hostWake true).feUp = true ∧ ((open_ false).hostWake true).fe.ctxBusy = false ∧
    ((open_ false).hostWake true).leader = true ∧ (((0x00010000 : U32) >>> 16).truncate 8 : U8) = 0x01 ∧
    (0x00010000 : U32).toNat % 256 = 0 ∧ (((open_ false).hostWake true).ctx 0).state ≠ .closed ∧
    (((open_ false).hostWake true).ctx 0).state ≠ .destroying ∧ ((open_ false).hostWake true).ptn.apply = none ∧
    ((open_ false).hostWake true).pwr.entry = none ∧ (((0 : U32) >>> 16).truncate 8 : U8) ≠ 0x01 ∧
    (((0 : U32) >>> 16).truncate 8 : U8) ≠ 0x05 ∧
    ((records { state := .destroying }).ctx 0).state = .destroying := by decide

/-- A descriptor of queue 0: class 1 of context 0, 16 slots and 16 completions, at 0x6000. -/
def queueBytes : List U8 :=
  [0, 0, 0, 1, 4, 4, 0, 0] ++ toBytes 8 0x10000 ++ toBytes 8 0x11000 ++ toBytes 8 0x12000 ++ List.replicate 32 0

def creating (bs : List U8) : State :=
  { open_ false with mem := Mem.putBytes tables 0x6000 bs, fe := { up.fe with queueDesc := 0x6000 } }

theorem test_create_hypotheses :
    ((creating queueBytes).hostWake true).feUp = true ∧ ((creating queueBytes).hostWake true).fe.queueBusy = false ∧
    ((creating queueBytes).hostWake true).leader = true ∧ ((creating queueBytes).hostWake true).fe.halted = false ∧
    target 0x6000 = 0 ∧ 0x6000 + 64 ≤ ((creating queueBytes).hostWake true).capacity ∧
    ((creating queueBytes).hostWake true).failing 0x6000 64 = false ∧
    ((creating queueBytes).hostWake true).windowOk 0 0x6000 64 false = true ∧
    ((creating queueBytes).hostWake true).queueReason (((creating queueBytes).hostWake true).mem.bytes 0x6000 64) = 0 ∧
    ((creating []).hostWake true).queueReason (((creating []).hostWake true).mem.bytes 0x6000 64) = 4 := by
  decide +kernel

/-- Queue 0 in a state. -/
def queued (q : Queue) : State := { open_ false with queues := [(0, q)] }

theorem test_queue_hypotheses :
    ((queued { state := .halted }).hostWake true).feUp = true ∧
    (((queued { state := .halted }).hostWake true).queue 0).state = .halted ∧
    (((queued { state := .active }).hostWake true).queue 0).state ≠ .halted ∧
    (((queued { state := .active }).hostWake true).queue 0).state ≠ .free ∧
    (((queued { state := .active }).hostWake true).queue 0).state ≠ .destroying ∧
    ((queued { state := .active }).hostWake true).ptn.apply = none ∧
    ((queued { state := .active }).hostWake true).pwr.entry = none ∧
    ((queued { state := .destroying, ownDestroy := true }).queue 0).state = .destroying ∧
    ((queued { state := .destroying, ownDestroy := true }).queue 0).ownDestroy = true ∧
    (queued { state := .destroying, ownDestroy := true }).physFail 0 0 32 true = none ∧
    (queued { state := .destroying, ownDestroy := true }).physFail 0 0 8 true = none := by decide

/-- The event object at 0x7000, and a value for it. -/
def signals (a : Nat) (v : U64) : State :=
  { open_ false with mem := Mem.putBytes tables 0x7000 (toBytes 8 5), fe := { up.fe with eventAddr := a, eventValue := v } }

theorem test_event_hypotheses :
    ((signals 0x7000 6).hostWake true).feUp = true ∧ ((signals 0x7000 6).hostWake true).leader = true ∧
    ((signals 0x7000 6).hostWake true).fe.halted = false ∧
    ((signals 0x7000 6).hostWake true).windowOk 0 0x7000 16 false = true ∧
    ((signals 0x7000 6).hostWake true).windowOk 0 0x7000 16 true = true ∧
    ((signals 0x7000 6).hostWake true).failing 0x7000 16 = false ∧
    (((signals 0x7000 6).hostWake true).event 0x7000).value = 5 ∧
    (6 + 2 ^ 64 - 5 % 2 ^ 64) % 2 ^ 64 < 2 ^ 63 ∧ 2 ^ 63 ≤ (4 + 2 ^ 64 - 5 % 2 ^ 64) % 2 ^ 64 ∧
    ((signals 0x40000000 6).hostWake true).windowOk 0 0x40000000 16 false = false := by decide +kernel

/-! ### The pattern -/

/-- A delta stream of sequence 1 that sets partition 0's quota to 9, with its CRC. -/
def streamHead : List U8 :=
  [1, 0, 24, 0, 3, 0, 1, 0] ++ toBytes 4 1 ++ toBytes 4 56 ++ toBytes 4 1 ++ List.replicate 8 0 ++
    [0x10, 0, 16, 0, 0, 0, 1, 0, 0, 0, 16, 0, 9, 0, 0, 0, 0, 0, 0, 0] ++ [0xFF, 0, 4, 0]
def streamBytes : List U8 := streamHead ++ toBytes 4 (crc32c streamHead).toNat

def patterned (bs : List U8) : State :=
  { open_ false with
    mem := Mem.putBytes tables 0x4000 bs
    ptn := { (open_ false).ptn with srcLo := 0x4000, srcLen := 56 } }

def newParts : TMap Part16 := [(0, { ownPart with quota := 9 })]

theorem stream_is_ok : ((patterned streamBytes).hostWake false).checkStream = .ok newParts 1 [] := by decide +kernel

theorem test_apply_hypotheses :
    ((patterned streamBytes).hostWake false).feUp = true ∧ ((patterned streamBytes).hostWake false).ptn.busy = false ∧
    ((patterned streamBytes).hostWake false).pwr.entry = none ∧ ((patterned streamBytes).hostWake false).leader = true ∧
    ((patterned streamBytes).hostWake false).die.stage = .finished ∧
    ((patterned streamBytes).hostWake false).fe.openWaits = none ∧
    ((patterned []).hostWake false).checkStream = .bad 0 ∧
    ((patterned streamBytes).hostWake false).jobs = [] ∧ ((patterned streamBytes).hostWake false).ptn.shadows = [] ∧
    ((patterned streamBytes).hostWake false).l3c.hot = [] ∧ (∀ e ∈ newParts, newParts.find e.1 = some e.2) ∧
    (0 : Nat) ∈ affectedKeys ((patterned streamBytes).hostWake false).dies
      ((patterned streamBytes).hostWake false).ptn.parts newParts := by decide +kernel

/-- The same with a non-restartable kernel on its engines, and with the apply that waits for it. -/
def heldOut : State := { patterned streamBytes with jobs := [(1, { kernel with nonRestart := true })] }
def halfApplied : State :=
  { open_ false with ptn := { (open_ false).ptn with apply := some { affected := 1, result := [], seq := 1, cycles := 0 } } }

theorem test_held_out_hypotheses :
    (heldOut.hostWake false).checkStream = .ok newParts 1 [] ∧ (heldOut.hostWake false).jobs.keys.Nodup ∧
    (heldOut.hostWake false).jobs.find 1 = some { kernel with nonRestart := true } ∧
    ({ kernel with nonRestart := true } : Job).onEngines = true ∧ kernel.launch = none ∧
    (0 : Nat) ∈ affectedKeys (heldOut.hostWake false).dies (heldOut.hostWake false).ptn.parts newParts ∧
    ((heldOut.hostWake false).ctx kernel.ctx).partition = 0 % 16 ∧ (heldOut.hostWake false).ptn.busy = false ∧
    halfApplied.ptn.apply.isSome = true ∧ halfApplied.fe.openWaits = none ∧ halfApplied.pwr.entry = none := by
  decide +kernel

theorem test_direct_write_hypotheses :
    ((open_ false).hostWake false).feUp = true ∧ 0x14 ∈ liveOffsets ∧ 0x20 ∈ liveOffsets ∧
    (halfApplied.hostWake false).affectedNow 0 = true ∧ ((open_ false).hostWake false).affectedNow 0 = false ∧
    popcount (((open_ false).hostWake false).part 0).cores < (9 : U32).toNat % 256 ∧
    (8 : U32).toNat % 256 ≤ popcount (((open_ false).hostWake false).part 0).cores ∧
    ((((open_ false).hostWake false).part 0).loadStatic 0x08 9).isSome = true ∧
    ((((open_ false).hostWake false).part 0).enable = true ∧ bit ((open_ false).hostWake false).ptn.halted 0 = false) ∧
    (((open_ false).hostWake false).part 1).enable = false ∧
    ((((open_ false).hostWake false).part 1).loadStatic 0x08 9) = some { quota := 9 } ∧
    checkResult ((open_ false).hostWake false) (((open_ false).hostWake false).ptn.parts.set 1 { quota := 9 }) = none ∧
    ((((open_ false).hostWake false).part 1).loadStatic 0x0C 1) = some { cores := 1 } ∧
    (checkResult ((open_ false).hostWake false) (((open_ false).hostWake false).ptn.parts.set 1 { cores := 1 })).isSome =
      true := by decide +kernel

theorem test_takeup_and_halt_hypotheses :
    (∃ s : State, s = { open_ false with ptn := { (open_ false).ptn with shadows := [(0x20, 5)], haltReq := 1 } } ∧
      s.ptn.shadows.find (shadowKey (s.partKey 0) 0x20) = some 5 ∧ bit s.ptn.haltReq 0 = true ∧
      s.holdsOut (· == 0) = false ∧ s.die.inReset = false ∧ (s.part 0).enable = true) :=
  ⟨_, rfl, by decide⟩

/-! ### Slots -/

/-- Queue 0 of class `cls`: 16 slots at 0x10000, 16 completions at 0x11000, and `bs` in its first slot. -/
def ready (cls : Nat) : Queue :=
  { state := .active, cls := cls, sqOrder := 4, cqOrder := 4, sqBase := 0x10000, cqBase := 0x11000, rptr := 0x12000, sqWrite := 1 }
def headed (cls : Nat) (bs : List U8) : State :=
  { open_ false with
    ctxs := [(0, { state := .running, csLevel := 4 })], queues := [(0, ready cls)], mem := Mem.putBytes tables 0x10000 bs }

/-- A slot of 64 bytes: opcode and payload, filled up with zeros. -/
def slot (op : U8) (p : List U8) : List U8 := ([op] ++ List.replicate 15 0 ++ p ++ List.replicate 48 0).take 64

/-- The slot is at the head of the queue. -/
def AtHead (cls : Nat) (b : List U8) : Prop := (headed cls b).head 0 = .slot b

theorem nop_at_head : AtHead 1 (slot 0x3F []) := by unfold AtHead; decide +kernel

theorem test_nop_hypotheses :
    AtHead 1 (slot 0x3F []) ∧ slotOp (slot 0x3F []) = 0x3F ∧ (headed 1 (slot 0x3F [])).physFail 0 0x12000 8 true = none ∧
    (headed 1 (slot 0x3F [])).physFail 0 (0x11000 + 32 * (0 % 2 ^ 4)) 32 true = none := ⟨nop_at_head, by decide⟩

theorem test_undefined_slot_hypotheses :
    (headed 1 (slot 0x3E [])).dispatching = true ∧ (ready 1).state = .active ∧ (ready 1).sqRead ≠ (ready 1).sqWrite ∧
    (ready 1).waiting = false ∧ ((headed 1 (slot 0x3E [])).ctx 0).state = .running ∧
    (headed 1 (slot 0x3E [])).physFail 0 0x10000 64 false = none ∧
    slotFormed 4 1 ((headed 1 (slot 0x3E [])).mem.bytes 0x10000 64) = false ∧ (headed 1 (slot 0x3E [])).ptn.apply = none := by
  decide +kernel

theorem test_doorbell_hypotheses :
    ((queued (ready 1)).hostWake true).feUp = true ∧ (((queued (ready 1)).hostWake true).queue 0).state = .active ∧
    ((16 : U32) ≠ (ready 1).sqWrite ∧ (16 - (ready 1).sqWrite).toNat < 2 ^ 31 ∧ (16 - (ready 1).sqRead).toNat ≤ 2 ^ (ready 1).sqOrder) ∧
    ((17 : U32) ≠ (ready 1).sqWrite ∧ 2 ^ (ready 1).sqOrder < (17 - (ready 1).sqRead).toNat) ∧
    (0 - (ready 1).cqRead).toNat ≤ ((ready 1).cqWrite - (ready 1).cqRead).toNat ∧
    ((ready 1).cqWrite - (ready 1).cqRead).toNat < (1 - (ready 1).cqRead).toNat ∧
    (((queued { state := .stopped }).hostWake true).queue 0).state ≠ .active ∧
    (((queued { state := .stopped }).hostWake true).queue 0).state ≠ .stalled ∧
    (((queued { state := .stopped }).hostWake true).queue 0).state ≠ .halted := by decide

/-- EVENT_RECORD and EVENT_WAIT of value 6 at the object 0x7000, which holds 0. -/
def recordSlot : List U8 := slot 0x10 (toBytes 8 0x7000 ++ toBytes 8 6)
def waitSlot (v : Nat) : List U8 := slot 0x11 (toBytes 8 0x7000 ++ toBytes 8 v)

theorem test_event_slot_hypotheses :
    AtHead 1 recordSlot ∧ AtHead 1 (waitSlot 6) ∧ slotOp recordSlot = 0x10 ∧ slotOp (waitSlot 6) = 0x11 ∧
    slotEvent recordSlot = 0x7000 ∧ (headed 1 recordSlot).physFail 0 0x7000 16 false = none ∧
    (headed 1 recordSlot).physFail 0 0x7000 16 true = none ∧
    ((headed 1 (waitSlot 6)).event 0x7000).reached (slotValue (waitSlot 6)) = false ∧
    ((headed 1 (waitSlot 0)).event 0x7000).reached (slotValue (waitSlot 0)) = true := by
  unfold AtHead; decide +kernel

theorem test_wait_resume_hypotheses :
    ∃ s : State, s = { headed 1 (waitSlot 6) with queues := [(0, { ready 1 with waiting := true })] } ∧
      (s.queue 0).waiting = true ∧ (s.queue 0).state = .active ∧ s.fe.halted = false ∧ s.fe.awaitHost = false ∧
      s.die.inReset = false ∧ s.pwr.entry = none ∧ s.pwr.state = .run ∧
      waitSlot 6 = s.mem.bytes ((s.queue 0).slotAddr (s.queue 0).sqRead) 64 := ⟨_, rfl, by decide +kernel⟩

/-! ### SUSPEND, RESUME, CANCEL -/

/-- A control slot for handle 7 of queue `q`, in queue 0 of class 4; queue 1 has a LAUNCH of that handle in its ring, and
`js` are the commands in flight. -/
def controlSlot (op : U8) (q : Nat) : List U8 := slot op (toBytes 4 q ++ toBytes 4 7)
def launchSlot : List U8 := [1, 0, 0, 0, 0, 0, 0, 0, 7, 0, 0, 0, 0, 0, 0, 0] ++ List.replicate 48 0
def controls (op : U8) (q : Nat) (js : TMap Job) (y : Queue) : State :=
  { headed 4 (controlSlot op q) with
    queues := [(0, ready 4), (1, { y with sqBase := 0x13000 })], jobs := js
    mem := (Mem.putBytes tables 0x10000 (controlSlot op q)).putBytes 0x13000 launchSlot }

/-- A command of queue 1 with handle 7. -/
def long (opcode : U8) (kind : Nat) (st : JobState) : Job := { kernel with queue := 1, handle := 7, opcode := opcode, kind := kind, st := st }
def launched (suspended : Bool) : Job :=
  { long 1 0 .running with launch := some { graph := 0, version := 0, seedLo := 0, seedHi := 0, suspended := suspended } }

/-- Its head slot names a target. -/
def Targets (s : State) (b : List U8) (t : Target) : Prop :=
  s.head 0 = .slot b ∧ s.controlTarget (s.queue 0).ctx (field b 16 2) (BitVec.ofNat 32 (field b 20 4)) = t

theorem test_control_targets (op : U8) (h : op ∈ [(0x20 : U8), 0x21, 0x22]) :
    slotOp (controlSlot op 1) = op.toNat ∧
    Targets (controls op 1 [] {}) (controlSlot op 1) .nothing ∧
    Targets (controls op 1 [] (ready 1)) (controlSlot op 1) (.slot 1 0) ∧
    Targets (controls op 1 [(5, launched (op == 0x21))] (ready 1)) (controlSlot op 1) (.job 5) ∧
    Targets (controls op 1 [(5, long 4 6 (if op = 0x21 then .suspended else .ready))] (ready 1)) (controlSlot op 1)
      (.job 5) := by
  simp only [List.mem_cons, List.not_mem_nil, or_false] at h
  unfold Targets
  obtain rfl | rfl | rfl := h <;> decide +kernel

theorem test_control_states :
    ((controls 0x20 1 [] (ready 1)).queue 1).holds.contains 0 = false ∧
    ((controls 0x21 1 [] { ready 1 with holds := [0] }).queue 1).holds.contains 0 = true ∧
    (∃ w, (launched false).launch = some w ∧ w.suspended = false) ∧ (∃ w, (launched true).launch = some w ∧ w.suspended = true) ∧
    (long 4 6 .ready).launch = none ∧ (long 4 6 .ready).st = .ready ∧ (long 4 6 .suspended).st = .suspended ∧
    (long 4 6 .running).stream = none ∧
    (∃ x v, v = { long 4 6 .running with stream := some x, payload := toBytes 32 0 ++ toBytes 8 0x8000 } ∧
      v.stream = some x ∧ (streamCmd v.payload).stateOut ≠ 0 ∧ v.launch = none ∧ v.st = .running) ∧
    (∃ s : State, s = { controls 0x22 0xFFFF [] {} with svc := { State.reset.svc with upload := .suspended, handle := 7 } } ∧
      s.svc.upload = .suspended ∧ s.controlTarget 0 0xFFFF 7 = .upload) ∧
    ({ long 4 6 .running with suspending := true } : Job).suspending = true ∧ (long 4 6 .running).nonRestart = false ∧
    (long 4 6 .running).committed = false ∧ (running group).mem.wf = true :=
  ⟨by decide, by decide, ⟨_, rfl, rfl⟩, ⟨_, rfl, rfl⟩, rfl, rfl, rfl, rfl, ⟨{}, _, rfl, by decide⟩, ⟨_, rfl, by decide⟩, rfl, rfl, rfl, by decide⟩

/-- What a run wrote is noted once, and a command that is given up draws one free value for it and leaves the die. -/
theorem test_undefined_output :
    let s := ((running group).note 1 0x100 4).note 1 0x100 4
    s.trail = [(1, [(0x100, 4)])] ∧ (s.abandon 1).trail = [] ∧ (s.abandon 1).jobs = [] ∧ (s.abandon 1).freeCtr = 1 := by decide

/-- A store of a kernel is noted for it. -/
theorem test_store_noted : ((running group).storeAt group 0 0x2000 4 7).trail = [(1, [(0x2000, 4)])] := by decide

/-- Without a share the one stream of a partition is beyond it and loses its slot, unless its command may not run again. -/
def coding (nonRestart : Bool) : State :=
  { open_ false with jobs := [(1, { long 6 3 .running with cmp := some 0, nonRestart := nonRestart })] }

theorem test_smaller_share (b : Bool) :
    (coding b).slotFor 0 = 1 ∧ (coding b).slotsHeld 0 = 1 ∧ (coding b).beyondShare 0 0 = if b then [] else (coding b).jobs := by
  refine ⟨by cases b <;> decide, by cases b <;> decide, ?_⟩
  have h : (coding b).streams 0 0 = (coding b).jobs := by cases b <;> decide
  unfold State.beyondShare
  rw [h]
  show List.filter _ (List.drop _ (List.mergeSort [_] _)) = _
  rw [List.mergeSort_singleton]
  cases b <;> decide

/-! ### Graphs -/

/-- The image at 0x100000 of a graph with one COPY node and one parameter block of 16 bytes at 0x120000. -/
def imageBytes : List U8 :=
  [4, 0, 1, 0, 0, 1, 0, 0] ++ toBytes 8 0 ++ toBytes 8 0 ++ toBytes 8 0 ++ toBytes 8 0x110000 ++ toBytes 4 0x1000 ++
    toBytes 4 0x80 ++ toBytes 4 0 ++ toBytes 4 0x40 ++ toBytes 4 0 ++ toBytes 4 0
def nodeBytes : List U8 := [4, 0, 0, 0, 0xFF, 0xFF, 0xFF, 0xFF] ++ List.replicate 56 0
def image : Graph := graphOf 0x100000 imageBytes

/-- A state with `b` at the head of queue 0, the image in memory, and perhaps the graph registered as number 3. -/
def graphed (b : List U8) (g : TMap Graph) (js : TMap Job) : State :=
  { headed 1 b with
    ctxs := [(0, { state := .running, csLevel := 4, graphs := g })], jobs := js
    mem := (((Mem.putBytes tables 0x10000 b).putBytes 0x100000 imageBytes).putBytes 0x100040 nodeBytes).putBytes 0x100080
      (toBytes 8 0x120000 ++ toBytes 4 16) }

def launchOf (version : Nat) : List U8 := slot 0x01 (toBytes 4 3 ++ toBytes 2 version)
def registerSlot (a : Nat) : List U8 := slot 0x30 (toBytes 8 a ++ toBytes 4 3)

/-- A launch of graph 3 in flight, its node running. -/
def launching : TMap Job :=
  [(5, { kernel with kind := 0, opcode := 1, launch := some { graph := 3, version := 0, seedLo := 0, seedHi := 0 } })]

theorem test_register_hypotheses :
    (graphed (registerSlot 0x100000) [] []).head 0 = .slot (registerSlot 0x100000) ∧
    slotOp (registerSlot 0x100000) = 0x30 ∧ field (registerSlot 0x100000) 16 8 ≠ 0 ∧
    ((graphed (registerSlot 0x100000) [] []).ctx 0).graphs.find 3 = none ∧
    ((graphed (registerSlot 0x100000) [] []).ctx 0).graphs.length < 256 ∧
    headerFormed 4 0x100000 ((graphed (registerSlot 0x100000) [] []).mem.bytes 0x100000 64) = true ∧
    (graphed (registerSlot 0x100000) [] []).graphFormed
      (graphOf 0x100000 ((graphed (registerSlot 0x100000) [] []).mem.bytes 0x100000 64)) 0 = true ∧
    (graphed (registerSlot 0x100000) [(3, image)] []).head 0 = .slot (registerSlot 0x100000) ∧
    ((graphed (registerSlot 0x100000) [(3, image)] []).ctx 0).graphs.find 3 ≠ none := by decide +kernel

theorem test_register_goes :
    Goes ((graphed (registerSlot 0x100000) [] []).readRanges 0 [(0x100000, 64)]) (graphed (registerSlot 0x100000) [] []) ∧
    Goes ((graphed (registerSlot 0x100000) [] []).readRanges 0 ((graphed (registerSlot 0x100000) [] []).imageRanges image))
      (graphed (registerSlot 0x100000) [] []) :=
  ⟨readRanges_goes (by decide +kernel), readRanges_goes (by decide +kernel)⟩

theorem test_unregister_hypotheses :
    (graphed (registerSlot 0) [] []).head 0 = .slot (registerSlot 0) ∧ field (registerSlot 0) 16 8 = 0 ∧
    ((graphed (registerSlot 0) [] []).ctx 0).graphs.find 3 = none ∧
    (graphed (registerSlot 0) [(3, image)] launching).head 0 = .slot (registerSlot 0) ∧
    (graphed (registerSlot 0) [(3, image)] launching).launchesOf 0 3 ≠ [] ∧
    (graphed (registerSlot 0) [(3, image)] []).launchesOf 0 3 = [] ∧ image.deferred = [] := by decide +kernel

/-- A launch of a graph that no context has registered. -/
theorem test_launch_of_no_graph_hypotheses :
    let s := graphed (launchOf 0xFFFF) [] []
    s.head 0 = .slot (launchOf 0xFFFF) ∧ slotOp (launchOf 0xFFFF) = 1 ∧ (s.ctx 0).graphs.find 3 = none ∧
    s.outranked 0 9 = false ∧ s.physFail 0 (s.queue 0).rptr 8 true = none ∧
    s.physFail 0 ((s.queue 0).cqBase + 32 * ((s.queue 0).cqWrite.toNat % 2 ^ (s.queue 0).cqOrder)) 32 true = none := by
  decide +kernel

/-- A command's pages that are resident, with no failing line among them, let its patch go on. -/
theorem resident_goes {s : State} {c : Nat} {rs : List (Nat × Nat × Access)} (hp : ((s.on none).probe c rs).1 = none)
    (hd : rs.findSome? (fun r => ((s.on none).probe c rs).2.dramAt c r.1 r.2.1 r.2.2 (r.2.2 == .write)) = none) :
    Goes (s.resident c rs) ((s.on none).probe c rs).2 := by
  intro k
  have h : (s.on none).probe c rs = (none, ((s.on none).probe c rs).2) := Prod.ext hp rfl
  unfold State.resident
  rw [h]
  simp only [hd]

/-- A node patch of entry 0 from 0x1000, and a parameter patch of 8 bytes that may or may not wait. -/
def nodePatch : List U8 :=
  slot 0x31 (toBytes 4 3 ++ [1, 0, 0, 0] ++ toBytes 8 0x1000 ++ toBytes 4 0 ++ toBytes 4 64)
def parameterPatch (wait : U8) : List U8 :=
  slot 0x31 (toBytes 4 3 ++ [2, wait, 0, 0] ++ toBytes 8 0x1000 ++ toBytes 4 0 ++ toBytes 4 8)

/-- The patch's source holds a node entry, and its pages are resident. -/
def patching : State :=
  { graphed nodePatch [(3, image)] [] with mem := (graphed nodePatch [] []).mem.putBytes 0x1000 nodeBytes }
def patched : State := ((patching.on none).probe 0 [(0x1000, 64, .read)]).2

theorem test_node_patch_hypotheses :
    patching.head 0 = .slot nodePatch ∧ slotOp nodePatch = 0x31 ∧ (patching.ctx 0).graphs.find 3 = some image ∧
    field nodePatch 20 1 = 1 ∧ field nodePatch 36 4 % 64 = 0 ∧ field nodePatch 22 2 + 1 ≤ image.nodes ∧
    8 * 64 * image.nodes ≤ image.versionBytes ∧ image.current + 1 < 0xFFFF ∧
    (1 :: (patching.launchesOf 0 3).map (fun e => e.2.2.version)).eraseDups.length ≤ 8 ∧
    ((List.range image.nodes).zip (((List.range image.nodes).zip (patched.nodesOf image 0)).map (fun e =>
      patchedEntry e.2 (((patched.vread 0 0x1000 64).drop (64 * e.1)).take 64)))).all
        (fun e => nodeFormed image e.1 e.2 (patched.preds image e.2)) = true ∧
    patched.physFail 0 (image.versionArea + 1 % 8 * 64 * image.nodes) (64 * image.nodes) true = none := by decide +kernel

theorem test_node_patch_goes :
    Goes (patching.resident 0 [(0x1000, 64, .read)]) patched ∧
    Goes (patched.readRanges 0 [(image.nodeAt 0 0, 64 * image.nodes)]) patched :=
  ⟨resident_goes (by decide +kernel) (by decide +kernel), readRanges_goes (by decide +kernel)⟩

theorem test_parameter_patch_hypotheses :
    (graphed (parameterPatch 0) [(3, image)] []).head 0 = .slot (parameterPatch 0) ∧ field (parameterPatch 0) 20 1 = 2 ∧
    field (parameterPatch 0) 21 1 = 0 ∧ field (parameterPatch 1) 21 1 ≠ 0 ∧ field (parameterPatch 0) 22 2 < image.params ∧
    field (parameterPatch 0) 32 4 + field (parameterPatch 0) 36 4 ≤
      ((graphed (parameterPatch 0) [(3, image)] []).paramBlock image 0).2 ∧
    (graphed (parameterPatch 0) [(3, image)] []).blockInUse 0 3 image 0 = false ∧
    Goes ((graphed (parameterPatch 0) [(3, image)] []).readRanges 0 [(image.paramTable, 16 * image.params)])
      (graphed (parameterPatch 0) [(3, image)] []) ∧
    (∃ v, Goes ((graphed (parameterPatch 0) [(3, image)] []).resident 0 [(0x1000, 8, .read), (0x120000, 8, .write)]) v) :=
  ⟨by decide +kernel, by decide, by decide, by decide, by decide, by decide +kernel, by decide +kernel,
    readRanges_goes (by decide +kernel), _, resident_goes (by decide +kernel) (by decide +kernel)⟩

/-- The node is a kernel that uses parameter block 0. -/
def usingBlock : State :=
  { graphed (parameterPatch 0) [(3, image)] launching with
    mem := (graphed (parameterPatch 0) [] []).mem.putBytes 0x100040 [1] |>.putBytes (0x100050 + 42) [0] }

/-- A write that waits for it, and one that nothing holds back. -/
def deferring : State :=
  graphed (parameterPatch 0) [(3, { image with deferred := [{ blk := 0, addr := 0x120000, bytes := [1, 2] }] })] []

theorem test_block_in_use_hypotheses :
    usingBlock.head 0 = .slot (parameterPatch 0) ∧ usingBlock.blockInUse 0 3 image 0 = true ∧
    deferring.dispatching = true ∧ (deferring.ctx 0).state ≠ .lost ∧ deferring.blockInUse 0 3 image 0 = false ∧
    (∃ u, Goes (deferring.resident 0 [((0x120000 : U64).toNat, 2, .write)]) u) :=
  ⟨by decide +kernel, by decide +kernel, by decide, by decide, by decide, _,
    resident_goes (by decide +kernel) (by decide +kernel)⟩

/-! ### Launches -/

/-- A graph with one granule of Spool. -/
def spooled : Graph := { image with spoolBytes := 0x10000 }

theorem test_launch_hypotheses :
    (graphed (launchOf 0xFFFF) [(3, spooled)] []).head 0 = .slot (launchOf 0xFFFF) ∧ slotOp (launchOf 0xFFFF) = 1 ∧
    ((graphed (launchOf 0xFFFF) [(3, spooled)] []).ctx 0).graphs.find 3 = some spooled ∧ spooled.deferred = [] ∧
    ((graphed (launchOf 0xFFFF) [(3, spooled)] []).liveVersions 0 3 spooled).contains 0 = true ∧
    ((graphed (launchOf 0xFFFF) [(3, spooled)] []).liveVersions 0 3 spooled).contains 1 = false ∧
    spooled.spoolBytes ≤ ((graphed (launchOf 0xFFFF) [(3, spooled)] []).part 0).rate 0 * 15000 ∧
    (graphed (launchOf 0xFFFF) [(3, spooled)] []).rangeBound 0 spooled = true ∧
    ((graphed (launchOf 0xFFFF) [(3, spooled)] []).part 0).rate 0 * 15000 < ({ image with spoolBytes := 0x400000 } : Graph).spoolBytes ∧
    (graphed (launchOf 0xFFFF) [] []).rangeBound 0 { image with spoolBase := 0x10000000, spoolBytes := 0x10000 } = false ∧
    (graphed (launchOf 0xFFFF) [(3, spooled)] []).outranked 0 9 = false ∧
    (graphed (launchOf 0xFFFF) [(3, spooled)] []).physFail 0 (ready 1).rptr 8 true = none ∧
    (graphed (launchOf 0xFFFF) [(3, spooled)] []).physFail 0 ((ready 1).cqBase + 32 * ((ready 1).cqWrite.toNat % 2 ^ (ready 1).cqOrder))
      32 true = none := by
  decide +kernel

theorem test_launch_goes :
    Goes ((graphed (launchOf 0xFFFF) [(3, spooled)] []).readRanges 0
      [(spooled.nodeAt 0 0, 64 * spooled.nodes), (spooled.paramTable, 16 * spooled.params)])
      (graphed (launchOf 0xFFFF) [(3, spooled)] []) ∧
    (∃ w : State, w = (graphed (launchOf 0xFFFF) [(3, spooled)] []).allocFree 0
        ((graphed (launchOf 0xFFFF) [(3, spooled)] []).rangeHere 0 spooled) ∧
      w.physFail 0 (ready 1).rptr 8 true = none ∧ w.queue 0 = ready 1 ∧ (w.ctx 0).state ≠ .lost) :=
  ⟨readRanges_goes (by decide +kernel), _, rfl, by decide +kernel⟩

/-- A graph with one pack, resident in bank 0 from granule 1, and its node that waits for it. -/
def packed : Graph := { image with packs := 1, packTable := 0x100090 }
def packNode : Job := { kernel with parent := some 5, packs := [0xFF, 0], st := .packWait }
def packs : State :=
  { graphed [] [(3, packed)] (launching ++ [(6, packNode)]) with
    spl := { State.reset.spl with packs := [{ part := 0, bank := 0, first := 1, count := 1, digest := List.replicate 32 0, packId := 0, pin := false, lastUse := 0 }] } }

theorem test_pack_hypotheses :
    packs.jobs.find 6 = some packNode ∧ packNode.st = .packWait ∧ packs.dispatching = true ∧
    packs.graphFor packNode = some packed ∧ Goes (packs.readRanges 0 [(packed.packTable, 64 * packed.packs)]) packs ∧
    (∃ t o, packs.loadPack 6 packNode packed 0 = .at t o) :=
  ⟨by decide, by decide, by decide, by decide, readRanges_goes (by decide +kernel), _, _, rfl⟩

theorem test_switch_hypotheses :
    ∃ s : State, s = graphed [] [(3, spooled)] launching ∧ (∃ v w, s.jobs.find 5 = some v ∧ v.launch = some w ∧
      (s.ctx v.ctx).graphs.find w.graph.toNat = some spooled ∧ w.spoolReady = false) ∧ s.dispatching = true ∧
      (s.ctx 0).state ≠ .lost ∧ s.quiet 0 = false ∧
      (∀ e ∈ s.jobs, e.2.onEngines = true → e.2.launch.isSome = true) ∧ (∀ r ∈ s.spl.packs, s.packInUse r.digest = false) ∧
      (s.ctx 0).saved = [] :=
  ⟨_, rfl, ⟨_, _, rfl, rfl, rfl, rfl⟩, by decide⟩

/-! ### Dispatch, commits, repairs of a run -/

/-- A COPY of 64 bytes from 0x1000 to 0x2000 at the head of queue 0. -/
def copyPayload : List U8 := toBytes 8 0x1000 ++ toBytes 8 0x2000 ++ toBytes 8 64 ++ List.replicate 24 0
def copying : State := headed 1 (slot 0x02 copyPayload)

theorem copying_offers_nothing_else : copying.offersOf 0 = [] ∧ copying.frontRuns = [] := by
  simp [State.frontRuns, State.offersOf, State.reruns, copying, headed, open_, up, State.reset]

theorem test_copy_offer_hypotheses :
    copying.offersOf 0 = [] ∧ copying.head 0 = .slot (slot 0x02 copyPayload) ∧ slotOp (slot 0x02 copyPayload) = 0x02 ∧
    copying.physFail 0 (copying.queue 0).rptr 8 true = none ∧
    copying.dmaFor (slotJob copying 0 (slot 0x02 copyPayload) 4) = some 0 ∧ copying.jobs = [] :=
  ⟨copying_offers_nothing_else.1, by decide +kernel⟩

theorem test_dispatch_hypotheses :
    copying.dispatching = true ∧ copying.goOn = copying ∧ copying.free.2.controlReady = false ∧
    copying.free.2.offerFirst copying.free.2.frontRuns (BitVec.ofNat 32 copying.free.1) = none ∧
    copying.free.2.roundRobin 1 = [] ++ 0 :: [] ∧ copying.free.2.roundRobin 0 = [] ∧
    (copying.free.2.offerQueue 0 (BitVec.ofNat 32 copying.free.1)).isSome = true ∧
    (open_ false).dispatching = true ∧ (∀ k, k < 4 → (open_ false).goOn.free.2.roundRobin k = []) := by
  have h : copying.free.2.offersOf 0 = [] := copying_offers_nothing_else.1
  have f : copying.free.2.frontRuns = [] := copying_offers_nothing_else.2
  refine ⟨by decide, rfl, by decide +kernel, by rw [f]; rfl, by decide, by decide, ?_, by decide, fun k _ => rfl⟩
  unfold State.offerQueue
  rw [h]
  decide +kernel

/-- A killed command that goes first, and a control slot that is ready. -/
def frontJob : Job := { kernel with st := .rerun, front := 1 }
def front : State := { open_ false with queues := [(0, ready 1)], jobs := [(1, frontJob)] }

theorem test_front_dispatch_hypotheses :
    front.dispatching = true ∧ front.goOn = front ∧ front.free.2.controlReady = false ∧
    (front.free.2.offerFirst front.free.2.frontRuns (BitVec.ofNat 32 front.free.1)).isSome = true ∧
    (controls 0x20 1 [] {}).dispatching = true ∧ (controls 0x20 1 [] {}).goOn.free.2.controlReady = true := by
  have h : front.free.2.frontRuns = [(1, frontJob)] := by
    have a : front.free.2.jobs.filter (fun e => e.2.front == 2 && e.2.st == .rerun && front.free.2.offered e.2) = [] := by
      decide +kernel
    have b : front.free.2.jobs.filter (fun e => e.2.front == 1 && e.2.st == .rerun && front.free.2.offered e.2) =
        [(1, frontJob)] := by decide +kernel
    unfold State.frontRuns State.reruns
    rw [a, b, List.mergeSort_nil, List.mergeSort_singleton]
    rfl
  refine ⟨by decide, by decide +kernel, by decide, ?_, by decide, by decide +kernel⟩
  rw [h]
  decide +kernel

/-- A strict command of class 1 that waits for the cores of a relaxed one of class 3. -/
def waiter : Job := { kernel with queue := 1, ctx := 1, st := .ready }
def holder : Job := { kernel with cores := 0xFF }
def contended : State :=
  { open_ false with
    ctxs := [(0, { state := .running, csLevel := 2 }), (1, { state := .running, strict := true, csLevel := 2 })]
    queues := [(0, { ready 1 with cls := 3 }), (1, { ready 1 with ctx := 1 })], jobs := [(1, holder), (2, waiter)] }

theorem test_preemption_hypotheses :
    contended.jobs.find 2 = some waiter ∧ contended.dispatching = true ∧ waiter.compute = true ∧
    contended.offered waiter = true ∧ contended.classOf waiter ≤ 2 ∧ contended.ptn.apply = none ∧
    contended.victims waiter = (1, holder) :: [] ∧ contended.coresFor waiter = none ∧
    ((contended.kill 1 1 .rerun).coresFor waiter).isSome = true := by
  refine ⟨by decide, by decide, by decide, by decide, by decide, by decide, ?_, by decide +kernel, by decide +kernel⟩
  have h : (contended.busyIn 0).filter (fun e => !e.2.nonRestart && preempts 1 (contended.classOf e.2)) = [(1, holder)] := by
    decide
  show List.mergeSort ((contended.busyIn 0).filter (fun e => !e.2.nonRestart && preempts 1 (contended.classOf e.2))) _ = _
  rw [h, List.mergeSort_singleton]

theorem test_no_preemption_hypotheses :
    ∃ s : State, s = { contended with jobs := [(2, waiter)] } ∧ (s.coresFor waiter).isSome = true ∧ s.victims waiter = [] := by
  refine ⟨_, rfl, by decide +kernel, ?_⟩
  simp [State.victims, State.busyIn, contended, waiter, kernel, Job.onEngines]

/-- An EVENT_WAIT with a timer at the head of queue 0. -/
def timedWait : List U8 := [0x11, 0, 0, 0, 9, 0, 0, 0] ++ List.replicate 56 0

theorem test_timeout_hypotheses :
    (running group).die.inReset = false ∧ (running group).pwr.state = .run ∧ (running group).ptn.apply = none ∧
    (running group).pwr.entry = none ∧ (running group).jobs.find 1 = some kernel ∧ (running group).timed kernel = true ∧
    ((running group).ctx kernel.ctx).state = .running ∧
    ((headed 1 timedWait).queue 0).state = .active ∧ ((headed 1 timedWait).queue 0).sqRead ≠ ((headed 1 timedWait).queue 0).sqWrite ∧
    ((headed 1 timedWait).queue 0).oldest = ((headed 1 timedWait).queue 0).sqRead ∧
    slotOp ((headed 1 timedWait).mem.bytes 0x10000 64) ∈ [0x11, 0x20, 0x21, 0x22, 0x30, 0x31] ∧
    slotTimeout ((headed 1 timedWait).mem.bytes 0x10000 64) ≠ 0 := by decide

/-- A command that is done, of a queue and of a launch. -/
def doneJob : Job := { kernel with kind := 4, opcode := 2, st := .done }
def committing (v : Job) : State :=
  { graphed [] [(3, image)] launching with jobs := launching ++ [(6, v)], queues := [(0, { ready 1 with owed := 1, sqRead := 1 })] }

theorem test_commit_hypotheses :
    (committing doneJob).jobs.find 6 = some doneJob ∧ doneJob.st = .done ∧ doneJob.launch = none ∧
    (committing doneJob).die.inReset = false ∧ (committing doneJob).ptn.apply = none ∧ (committing doneJob).pwr.entry = none ∧
    doneJob.parent = none ∧ (committing doneJob).physFail 0 (0x11000 + 32 * (0 % 2 ^ 4)) 32 true = none ∧
    (committing doneJob).physFail 0 0x12000 8 true = none ∧
    (∃ v j a, v = { doneJob with parent := some 5, record := false } ∧ (committing v).jobs.find 6 = some v ∧
      v.parent = some 5 ∧ (5 : Nat) ≠ 6 ∧ (committing v).jobs.find 5 = some j ∧ j.launch = some a ∧ v.record = false ∧
      ((committing v).ctx j.ctx).graphs.find a.graph.toNat = some image ∧ image.nodes = 1) :=
  ⟨by decide, rfl, rfl, by decide, by decide, by decide, rfl, by decide, by decide, _, _, _, rfl, rfl, rfl, by decide, rfl,
    rfl, rfl, by decide, by decide⟩

theorem test_residue_hypotheses :
    (running group).jobs.find 1 = some kernel ∧ (running group).die.inReset = false ∧
    (running group).usesCore 1 kernel 0 = true ∧ (running group).ptn.apply = none ∧ (running group).pwr.entry = none ∧
    (∀ e ∈ (running group).jobs, e.1 ≠ 1 → (running group).usesCore e.1 e.2 0 = true → e.2.nonRestart = false) ∧
    kernel.nonRestart = false ∧ kernel.committed = false ∧ ((running group).ctx kernel.ctx).state = .running ∧
    (∃ s : State, s = { runs fullQueue with jobs := [(1, kernel), (2, kernel)], blocks := [(1, block), (2, { block with job := 2 })] } ∧
      s.usesCore 2 kernel 0 = true) := ⟨by decide, by decide, by decide, by decide, by decide, by decide, by decide, by decide,
        by decide, _, rfl, by decide⟩

/-- Every place of a fault queue at 0x8000 passes its checks. -/
theorem test_fault_queue_places (i : Nat) : (runs fullQueue).physFail 0 (0x8000 + 32 * (i % 2 ^ 6)) 32 true = none := by
  have h : ∀ n : Fin 64, (runs fullQueue).physFail 0 (0x8000 + 32 * n.val) 32 true = none := by decide +kernel
  exact h ⟨i % 2 ^ 6, Nat.mod_lt _ (by decide)⟩

/-- A render pass without attachments, its state block at 0x8000, tile 0 on core 0 with nothing left to do. -/
def passJob : Job := { kernel with kind := 3, pass := some { tiles := [(0, { core := 0 })] }, payload := toBytes 8 0 ++ toBytes 8 0x8000 }
def passing : State := { open_ false with jobs := [(1, passJob)] }

/-- A tile's accesses that pass every check. -/
theorem tile_goes {s : State} {j k : Nat} {v : Job} {tile own : List (Nat × Nat × Access)}
    (hp : ((s.on (some k)).probe v.ctx (tile ++ own)).1 = none)
    (hf : ((s.on (some k)).probe v.ctx (tile ++ own)).2.funded v.ctx (tile ++ own) = true)
    (hd : (tile ++ own).findSome? (fun r =>
      ((s.on (some k)).probe v.ctx (tile ++ own)).2.dramAt v.ctx r.1 r.2.1 r.2.2 (r.2.2 == .write)) = none) :
    Goes (s.probedTile j v k tile own) (((s.on (some k)).probe v.ctx (tile ++ own)).2.traffic j v.ctx tile) := by
  intro f
  have h : (s.on (some k)).probe v.ctx (tile ++ own) = (none, ((s.on (some k)).probe v.ctx (tile ++ own)).2) :=
    Prod.ext hp rfl
  unfold State.probedTile
  rw [h]
  simp [State.passed, hf, hd]

theorem test_tile_store_hypotheses :
    (∀ k, passing.withJob 1 3 k = k passing passJob) ∧ (passing.passOf 1).tiles.find 0 = some { core := 0 } ∧
    (passing.passOf 1).tileReady 0 { core := 0 } = true ∧
    (∃ u, Goes ((passing.setTile 1 0).probedTile 1 { passJob with tile := 0 } 0
      (((passing.setTile 1 0).tileWrites passJob.ctx (passing.passOf 1).d (passing.passOf 1).stage 0 { core := 0 }).map (fun w =>
        (w.1, w.2.length, Access.write)))
      [(storedAt { passJob with tile := 0 } 0, 1, .atomic), (stateVa { passJob with tile := 0 }, 64, .write)]) u) :=
  ⟨fun _ => rfl, by decide, by decide, _, tile_goes (by decide +kernel) (by decide +kernel) (by decide +kernel)⟩

/-! ### Copies, fills, BASTE, streams -/

def movingJob (kind : Nat) (p : List U8) : Job := { kernel with kind := kind, payload := p }
def moving (kind : Nat) (p : List U8) : State := { open_ false with jobs := [(1, movingJob kind p)] }
def fillPayload : List U8 := toBytes 8 0x2000 ++ toBytes 8 64 ++ toBytes 4 7 ++ List.replicate 28 0

/-- The probe of a step's buffers, one after the other. -/
def probes (s : State) (c : Nat) (bs : List (List (Nat × Nat × Access))) : List ProbeFail × State :=
  bs.foldl (fun st b =>
    match st.2.probe c b with
    | (some f, s) => (st.1 ++ [f], s)
    | (none, s) => (st.1, s)) ([], s)

/-- A step whose buffers pass every check goes on. -/
theorem step_goes {s : State} {pay : Bool} {j r : Nat} {v : Job} {bs : List (List (Nat × Nat × Access))}
    (hj : s.jobs.find j = some v) (hp : (probes (s.on none) v.ctx bs).1 = [])
    (hf : (probes (s.on none) v.ctx bs).2.funded v.ctx bs.flatten = true)
    (hd : bs.flatten.findSome? (fun r =>
      (probes (s.on none) v.ctx bs).2.dramAt v.ctx r.1 r.2.1 r.2.2 (r.2.2 == .write)) = none) :
    Goes (s.stepProbe pay j r bs) (probes (s.on none) v.ctx bs).2 := by
  intro k
  have h : (s.on none).jobs.find j = some v := hj
  unfold State.stepProbe
  simp only [h]
  change (match (probes (s.on none) v.ctx bs).1 with
    | [] => (probes (s.on none) v.ctx bs).2.passed pay j v bs.flatten k
    | f :: fs => _) = _
  rw [hp]
  simp only [State.passed, hf, hd, Bool.not_true, Bool.and_false, if_neg Bool.false_ne_true]

theorem test_copy_hypotheses :
    (moving 4 copyPayload).jobs.find 1 = some (movingJob 4 copyPayload) ∧ (movingJob 4 copyPayload).st = .running ∧
    field copyPayload 16 8 = 64 ∧
    (∃ u, Goes ((moving 4 copyPayload).stepProbe (0 == 0) 1 1 [[(0x1000, 64, .read)], [(0x2000, 64, .write)]]) u) ∧
    (moving 5 fillPayload).jobs.find 1 = some (movingJob 5 fillPayload) ∧ field fillPayload 8 8 = 64 ∧
    (∃ u, Goes ((moving 5 fillPayload).stepProbe (0 == 0) 1 1 [[(0x2000, 64, .write)]]) u) ∧
    (∀ k : Nat, 65536 * k < 64 → k = 0) :=
  ⟨by decide, rfl, by decide, ⟨_, step_goes (v := movingJob 4 copyPayload) rfl (by decide +kernel) (by decide +kernel)
    (by decide +kernel)⟩, by decide, by decide, ⟨_, step_goes (v := movingJob 5 fillPayload) rfl (by decide +kernel)
    (by decide +kernel) (by decide +kernel)⟩, fun k h => by omega⟩

/-- BASTE of the 2 by 2 FP16 tensor at 0x2000 with its side table at 0x3000. -/
def bastesJob : Job := movingJob 8 (toBytes 8 0x1000)
def bastes : State :=
  { moving 8 (toBytes 8 0x1000) with
    mem := Mem.putBytes tables 0x1000 (toBytes 8 0x2000 ++ toBytes 4 2 ++ toBytes 4 2 ++ toBytes 8 64 ++ [13, 0x20] ++
      List.replicate 22 0 ++ toBytes 8 0x3000) }

/-- The state in which its descriptor has been read, and what the descriptor says. -/
def bastesRead : State :=
  (((bastes.on none).probe 0 [(0x1000, 64, .read)]).2).traffic 1 0 [(0x1000, 64, .read)]
def bastesTd : Td :=
  { base := 0x2000, rows := 2, cols := 2, pitch := 64, fmt := .fp16, space := 0, colMajor := false, scaled := false,
    scaleRows := false, summarised := true, scaleAddr := 0, scalePitch := 0, summary := 0x3000 }

/-- Reads of a core that pass every check. -/
theorem reads_go {s : State} {j : Nat} {v : Job} {rs : List (Nat × Nat × Access)} (hj : s.jobs.find j = some v)
    (hp : (s.probe v.ctx rs).1 = none)
    (hd : rs.findSome? (fun r => (s.probe v.ctx rs).2.dramAt v.ctx r.1 r.2.1 r.2.2 (r.2.2 == .write)) = none) :
    Goes (s.probed j 0 rs) ((s.probe v.ctx rs).2.traffic j v.ctx rs) := by
  intro k
  have h : s.probe v.ctx rs = (none, (s.probe v.ctx rs).2) := Prod.ext hp rfl
  unfold State.probed State.probedAs
  simp only [if_true, hj]
  rw [h]
  simp [State.passed, hd]

/-- A descriptor whose read passes and that is well formed is handed on. -/
theorem descriptor_goes {s : State} {j va : Nat} {v : Job} {t : Td} (trap : State → Nat → State) (hj : s.jobs.find j = some v)
    (ha : va % 64 = 0) (hp : (s.probe v.ctx [(va, 64, .read)]).1 = none)
    (hd : [(va, 64, Access.read)].findSome? (fun r =>
      (s.probe v.ctx [(va, 64, .read)]).2.dramAt v.ctx r.1 r.2.1 r.2.2 (r.2.2 == .write)) = none)
    (ht : Td.parse (((s.probe v.ctx [(va, 64, .read)]).2.traffic j v.ctx [(va, 64, .read)]).vread v.ctx va 64) = .inr t)
    (hs : (t.space = 1 || t.space = 2) = false) :
    GoesWith (fun k => s.withTd j va false trap k) ((s.probe v.ctx [(va, 64, .read)]).2.traffic j v.ctx [(va, 64, .read)]) t := by
  intro k
  have hn : ¬ va % 64 ≠ 0 := by omega
  simp only [State.withTd, hj, if_neg hn]
  rw [reads_go hj hp hd]
  simp only [ht, hs, Bool.not_false, Bool.and_false, if_neg Bool.false_ne_true]

/-- A BASTE of one step whose buffers pass every check goes on after it. -/
theorem one_step_goes {s u : State} {j : Nat} {v : Job} {t : Td} (hg : Goes (s.stepProbe true j 1 (t.basteStep 0)) u)
    (hk : u.jobs.find j = some v) (hs : t.basteSteps = 1) :
    Goes (fun k => State.basteProbes j t k t.basteSteps 0 s) (u.traffic j v.ctx (t.basteStep 0).flatten) := by
  intro k
  simp only [hs, State.basteProbes]
  refine (hg _).trans ?_
  simp [hk]

theorem bastes_descriptor (trap : State → Nat → State) :
    GoesWith (fun k => (bastes.on none).withTd 1 (field bastesJob.payload 0 8) false trap k) bastesRead bastesTd :=
  descriptor_goes (v := bastesJob) (va := 0x1000) trap rfl (by decide) (by decide +kernel) (by decide +kernel)
    (by decide +kernel) (by decide)

theorem bastes_step : ∃ w, Goes (fun k => State.basteProbes 1 bastesTd k bastesTd.basteSteps 0 bastesRead) w :=
  ⟨_, one_step_goes (v := bastesJob)
    (step_goes (v := bastesJob) (by decide +kernel) (by decide +kernel) (by decide +kernel) (by decide +kernel))
    (by decide +kernel) (by decide +kernel)⟩

theorem test_baste_hypotheses :
    bastes.jobs.find 1 = some bastesJob ∧ bastesJob.kind = 8 ∧ bastesJob.st = .running ∧
    ((open_ false).hostWake false).feUp = true := ⟨rfl, rfl, rfl, by decide⟩

/-- A stream of one block from 0x1000 to 0x2000, its result at 0x3000; mode 4 is FINAL, 2 is CONT. -/
def streamPayload (mode : U8) : List U8 :=
  toBytes 8 0x1000 ++ toBytes 8 0x2000 ++ toBytes 4 1 ++ [mode, 0, 0, 0] ++ toBytes 8 (if mode = 2 then 0x4000 else 0) ++
    toBytes 8 0 ++ toBytes 8 0x3000

theorem test_stream_hypotheses :
    (∀ kind ∈ [6, 7], (moving kind (streamPayload 4)).jobs.find 1 = some (movingJob kind (streamPayload 4)) ∧
      (movingJob kind (streamPayload 4)).st = .running ∧ (movingJob kind (streamPayload 4)).stream = none ∧
      (streamCmd (streamPayload 4)).cont = false) ∧
    (∃ u, Goes ((moving 6 (streamPayload 4)).stepProbe true 1 3 ((streamCmd (streamPayload 4)).opens true true 0)) u) ∧
    (∃ u, Goes ((moving 7 (streamPayload 4)).stepProbe true 1 3 ((streamCmd (streamPayload 4)).opens false true 0)) u) ∧
    (streamCmd (streamPayload 2)).cont = true ∧
    (∃ u, Goes ((moving 6 (streamPayload 2)).stepProbe true 1 3 ((streamCmd (streamPayload 2)).opens true true 0)) u) ∧
    (∃ u, Goes ((moving 7 (streamPayload 2)).stepProbe true 1 3 ((streamCmd (streamPayload 2)).opens false true 0)) u) :=
  ⟨by decide,
    ⟨_, step_goes (v := movingJob 6 (streamPayload 4)) rfl (by decide +kernel) (by decide +kernel) (by decide +kernel)⟩,
    ⟨_, step_goes (v := movingJob 7 (streamPayload 4)) rfl (by decide +kernel) (by decide +kernel) (by decide +kernel)⟩,
    by decide,
    ⟨_, step_goes (v := movingJob 6 (streamPayload 2)) rfl (by decide +kernel) (by decide +kernel) (by decide +kernel)⟩,
    ⟨_, step_goes (v := movingJob 7 (streamPayload 2)) rfl (by decide +kernel) (by decide +kernel) (by decide +kernel)⟩⟩

/-! ### Logs, caches, the Spool -/

theorem test_canonical_hypotheses : (running group).Canonical ∧ step (running group) = .next (running group) :=
  ⟨⟨rfl, rfl⟩, rfl⟩

/-- Partition 0's log window: 128 entries at 0xC000. -/
def logged (w : LogWin) : State := { running group with det := { up.det with logs := [(0, w)] } }

theorem test_log_hypotheses :
    ((logged {}).hostWake false).feUp = true ∧ (((logged {}).hostWake false).det.logs.get {} 0 : LogWin).enable = false ∧
    (∃ w : LogWin, w = { base := 0xC000, enable := true, droppedSince := 2, tail := 5 } ∧
      (((logged w).hostWake false).det.logs.get {} 0 : LogWin) = w ∧ w.enable = true ∧ w.droppedSince ≠ 0 ∧
      (w.head.toNat + 1) % 2 ^ w.order ≠ (5 : U16).toNat % 2 ^ w.order ∧
      w.base + 32 * w.head.toNat + 32 ≤ ((logged w).hostWake false).capacity ∧
      ((logged w).hostWake false).failingPart (w.base + 32 * w.head.toNat) 32 = false) ∧
    (running group).jobs.find 1 = some kernel ∧ kernel.st = .running ∧ (running group).strict kernel = false ∧
    (∃ s : State, s = { open_ true with jobs := [(1, kernel)] } ∧ s.jobs.find 1 = some kernel ∧ s.strict kernel = true ∧
      s.die.inReset = false) ∧
    ((open_ false).feUp = true ∧ (open_ false).counterAt 0x90040 = some 0 ∧ (open_ false).counterAt 0xB4008 = some 0) :=
  ⟨by decide, by decide, ⟨_, rfl, by decide⟩, by decide, by decide, by decide, ⟨_, rfl, by decide⟩, by decide⟩

theorem test_cache_hypotheses :
    ((open_ false).hostWake false).cacheUp = true ∧ ((open_ false).hostWake false).feUp = true ∧
    (open_ false).die.inReset = false ∧ (open_ false).l3c.cache.enabled = false ∧
    ({ enabled := true, enableReg := true } : CacheState).enabled = true ∧
    ({ invalidated := true } : CacheState).invalidated = true ∧ ({ busy := true } : CacheState).busy = true ∧
    ({ busy := true, disabling := true } : CacheState).disabling = true ∧ bit (open_ false).l3c.live 15 = true ∧
    ((open_ false).part 0).enable = true ∧ imbalanced (windowCounts [(0, 65535)] [0, 1]) 65536 = true ∧ imbalanced (windowCounts [] [4096]) 4096 = true ∧
    imbalanced (windowCounts [] [65535]) 65536 = false ∧ up.enabledParts = [] ∧ (open_ false).die.t5Stopped = false ∧
    ({ enabled := true, busy := true } : CacheState).busy = true ∧
    (∃ s : State, s = { open_ false with l3c := { (open_ false).l3c with ce := [(15, 64)] } } ∧ bit s.l3c.live 15 = true ∧
      s.l3c.thresh.toNat ≤ (s.l3c.ce.get 0 15).toNat) ∧
    (∃ s : State, s = { open_ false with l3c := { (open_ false).l3c with cache := { enabled := true, busy := true } },
                                         clusters := [(3, { l1 := { busy := true }, l2 := { busy := true } })] } ∧
      s.l3c.cache.busy = true ∧ (s.clusters.get {} 3 : Cluster).l1.busy = true ∧
      (s.clusters.get {} 3 : Cluster).l2.busy = true) := by
  refine ⟨by decide, by decide, by decide, by decide, by decide, by decide, by decide, by decide, by decide, by decide,
    by decide, by decide, by decide, by decide, by decide, by decide, ⟨_, rfl, by decide⟩, _, rfl, by decide⟩

theorem test_spool_hypotheses :
    ((open_ false).hostWake false).feUp = true ∧ (open_ false).spl.scrub = true ∧ (open_ false).t5Up = true ∧
    exec (.spoolScrub []) (open_ false) = .next (open_ false) ∧
    (∃ w : BankWin, ∃ s : State, w = { spares := [(0, 15)], rowCe := [(5, 8)] } ∧
      s = { open_ false with spl := { State.reset.spl with banks := [(7, w)] } } ∧ s.t5Up = true ∧
      (s.spl.banks.get {} 7 : BankWin) = w ∧ s.darn.entries.length < 8188 ∧ 8 ≤ w.rowCe.get 0 (0x10000 * 0 + 5) ∧
      (∀ g ∈ s.spl.grans, g.1 / 256 = 7 → g.2.st ≠ .alloc) ∧ w.spares.get 0 0 < 16) ∧
    (∃ w : BankWin, w = { spares := [(0, 16)], rowCe := [(5, 8)] } ∧ 16 ≤ w.spares.get 0 0) ∧
    (∃ x : CoreSlot, ∃ s : State, x = { tbSpares := 7, tbRows := [(3, 8)], lmSpares := [(1, 4)], lmRows := [(0x10003, 8)] } ∧
      s = { open_ false with cores := [(9, x)] } ∧ s.t5Up = true ∧ (s.cores.get {} 9 : CoreSlot) = x ∧
      s.coreIdle 9 = true ∧ bit s.flt.quar 9 = false ∧ 8 ≤ x.tbRows.get 0 3 ∧ x.tbSpares < 8 ∧
      8 ≤ x.lmRows.get 0 (0x10000 * 1 + 3) ∧ 4 ≤ x.lmSpares.get 0 1) :=
  ⟨by decide, by decide, by decide, rfl, ⟨_, _, rfl, rfl, by decide⟩, ⟨_, rfl, by decide⟩, _, _, rfl, rfl, by decide⟩

/-! ### The display -/

/-- Pipe 0 with a 64 by 64 timing on output 1, running or not. -/
def timing : Timing :=
  { output := 1, hactive := 64, htotal := 96, vactive := 64, vtotal := 72, clock := 4000000 }
def showing (x : Pipe) : State := { open_ false with dsp := { State.reset.dsp with mirror := 0, connected := 2, pipes := [(0, x)] } }

theorem test_mode_hypotheses :
    (showing { regs := timing }).pipeUp 0 = true ∧
    (64 ≤ timing.hactive.toNat ∧ timing.hactive.toNat ≤ 7680 ∧ 64 ≤ timing.vactive.toNat ∧ timing.vactive.toNat ≤ 4320 ∧
      timing.hactive.toNat + 32 ≤ timing.htotal.toNat ∧ timing.vactive.toNat + 8 ≤ timing.vtotal.toNat ∧
      timing.clock.toNat ≤ 4000000 ∧ timing.output ≠ 3 ∧ (timing.output = 0 → timing.stream = false)) ∧
    (∀ q, q < 4 → q ≠ 0 → ((showing { regs := timing }).pipe q).mode.ok = true →
      ((showing { regs := timing }).pipe q).mode.output = timing.output →
      ((showing { regs := timing }).pipe q).mode.stream ≠ timing.stream) ∧
    ¬ (64 ≤ ({} : Timing).hactive.toNat) ∧ bit (showing { regs := timing }).dsp.connected timing.output.toNat = true ∧
    (showing { regs := timing }).feUp = true ∧ (0 : Nat) < 3 ∧ (showing { mode := timing, running := true }).feUp = true ∧
    ((showing { mode := timing, running := true }).pipe 0).running = true ∧
    ((showing { mode := timing, running := true }).pipe 0).mode.output.toNat = 1 := by decide

/-- Pipe 1 mirrors as from stage Tack, on a die of either kind, with DP1 connected. -/
def mirroring (x32 boot : Bool) : State :=
  { open_ false with
    die := { (open_ false).die with part := if x32 then .x32 else .x64 }
    dsp := { State.reset.dsp with connected := 4, pipes := [(1, { mirroring := true, bootTiming := boot, enable := true })] } }

theorem test_mirror_hypotheses :
    (mirroring false true).feUp = true ∧ (mirroring true true).feUp = true ∧ (mirroring false true).die.part ≠ .x32 ∧
    (mirroring true true).die.part = .x32 ∧ bit (mirroring true true).dsp.connected 1 = false ∧
    bit (mirroring true true).dsp.connected 2 = true ∧ ((mirroring true true).pipe 1).mirroring = true ∧
    ((mirroring true true).pipe 1).bootTiming = true ∧ ((mirroring true false).pipe 1).bootTiming = false := by decide

/-- DP0 is unplugged from one of two pipes, which DP1's sink then drives. -/
theorem test_mirror_goes_over :
    (mirroring true true).mirrorPipe 2 = some 1 ∧ (mirroring true true).mirrorPipe 0 = some 0 ∧
    (mirroring true true).mirrorPipe 1 = none ∧ (mirroring false true).mirrorPipe 1 = some 1 ∧
    ({ mirroring := true, bootTiming := true, enable := true } : Pipe).follow timing =
      { mirroring := true, bootTiming := true, enable := true, mode := timing, running := true } ∧
    ({ mirroring := true, enable := true } : Pipe).follow timing = { mirroring := true, enable := true } := by decide

/-- A flip set of partition 0 without gates or layers; one whose gate at 0x7000 waits for 6; one whose target frame is `t`. -/
def flips (h : List U8) : FlipSet := { addr := 0x9000, header := h ++ List.replicate (128 - h.length) 0, descs := [], owner := some 0 }
def gated : List U8 := [0, 1, 0, 0, 0, 0, 0, 0] ++ List.replicate 8 0 ++ toBytes 8 0x7000 ++ toBytes 8 6
def targeted (t : Nat) : List U8 := [0, 0, 1, 0] ++ toBytes 4 t
def flipping (f : FlipSet) (error : U8) : State :=
  { showing { running := true, head := some f, flipWrite := 1 } with mem := Mem.putBytes tables 0x7008 [error] }

theorem test_flip_hypotheses :
    (flipping (flips []) 0).pipeUp 0 = true ∧ ((flipping (flips []) 0).pipe 0).running = true ∧
    bit (flipping (flips []) 0).dsp.mirror 0 = false ∧ ((flipping (flips []) 0).pipe 0).head = some (flips []) ∧
    (flips []).owner = (flipping (flips []) 0).pipeOwner 0 ∧
    (flipping (flips gated) 0x33).gateError (flips gated) = some 0x33 ∧
    ((flipping (flips gated) 0).gateError (flips gated) = none ∧ (flipping (flips gated) 0).showable 0 (flips gated) = false ∧
      (flipping (flips gated) 0).misses 0 (flips gated) false = false) ∧
    (∃ h, h = [0, 1, 1, 0] ++ toBytes 4 1 ++ List.replicate 8 0 ++ toBytes 8 0x7000 ++ toBytes 8 6 ∧
      (flipping (flips h) 0).gateError (flips h) = none ∧ (flipping (flips h) 0).showable 0 (flips h) = false ∧
      (flipping (flips h) 0).misses 0 (flips h) false = true) ∧
    ((flipping (flips (targeted 1)) 0).gateError (flips (targeted 1)) = none ∧
      (flipping (flips (targeted 1)) 0).showable 0 (flips (targeted 1)) = true ∧
      (flipping (flips (targeted 1)) 0).misses 0 (flips (targeted 1)) true = false ∧
      ((flipping (flips (targeted 1)) 0).pipe 0).flipRead + 1 = ((flipping (flips (targeted 1)) 0).pipe 0).flipWrite) ∧
    ((showing { flipWrite := 1 }).pipe 0).flipRead ≠ ((showing { flipWrite := 1 }).pipe 0).flipWrite ∧
    ((showing { running := true, flipWrite := 1 }).pipe 0).latched = none ∧
    ((showing { running := true, flipWrite := 1 }).pipe 0).head = none ∧
    ((showing { running := true, flipWrite := 1 }).pipe 0).crowded = false ∧
    ((showing { running := true, flipWrite := 1 }).pipe 0).crowds = false ∧
    ((showing { running := true, latched := some (flips []) }).pipe 0).latched = some (flips []) ∧
    (((showing { flipWrite := 1 }).pipe 0).flipWrite - ((showing { flipWrite := 1 }).pipe 0).flipRead).toNat ≤ 16 :=
  ⟨by decide, by decide, by decide, by decide, by decide +kernel, by decide +kernel, by decide +kernel,
    ⟨_, rfl, by decide +kernel⟩, by decide +kernel, by decide, by decide, by decide, by decide, by decide, by decide,
    by decide⟩

/-- A region of one pixel in a mode. -/
def region (m : BitVec 2) : Region := { mode := m, inFrame := [0, 0, 1, 1] }

/-- Pipe 0 in the 64 by 64 timing, without layers, with one region and perhaps lines that ran out of data. -/
def watched (r : Region) (missed : Bool) : State :=
  showing { regs := timing, mode := timing, running := true, missed := missed, regions := [(15, r)] }

theorem test_notch_hypotheses :
    (watched (region 2) false).pipeUp 0 = true ∧ ((watched (region 2) false).pipe 0).running = true ∧ (1 : U32) ≠ 0 ∧
    (region 2).on = true ∧ (region 2).mode ≠ 0 ∧ ((watched (region 2) false).pipe 0).regions.get {} 15 = region 2 ∧
    ((watched (region 1) true).pipe 0).missed = true ∧ (0, 0) ∈ (region 1).pixels ∧
    (region 3).mode ≠ 2 ∧ (region 3).mode ≠ 1 := by decide +kernel

/-- What pipe 0 puts out in a region: the codes rest on the conversion to the output, which the rules leave open. -/
def shown (r : Region) : U32 := crc32c (r.pixels.flatMap (fun e => (watched r false).outputBytes 0 [] e.1 e.2))

/-- Without layers each pixel is the background, black. -/
theorem watched_shows_black (r : Region) (x y : Nat) :
    (watched r false).composePixel 0 [] x y = { bgPixel [] with a := one16 } := by
  have h : (watched r false).composed 0 = [] := rfl
  unfold State.composePixel
  rw [h]
  rfl

theorem shown_of_pixels (r : Region) (e : U32) : shown { r with frameExpected := e } = shown r := by
  unfold shown State.outputBytes
  simp only [watched_shows_black]
  rfl

theorem test_notch_matches_hypotheses :
    (∃ r, r.mode = 1 ∧ r.on = true ∧ shown r = r.frameExpected) ∧ ∃ r, r.mode = 1 ∧ r.on = true ∧ shown r ≠ r.frameExpected := by
  refine ⟨⟨{ region 1 with frameExpected := shown (region 1) }, rfl, rfl, shown_of_pixels _ _⟩,
    { region 1 with frameExpected := ~~~(shown (region 1)) }, rfl, rfl, ?_⟩
  rw [shown_of_pixels]
  show ¬ (shown (region 1) = ~~~(shown (region 1)))
  generalize shown (region 1) = c
  intro h
  have := congrArg (fun x : U32 => x.getLsbD 0) h
  simp at this

/-- Pipe 0's ink ring of 64 records at 0xD000, one record a stroke's start or end. -/
def inked (flags : U8) : State :=
  { showing { inkBase := 0xD000 } with mem := Mem.putBytes tables 0xD006 [flags] }

theorem test_ink_hypotheses :
    (inked 1).pipeUp 0 = true ∧ ((1 : U32) - 0).toNat < 2 ^ 31 ∧ ((1 : U32) - 0).toNat ≤ 2 ^ 6 ∧
    ¬ (((65 : U32) - 0).toNat ≤ 2 ^ 6) ∧ ((inked 1).pipe 0).predict = true ∧
    (inked 1).ownerOk ((inked 1).pipeOwner 0) 0xD000 (16 * 2 ^ 6) false = true ∧
    ((showing { predict := false }).pipe 0).predict = false ∧ (1 : U32) ≠ ((inked 1).pipe 0).inkWrite ∧
    ((inked 1).newestStroke 0 3 1).any InkRec.last = false ∧ ((inked 2).newestStroke 0 3 1).any InkRec.last = true ∧
    (((inked 1).newestStroke 0 3 1).map InkRec.time).Nodup ∧ ((inked 1).newestStroke 0 3 1).length < 2 := by decide +kernel

/-! ### Interrupts -/

/-- A source that is enabled and pending, on its reset vector, and a vector. -/
def raised (src : Nat) (v : Nat) (x : IcVector) : State :=
  { open_ false with ic := { State.reset.ic with
      sources := [(src, { enable := true, pending := true, vector := some v })], vectors := [(v, x)] } }

theorem test_interrupt_hypotheses :
    (raised 64 3 {}).die.inReset = false ∧ hostSource 64 = true ∧ innerSource 128 = true ∧ levelSource 64 = false ∧
    levelSource 128 = false ∧ leaderSource 64 = false ∧ (raised 64 3 {}).leader = true ∧
    ((raised 64 3 {}).hostWake false).feUp = true ∧ fastSource 64 = true ∧ fastSource 32 = false ∧ hostSource 32 = true ∧
    (raised 64 3 {}).feUp = true ∧ ((raised 64 3 { awaiting := true }).vector 3).awaiting = true ∧
    ((raised 64 3 {}).vector 3).awaiting = false ∧ (raised 64 3 {}).ready 3 = [64] ∧
    ((raised 64 3 {}).hostWake false).entryVector 0 ((18 : U32).toNat % 64) = some 18 ∧
    (raised 128 3 {}).thimbleUp (sourceCore 128) = true ∧ (raised 128 3 {}).pendingNow 128 = true := by decide

/-! ### Power -/

def powered (p : Pwr) : State := { open_ false with pwr := p }

theorem test_level_hypotheses :
    (powered {}).feUp = true ∧ ({ locked := true } : Pwr).locked = true ∧ ({} : Pwr).locked = false ∧
    ((0x10 : U32).toNat / 16 % 8 < 2 ∧ (0x10 : U32).toNat % 2 = 0) ∧ 2 ≤ (0x20 : U32).toNat / 16 % 8 ∧ (0x11 : U32).toNat % 2 = 1 ∧
    (powered {}).thimbleUp 4 = true ∧ ({} : Pwr).changing = false ∧ ({ changing := true } : Pwr).changing = true ∧
    ({} : Pwr).clamp = none ∧ ({ clamp := some 7, trip := true, target := 2 } : Pwr).clamp = some 7 ∧
    ({ clamp := some 7, trip := true, target := 2 } : Pwr).target.toNat < (7 : BitVec 3).toNat ∧
    ({ current := 7 } : Pwr).current = 7 ∧ ({} : Pwr).current ≠ 7 := by decide

/-- A partner that declares level 5 makes a die of a pair run with 5, and one that declares 2 leaves 2. -/
def answered (l : BitVec 3) : BitVec 3 :=
  (({ powered {} with die := { (powered {}).die with twoDie := true } } : State).agreePlatform
    { partner := some { part := 0, stepping := 1, strap := true, levelMin := 1, levelMax := 2, epochA := 0, epochB := 0,
                        topLevel := l } }).pwr.topLevel

theorem test_slower_declaration : answered 5 = 5 ∧ answered 2 = 2 := by decide

theorem test_power_hypotheses :
    (powered {}).die.inReset = false ∧ (powered {}).pwr.state ≠ .off ∧ (powered {}).pwr.state ≠ .hold ∧
    ({ coolantOk := true } : Pwr).coolantOk = true ∧ ({} : Pwr).coolantOk = false ∧ ({ current := 1 } : Pwr).current.toNat < 2 ∧
    2 ≤ ({} : Pwr).current.toNat ∧ (powered {}).sensing = true ∧ (List.replicate 12 0 : List Nat).length = 12 ∧
    (powered { temps := [(0, 760)] }).pwr.hotter 95 = true ∧ ({ temps := [(0, 759)] } : Pwr).hotter 95 = false ∧
    ({ temps := [(0, 719)] } : Pwr).cool = true ∧ ({ temps := [(0, 720)] } : Pwr).cool = false ∧
    ({ temps := [(0, 760)] } : Pwr).temps ≠ [] ∧ (powered {}).pwr.state = .run ∧ (∀ b ∈ (powered {}).blocks, b.2.core ≠ 5) ∧
    (∃ b ∈ (running group).blocks, b.2.core = 0) := by decide

theorem test_limit_window_hypotheses :
    (powered { watts := 10 }).thimbleUp 4 = true ∧ ({ watts := 10 } : Pwr).watts ≠ 0 ∧ ({} : Pwr).watts = 0 ∧
    (10 * 10 * 16384 < 1000 * 1639 ∧ 1000 * 1638 ≤ 10 * 10 * 16384 ∧ 9 * (10 * 10 * 16384) ≤ 10000 * 1475 ∧
      10000 * 1474 < 9 * (10 * 10 * 16384)) ∧ ({ limitLow := 8 } : Pwr).limitLow < 9 ∧ 9 ≤ ({ limitLow := 9 } : Pwr).limitLow := by
  decide

theorem test_sleep_hypotheses :
    (powered {}).feUp = true ∧ (powered {}).thimbleUp 4 = true ∧ (powered {}).leader = true ∧ (powered {}).pwr.entry = none ∧
    (powered {}).jobs = [] ∧ (powered {}).ptn.apply = none ∧ (∀ e ∈ (powered {}).slk.modules, e.2.state ≠ 1) ∧ ({ entry := some .nap, step := 1 } : Pwr).entry ≠ none ∧
    ({ entry := some .nap, step := 1 } : Pwr).step = 1 ∧ (powered { entry := some .nap }).die.inReset = false ∧
    (({ wakeCfg := [(3, { enable := true })] } : Pwr).wakeCfg.get {} 3).enable = true ∧ ({} : Pwr).wakeSideband = true ∧
    ({ state := .hold } : Pwr).entry = none ∧ ({ state := .doze } : Pwr).state ≠ .off := by decide

/-! ### Repair and the service port -/

/-- Slot 3 of the die, retested and quarantined. -/
def retesting (n : Nat) (x : CoreSlot) : State :=
  { open_ false with cores := [(3, x)], darn := { State.reset.darn with due := [(3, n)] } }
def quarantined (es : List DarnEntry) : State :=
  { open_ false with flt := { State.reset.flt with quar := 8 }, darn := { State.reset.darn with entries := es } }

theorem test_retest_hypotheses :
    (open_ false).retestUp = true ∧ 3 ∈ (open_ false).liveSlots ∧ (open_ false).darn.due.find 3 = none ∧
    (retesting 62 {}).retestUp = true ∧ 3 ∈ (retesting 62 {}).liveSlots ∧ (retesting 62 {}).coreIdle 3 = true ∧
    (retesting 62 {}).darn.due.find 3 = some 62 ∧ (retesting 63 {}).darn.due.find 3 = some 63 ∧
    bit ({ lanes := 1 } : CoreSlot).lanes 0 = true ∧ bit ({} : CoreSlot).lanes 3 = false ∧
    (retesting 62 {}).darn.entries.length < 8188 ∧ (15 : Nat) < 16 := by decide +kernel

theorem test_quarantine_hypotheses :
    (quarantined []).t5Up = true ∧ bit (quarantined []).flt.quar 3 = true ∧ (quarantined []).darn.rejoin.find 3 = none ∧
    (quarantined []).darn.slotFailed 0 0 = false ∧ ((quarantined []).history 0 0).1 + 1 < 3 ∧
    3 ≤ ((quarantined [{ type := 8, index := 2 }]).history 0 0).1 + 1 ∧ SlotFault.unit ∈ [SlotFault.ray, .unit] ∧
    (quarantined [{ type := 1 }]).darn.slotFailed 0 0 = true ∧
    (quarantined [{ type := 1 }]).spareSlots 0 = [1, 2, 3, 4, 5, 6, 7, 8] ∧
    (quarantined ((List.range 9).map (fun ps => { type := 1, s := ps }))).spareSlots 0 = [] := by decide +kernel

/-- Slot 3, or slot 63 that no partition holds, is to rejoin. -/
def rejoining (k : Nat) (remap : Bool) : State :=
  { open_ false with darn := { State.reset.darn with rejoin := [(k, (4, remap))], pending := true, hours := 7 } }

theorem test_rejoin_hypotheses :
    (rejoining 63 false).darn.rejoin.find 63 = some (4, false) ∧ (rejoining 63 false).holderOf 63 = none ∧
    (rejoining 3 true).holderOf 3 = some 0 ∧ bit (rejoining 3 true).ptn.halted 0 = false ∧ (rejoining 3 false).busyIn 0 = [] ∧
    (rejoining 3 false).ptn.apply = none ∧ (running group).busyIn 0 ≠ [] ∧ bit (1 : U16) 0 = true ∧
    (rejoining 3 true).t5Up = true ∧ (rejoining 3 true).die.stage = .finished ∧ (rejoining 3 true).darn.pending = true ∧
    (open_ false).darn.pending = false ∧ (rejoining 3 true).darn.hours ≤ 7 ∧ 6 < (rejoining 3 true).darn.hours := by
  decide +kernel

/-- The service port after ENTDAA, with an upload of two blocks in a state. -/
def served (x : Svc) : State := { up with svc := { x with addr := some 9 } }
def asked (x : Svc) : State :=
  let s := served x
  { s with svc := { s.svc with reply := [], nack := false, ibis := [], hdr := false, response := none } }

theorem asks (x : Svc) : Asks (served x) (asked x) := ⟨rfl, Option.some_ne_none _, PowerState.noConfusion, rfl⟩

theorem test_service_hypotheses :
    up.svcUp = true ∧ up.svc.addr = none ∧ (served {}).svc.addr ≠ none ∧ 4112 ≤ (4112 : U16).toNat ∧ (4111 : U16).toNat < 4112 ∧
    (served {}).svcUp = true ∧ (served {}).pwr.wakeI3c = true ∧ ({ wakeI3c := false } : Pwr).wakeI3c = false ∧
    (served {}).pwr.state ≠ .hold ∧ ((asked {}).readPort 0x90000).isSome = true ∧ (asked {}).readPort 0x20000 = none ∧
    (0x90000 : Nat) ≠ 0x90004 := by decide +kernel

/-- A receiving upload of two blocks, one of them in. -/
def receiving : Svc := { upload := .receiving, length := 0x2000, received := [0] }

theorem test_upload_hypotheses :
    Asks (served receiving) (asked receiving) ∧ (asked {}).unprepare.slotBHeld = false ∧
    (asked { act := .armed }).unprepare.slotBHeld = true ∧
    ((28 * 2 ^ 20 : U32) ≠ 0 ∧ (28 * 2 ^ 20 : U32).toNat % 4096 = 0 ∧ (28 * 2 ^ 20 : U32).toNat ≤ 28 * 2 ^ 20) ∧
    (4095 : U32).toNat % 4096 ≠ 0 ∧ (asked receiving).flash.wf = true ∧
    (asked receiving).unprepare.svc.upload = .receiving ∧ (List.replicate 4096 (0 : U8)).length = 4096 ∧
    1 < (asked receiving).unprepare.svc.length / 4096 ∧ (asked receiving).unprepare.svc.length / 4096 ≤ 2 ∧
    (asked receiving).unprepare.svc.buffer.length < 16 ∧
    16 ≤ ({ receiving with buffer := List.replicate 16 (0, []) } : Svc).buffer.length ∧
    (served { receiving with buffer := [(1, [7])] }).thimbleUp 0 = true ∧
    (served { receiving with buffer := [(1, [7])] }).svc.buffer = (1, [7]) :: [] ∧
    (asked receiving).svc.received.length < (asked receiving).svc.length / 4096 ∧
    (asked { receiving with received := [1, 0] }).svc.length / 4096 ≤ (asked { receiving with received := [1, 0] }).svc.received.length :=
  ⟨asks _, by decide, by decide, by decide, by decide, by decide, by decide, by decide +kernel, by decide, by decide, by decide,
    by decide, by decide, by decide, by decide, by decide⟩

/-- An empty slot B fails its first check; one that verifies rests on the digest in mask ROM, which the rules do not give. -/
theorem test_upload_end_hypotheses :
    ((asked { receiving with received := [1, 0] }).programAll.verifySlot 0x1D00000 1 (some 0x2000)) ≠ 0 := by decide +kernel

/-- Slot B holds a manifest of epoch 5 for one die, without parts or with one whose digest does not match. -/
def manifested (n : U8) (x : Svc) : State :=
  { served x with flash := (Mem.putBytes [] 0x1D00005 [n, 1, 7, 5]).putBytes 0x1D00040 [1, 1] }
def manifestedAsked (n : U8) (x : Svc) : State :=
  { manifested n x with svc := (asked x).svc }

/-- The leader of a package of two dies, whose slot B holds such a manifest for two dies. -/
def leading (x : Svc) : State :=
  { manifested 0 x with
    flash := Mem.putBytes [] 0x1D00005 [0, 2, 7, 5], die := { (manifested 0 x).die with twoDie := true } }
def leadingAsked (x : Svc) : State := { leading x with svc := (asked x).svc }

theorem leading_asks (x : Svc) : Asks (leading x) (leadingAsked x) :=
  ⟨rfl, Option.some_ne_none _, PowerState.noConfusion, rfl⟩

theorem test_two_die_activation_hypotheses :
    Asks (leading { upload := .complete }) (leadingAsked { upload := .complete }) ∧
    (leadingAsked { upload := .complete }).leader = true ∧ (leadingAsked { upload := .complete }).slotBHeld = false ∧
    (5 : U32).toNat = imgEpoch (manifest (leadingAsked {}).flash 0x1D00000) ∧
    imgDies (manifest (leadingAsked {}).flash 0x1D00000) = 2 ∧ (leadingAsked {}).seamInUse = true ∧
    (∀ n, n < 4 → (leadingAsked { upload := .complete }).unitAccepts n = true ∧ bit (0xF : BitVec 4) n = true) ∧
    bit (0x7 : BitVec 4) 3 = false ∧
    (leadingAsked { act := .prepared, preparedEpoch := 5 }).leader = true ∧
    (leadingAsked { act := .prepared, preparedEpoch := 5 }).svc.act = .prepared :=
  ⟨leading_asks _, by decide +kernel⟩

theorem manifested_asks (n : U8) (x : Svc) : Asks (manifested n x) (manifestedAsked n x) :=
  ⟨rfl, Option.some_ne_none _, PowerState.noConfusion, rfl⟩

theorem test_prepare_hypotheses :
    Asks (manifested 0 { upload := .complete }) (manifestedAsked 0 { upload := .complete }) ∧
    (manifestedAsked 0 { upload := .complete }).leader = true ∧
    (manifestedAsked 0 { upload := .complete }).slotBHeld = false ∧
    (5 : U32).toNat = imgEpoch (manifest (manifestedAsked 0 {}).flash 0x1D00000) ∧
    (manifestedAsked 0 { upload := .complete }).svc.activeEpoch.toNat < (5 : U32).toNat ∧
    imgDies (manifest (manifestedAsked 0 {}).flash 0x1D00000) = 1 ∧
    (∀ n, n < 4 → (manifestedAsked 0 { upload := .complete }).unitAccepts n = true) ∧
    (manifestedAsked 1 { upload := .complete }).unitAccepts 0 = false :=
  ⟨manifested_asks _ _, by decide +kernel⟩

theorem test_commit_activation_hypotheses :
    Asks (manifested 0 { act := .prepared, preparedEpoch := 5 }) (manifestedAsked 0 { act := .prepared, preparedEpoch := 5 }) ∧
    (manifestedAsked 0 { act := .prepared, preparedEpoch := 5 }).svc.act = .prepared ∧
    imgDies (manifest (manifestedAsked 0 {}).flash 0x1D00000) ≠ 2 ∧
    (manifested 0 { act := .copying }).svc.act = .copying ∧ (manifested 0 { act := .copying }).die.stage = .finished ∧
    (manifested 0 { act := .copying }).thimbleUp 0 = true :=
  ⟨manifested_asks _ _, by decide +kernel⟩

theorem test_attest_hypotheses :
    Asks (served {}) (asked {}) ∧ (List.replicate 32 (0 : U8)).length = 32 ∧ (asked {}).svc.next < 2 ^ 20 ∧
    (asked {}).svc.next = (asked {}).svc.limit ∧ (asked { limit := 64 }).svc.next ≠ (asked { limit := 64 }).svc.limit ∧
    2 ^ 20 ≤ (asked { next := 2 ^ 20 }).svc.next ∧ 2 ^ 20 - ((asked { next := 2 ^ 20 - 1 }).svc.next + 1) < 65536 ∧
    (asked {}).tokenOk [] = false ∧ (asked {}).ctxs.keys.Nodup :=
  ⟨asks _, by decide +kernel⟩

theorem dieIdentity_lt : dieIdentity < 256 ^ 8 :=
  Nat.lt_of_lt_of_le (ofBytes_lt _) (Nat.pow_le_pow_right (by decide) (by rw [List.length_reverse]; exact List.length_take_le _ _))

/-- A token signed by the maker key over this die's identity and its challenge is accepted: a signature that verifies
under the digest in mask ROM is all that the conditions ask for beyond its form. -/
theorem test_token_of_signature (c pub sig : List U8) (hc : c.length = 32) (hp : pub.length = 56) (hs : sig.length = 1612)
    (hd : sha256 pub = makerDigest)
    (hv : lmsVerifies pub ((toBytes 4 0x524B4D4C ++ [1, 0, 0, 0] ++ toBytes 8 dieIdentity) ++ (c ++ pub)) sig = true) :
    (asked { challenge := some c }).tokenOk
      ((toBytes 4 0x524B4D4C ++ [1, 0, 0, 0] ++ toBytes 8 dieIdentity) ++ (c ++ (pub ++ sig))) = true := by
  have hi := ofBytes_toBytes 8 _ dieIdentity_lt
  unfold State.tokenOk
  generalize dieIdentity = i at *
  have hl : (toBytes 4 0x524B4D4C ++ [1, 0, 0, 0] ++ toBytes 8 i).length = 16 := rfl
  have e8 : field ((toBytes 4 0x524B4D4C ++ [1, 0, 0, 0] ++ toBytes 8 i) ++ (c ++ (pub ++ sig))) 8 8 = i := hi
  have e4 : field ((toBytes 4 0x524B4D4C ++ [1, 0, 0, 0] ++ toBytes 8 i) ++ (c ++ (pub ++ sig))) 0 4 = 0x524B4D4C := ofBytes_toBytes 4 0x524B4D4C (by decide)
  have e1 : field ((toBytes 4 0x524B4D4C ++ [1, 0, 0, 0] ++ toBytes 8 i) ++ (c ++ (pub ++ sig))) 4 1 = 1 := rfl
  have e5 : zeroRange ((toBytes 4 0x524B4D4C ++ [1, 0, 0, 0] ++ toBytes 8 i) ++ (c ++ (pub ++ sig))) 5 3 = true := rfl
  have d16 : ((toBytes 4 0x524B4D4C ++ [1, 0, 0, 0] ++ toBytes 8 i) ++ (c ++ (pub ++ sig))).drop 16 = c ++ (pub ++ sig) := rfl
  have d48 : ((toBytes 4 0x524B4D4C ++ [1, 0, 0, 0] ++ toBytes 8 i) ++ (c ++ (pub ++ sig))).drop 48 = pub ++ sig := by
    rw [show (48 : Nat) = 16 + 32 from rfl, ← List.drop_drop, d16, List.drop_left' hc]
  have d104 : ((toBytes 4 0x524B4D4C ++ [1, 0, 0, 0] ++ toBytes 8 i) ++ (c ++ (pub ++ sig))).drop 104 = sig := by
    rw [show (104 : Nat) = 48 + 56 from rfl, ← List.drop_drop, d48, List.drop_left' hp]
  have t104 : ((toBytes 4 0x524B4D4C ++ [1, 0, 0, 0] ++ toBytes 8 i) ++ (c ++ (pub ++ sig))).take 104 =
      (toBytes 4 0x524B4D4C ++ [1, 0, 0, 0] ++ toBytes 8 i) ++ (c ++ pub) := by
    rw [← List.append_assoc c, ← List.append_assoc]
    exact List.take_left' (by rw [List.length_append, hl, List.length_append, hc, hp])
  have hlen : ((toBytes 4 0x524B4D4C ++ [1, 0, 0, 0] ++ toBytes 8 i) ++ (c ++ (pub ++ sig))).length = 1716 := by
    rw [List.length_append, hl, List.length_append, hc, List.length_append, hp, hs]
  generalize hh : (toBytes 4 0x524B4D4C ++ [1, 0, 0, 0] ++ toBytes 8 i) ++ (c ++ (pub ++ sig)) = t at *
  simp only [e8, e4, e1, e5, d16, d48, d104, t104, hlen, List.take_left' hc, List.take_left' hp, hd, hv]
  simp [asked, served]

/-! ### Links, host memory, channels, test access and register writes -/

/-- Module `m`, trained, is in a state of its link; the Seam receiver expects flit 5. -/
def linked (m : Nat) (st : BitVec 2) (k : Slk) : State :=
  { open_ false with slk := { k with modules := [(m, { state := st, rate := 32, width := 16 })] } }

theorem test_link_hypotheses :
    (linked 0 2 {}).die.inReset = false ∧ (linked 0 2 {}).linkIn .host 2 = true ∧ (linked 2 2 {}).linkIn .seam 2 = true ∧
    (linked 1 1 {}).linkIn .host 1 = true ∧ (linked 3 1 {}).linkIn .seam 1 = true ∧ (linked 0 3 {}).linkIn .host 3 = true ∧
    0 ∈ linkModules .host ∧ ((linked 0 2 {}).module 0).rate ≠ 0 ∧ 2 ∉ linkModules .host := by decide

/-- A flit with its check. -/
def flit (seq : BitVec 12) (kind : BitVec 4) : SeamFlit :=
  flitSealed { seq := seq, kind := kind, ack := 0, messages := List.replicate 248 0, crc := 0 }

def seamed (unacked attempts : Nat) : State := linked 2 2 { level := 2, expected := 5, unacked := unacked, attempts := attempts }

theorem test_flit_hypotheses :
    (seamed 62 14).die.inReset = false ∧ (seamed 62 14).slk.level ≠ 0 ∧ (seamed 62 14).linkIn .seam 2 = true ∧
    (seamed 62 14).slk.unacked < 63 ∧ (seamed 62 14).slk.attempts < 15 ∧ 63 ≤ (seamed 63 15).slk.unacked ∧
    15 ≤ (seamed 63 15).slk.attempts ∧ (seamed 62 14).slk.expected = 5 ∧
    (flit 5 0).seq = 5 ∧ ((6 : BitVec 12) - 5).toNat < 2048 ∧ 2048 ≤ ((4 : BitVec 12) - 5).toNat := by decide

/-- A sealed flit has a good check, and with the check inverted a bad one. -/
theorem test_flit_checks (f : SeamFlit) : (flitSealed f).crc = crc32c (flitCovered (flitSealed f)) ∧
    ¬ (({ f with crc := ~~~(flitSealed f).crc } : SeamFlit).crc = crc32c (flitCovered f)) := by
  refine ⟨rfl, ?_⟩
  show ¬ (~~~(crc32c (flitCovered f)) = crc32c (flitCovered f))
  generalize crc32c (flitCovered f) = c
  intro h
  have := congrArg (fun x : U32 => x.getLsbD 0) h
  simp at this

/-- Memory with one failing line, and with inline ECC off: 1 GiB is usable. -/
def lines (l : List Nat) : State :=
  { open_ false with flt := { (open_ false).flt with failing := l }, die := { (open_ false).die with inlineEcc := false } }

theorem test_host_memory_hypotheses :
    (lines []).memUp = true ∧ (2 ^ 30 - 1) / 64 * 64 + 64 ≤ (lines []).capacity ∧
    (lines []).failing ((2 ^ 30 - 1) / 64 * 64) 64 = false ∧ (lines [8]).failing (1024 / 64 * 64) 64 = true ∧
    ([1, 2] : List U8) ≠ [] ∧ ([1, 2] : List U8).length ≤ 64 - 62 % 64 ∧ 62 + ([1, 2] : List U8).length ≤ (lines []).capacity ∧
    (lines []).failingPart 62 ([1, 2] : List U8).length = false ∧ (lines []).mem.wf = true ∧
    (∀ d ∈ (lines []).deltas, d.pa / 128 ≠ 62 / 128) ∧ (lines []).l3c.cache.enabled = false ∧ (lines []).holders 62 = [] := by decide

/-- A started die whose scrub runs over inline ECC. -/
def scrubbing : State := { up with mc := { up.mc with scrub := true }, die := { up.die with inlineEcc := true } }

theorem test_channel_hypotheses :
    up.feUp = true ∧ 15 < 16 ∧ (List.replicate 16 7).length = 16 ∧ (∀ r ∈ List.replicate 16 7, r < 8) ∧
    (∃ r ∈ List.replicate 16 4, 3 < r) ∧ (∀ r ∈ List.replicate 16 3, r ≤ 3) ∧
    scrubbing.memUp = true ∧ scrubbing.mc.scrub = true ∧ scrubbing.die.inlineEcc = true ∧
    (DramError.mk 0 (2 ^ 30 * 15 / 16 - 1) true).addr < scrubbing.capacity ∧ (DramError.mk 0 0 true).corrected = true ∧
    (DramError.mk 0 0 false).addr < scrubbing.capacity ∧ (DramError.mk 0 0 false).corrected = false ∧
    State.reset.die.pinLow = true ∧ up.die.pinLow = false := by decide

theorem test_register_write_hypotheses :
    ((2 : Nat) ≠ 4 ∨ 0 % 4 ≠ 0) ∧ ((4 : Nat) ≠ 4 ∨ 2 % 4 ≠ 0) ∧
    (0x10024 % 4 = 0 ∧ 0x10024 / 0x10000 ≠ 9 ∧ 0x10024 / 0x10000 ≠ 10 ∧ (up.hostWake false).feUp = true) ∧
    (0x9003C % 4 = 0 ∧ (0x9003C / 0x10000 = 9 ∨ 0x9003C / 0x10000 = 10) ∧ up.feUp = true) ∧ up.leader = true ∧
    (lines []).memUp = true ∧ (lines []).die.aperture.toNat * 2 ^ 28 + (2 ^ 28 - 4) % 2 ^ 28 + 4 ≤ (lines []).capacity ∧
    (lines []).failingPart ((lines []).die.aperture.toNat * 2 ^ 28 + (2 ^ 28 - 4) % 2 ^ 28) 4 = false ∧
    (lines []).mem.wf = true ∧ ((lines []).hostWake false).feUp = true ∧
    (∀ d ∈ (lines []).deltas, d.pa / 128 ≠ ((lines []).die.aperture.toNat * 2 ^ 28 + (2 ^ 28 - 4) % 2 ^ 28) / 128) ∧
    ((3 : U32).toNat % 256 + 1) * 2 ^ 28 ≤ ((lines []).hostWake false).die.dramMib * 2 ^ 20 ∧
    ((lines []).hostWake false).die.dramMib * 2 ^ 20 < ((4 : U32).toNat % 256 + 1) * 2 ^ 28 := by decide

/-- Partition 1 lies in a VF, whose queues are 0 to 15. -/
theorem test_vf_doorbell_hypotheses :
    ∃ s : State, s = { lines [] with ptn := { (lines []).ptn with parts := [(1, { ownPart with vf := true })] } } ∧
      s.onVf 1 = true ∧ s.leader = true ∧ 15 < (s.part 1).qCount.toNat ∧ (s.part 1).qCount.toNat ≤ 16 ∧
      (lines []).onVf 0 = false := ⟨_, rfl, by decide⟩

/-! ### The worked examples of the specification -/

/-- FFMA.F32.RNE g12 = g4 × g5 + g6 under p1 is stored as 00 00 06 05 04 0C 08 11 (03, R77). -/
theorem test_word_bytes : toBytes 8 0x11080C0405060000 = [0x00, 0x00, 0x06, 0x05, 0x04, 0x0C, 0x08, 0x11] := by decide

/-- The solver's partition after the re-binding example holds banks 0 to 4 and 6: offset 0x0410_0040 of SPACE 3 is
bank 6's offset 0x50_0040 (08, the first example). -/
theorem test_spool_offset :
    ({ up with ptn := { up.ptn with parts := [(0, { ownPart with banks := 0x5F })] } } : State).spool3 0 0x04100040 =
      some 0x000C000006500040 := by decide

/-- 127.75 rounds to 128 in I8 and saturates to 127 (04, R101 and R93). -/
theorem test_saturates : Fmt.encode .i8 .rne false (.fin false 511 (-2)) = 127 := by decide

/-- The E4M3 example of 05: its sum −1,069 × 2^−7 in FP32 and, rounded up, in BF16. -/
theorem test_dot_outputs : Fmt.encode .fp32 .rne false (.fin true 1069 (-7)) = 0xC105A000 ∧
    Fmt.encode .bf16 .rne false (.fin true 1069 (-7)) = 0xC106 := by decide

/-- The E4M3 example of 05: the Bolt of anchor 12 that its products enter is −1,069 × 2^181. -/
theorem test_dot_bolt :
    let b := ({} : Bolt).dot (some 12) .e4m3 false
      ([0x3C, 0xB4, 0x44, 0x20, 0xC2, 0x00, 0x4A, 0x04].map (Fmt.decode .e4m3))
      ([0x40, 0x3A, 0xB0, 0x4C, 0x2C, 0x7E, 0xBE, 0x44].map (Fmt.decode .e4m3))
    b.v = BitVec.ofInt 232 (-1069 * 2 ^ 181) ∧ b.nan = false ∧ b.posInf = false ∧ b.agrees = true := by decide +kernel

/-- The MXFP8 example of 04: its elements under the block's scale, 287.25, 2.25 and a tie between subnormals, and the first
and the third without it. -/
theorem test_block_scaled : Fmt.encode .e4m3 .rne false (.fin false 1149 (-2)) = 0x79 ∧
    Fmt.encode .e4m3 .rne false (.fin false 9 (-2)) = 0x41 ∧ Fmt.encode .e4m3 .rne false (.fin false 3 (-10)) = 0x02 ∧
    Fmt.encode .e4m3 .rne false (.fin false 1149 (-7)) = 0x51 ∧ Fmt.encode .e4m3 .rne false (.fin false 3 (-15)) = 0 := by
  decide

/-- PHILOX with zeros alone (07, R167). -/
theorem test_philox_zeros : philoxWords 0 0 0 0 = (0x6627E8D5, 0xE169C58D, 0xBC57AC4C, 0x9B00DBD8) := by decide +kernel

/-- The OVERFLOW record of context 7 of 13's example, SEQ 0x141 after one dropped record. -/
theorem test_overflow_record :
    (overflowRecord { open_ false with ctxs := [(7, { state := .lost, loss := 0x02, fqDroppedSince := 1, fqSeq := 0x141 })] } 7).bytes 0x141 =
      [0x3E, 0x0F, 7, 0, 0x41, 1, 0, 0] ++ List.replicate 16 0 ++ [1, 0, 0, 0, 1, 0, 2, 0] := by decide +kernel

def third : FVal := Fmt.decode .fp64 0x3FD5555555555555

/-- (1/3)² of the FP64 example of 06: exact and faithful outputs. -/
theorem test_pleated_square :
    Fmt.encode .fp64 .rne false (productOf .fp64 false third third) = 0x3FBC71C71C71C71C ∧
    Fmt.encode .fp64 .rne false (productOf .fp64 true third third) = 0x3FBC71C71C71C71B := by decide +kernel

/-- The line of 09's example lies in channel 12 and set 0x86 of its slice. -/
theorem test_line_place : dramChannel 0x345678A80 = 12 ∧ Part.l3Set .x64 0 0x345678A80 = 0x86 := by decide

/-- The digest of the three bytes "abc" that FIPS 180-4 works out. -/
theorem test_sha_abc : sha256 [0x61, 0x62, 0x63] =
    bigBytes 32 0xBA7816BF8F01CFEA414140DE5DAE2223B00361A396177A9CB410FF61F20015AD := by decide +kernel

/-- The round constants are the cube roots of the first 64 primes, and the initial hash the square roots of the first 8: their
fractional parts to 32 bits. -/
theorem test_sha_constants :
    let primes := ((List.range 312).drop 2).filter (fun n => ((List.range n).drop 2).all (fun d => n % d != 0))
    primes.length = 64 ∧
    (primes.zip shaK).all (fun e => (List.range 7).any (fun i =>
      let c := 2 ^ 32 * i + e.2.toNat
      decide (c ^ 3 ≤ e.1 * 2 ^ 96 ∧ e.1 * 2 ^ 96 < (c + 1) ^ 3))) = true ∧
    (primes.zip shaInit).all (fun e => (List.range 5).any (fun i =>
      let c := 2 ^ 32 * i + e.2.toNat
      decide (c ^ 2 ≤ e.1 * 2 ^ 64 ∧ e.1 * 2 ^ 64 < (c + 1) ^ 2))) = true := by decide +kernel

/-- The levels' regulator codes: 0.90 V at P0, 0.78 V at P2 and at power-on, 0.55 V at P7 (R402, R482, R484). -/
theorem test_regulator_codes : (levelSettings 0).vid = 0x82 ∧ (levelSettings 7).vid = 0x3C ∧ State.reset.vrVid = 0x6A ∧
    (List.range 8).all (fun l => decide (250 + 5 * (levelSettings l).vid.toNat = [900, 840, 780, 720, 670, 620, 580, 550].getD l 0)) = true := by
  decide

/-! ### Ill-formed commands -/

/-! Each check of WellFormed refuses a term. -/

theorem test_ill_formed_engine :
    Instr.wf (.fadd 1 { fv 0 0 8 0 with imm := 1 }) = false ∧ Instr.wf (.texFetch 1 (fv 0 0 8 1)) = false ∧
    Instr.wf (.traceAccept 1 (fv 0 0 8 0)) = false ∧ Instr.wf (.ptnLiveWrite 0x10002 0) = false ∧
    Instr.wf (.ptnStaticWrite 0x1000000 0) = false ∧ Instr.wf (.partitionHalted 16) = false ∧
    Instr.wf (.fltCtxResume 256) = false ∧ Instr.wf (.nop 1024 0) = false ∧ Instr.wf (.l1Enable 8 true) = false ∧
    Instr.wf (.retestDue 64) = false ∧ Instr.wf (.flipLatch 4) = false ∧ Instr.wf (.wakePin 4) = false ∧
    Instr.wf (.ld 1 ⟨false, 7, 0, 8, 2, 2, 0, 0, 0⟩ (.cacheUncorrectable 0 0 0 .clean)) = false ∧
    Instr.wf (.rowSpare (.spool 8 0) 0) = false := by decide +kernel

theorem test_ill_formed_units :
    Instr.wf (.rowSpare (.localMem 0 32) 0) = false ∧ Instr.wf (.rowSpare (.tileBuffer 64) 0) = false ∧
    Instr.wf (.commandTimeout (.head 1024)) = false ∧ Instr.wf (.interruptAssert 512) = false ∧
    Instr.wf (.msixMessageSend 65) = false ∧ Instr.wf (.hostLinkTrainRetry { width := 65 } {} 0) = false ∧
    Instr.wf (.dieResetRelease { badSlots := [(0, 9)] }) = false ∧ Instr.wf (.thimbleWatchdogExpiry 6 0) = false ∧
    Instr.wf (.feCtxOpen 16) = false ∧ Instr.wf (.wayDisable 16) = false ∧
    Instr.wf (.notchSignature 0 16 []) = false ∧ Instr.wf (.hpdDisconnect 3) = false ∧
    Instr.wf (.entdaa 128) = false ∧ Instr.wf (.readReg 0 (2 ^ 32)) = false := by decide

theorem test_ill_formed_ports :
    Instr.wf (.uploadBlock 0 0 [] 0) = false ∧ Instr.wf (.attest 0 []) = false ∧
    Instr.wf (.residueFailure 0 2 true 0) = false ∧ Instr.wf (.dramRefresh 16 0) = false ∧
    Instr.wf (.refreshRateRead []) = false ∧ Instr.wf (.dramScrub [⟨16, 0, true⟩]) = false ∧
    Instr.wf (.spoolScrub [⟨8, 0, 0, 0, true⟩]) = false ∧ Instr.wf (.cacheOperationDone (.l2 8)) = false ∧
    Instr.wf (.registerWrite 48 0 4 0) = false ∧ Instr.wf (.registerWrite 0 0 3 0) = false ∧
    Instr.wf (.cxlMemAccess (.read 32 false)) = false ∧ Instr.wf (.cxlMemAccess (.write 63 [0, 0])) = false ∧
    Instr.wf (.cxlCacheSnoop 32 false) = false := by decide

theorem test_ill_formed_flit (m : List U8) (h : m.length = 249) : Instr.wf (.seamFlitReceive ⟨0, 0, 0, m, 0⟩) = false := by
  simp [Instr.wf, h]

/-- A word gives no instruction on whose way something has happened. -/
theorem test_not_readable : Instr.readable (.ld 1 ⟨false, 7, 0, 8, 2, 2, 0, 0, 0⟩ .hostDamaged) = false := by decide +kernel

end Sys2Proof.Tests
end

section
/-! SUPPORT. What an access at a line's home leaves: the lines of the caches, the partitions' credit and the counts of
their hot spots move, and nothing else of the state does (R23, R199 to R204). -/

namespace Sys2Proof.Machine

open Sys2Proof

/-- `t` is `s` but for the lines of the caches, the credit of the partitions and the counts of the hot-spot windows. -/
def State.CachesMove (s t : State) : Prop :=
  ∃ l k h, t = { s with lines := l, ptn := { s.ptn with credit := k }, l3c := { s.l3c with hot := h } }

namespace State.CachesMove

variable {s t u : State}

theorem refl (s : State) : s.CachesMove s := ⟨s.lines, s.ptn.credit, s.l3c.hot, rfl⟩

theorem trans (h : s.CachesMove t) (h' : t.CachesMove u) : s.CachesMove u := by
  obtain ⟨_, _, _, rfl⟩ := h
  obtain ⟨l, k, w, rfl⟩ := h'
  exact ⟨l, k, w, rfl⟩

theorem mem_eq (h : s.CachesMove t) : t.mem = s.mem := by obtain ⟨_, _, _, rfl⟩ := h; rfl
theorem flt_eq (h : s.CachesMove t) : t.flt = s.flt := by obtain ⟨_, _, _, rfl⟩ := h; rfl
theorem ctxs_eq (h : s.CachesMove t) : t.ctxs = s.ctxs := by obtain ⟨_, _, _, rfl⟩ := h; rfl
theorem jobs_eq (h : s.CachesMove t) : t.jobs = s.jobs := by obtain ⟨_, _, _, rfl⟩ := h; rfl
theorem deltas_eq (h : s.CachesMove t) : t.deltas = s.deltas := by obtain ⟨_, _, _, rfl⟩ := h; rfl

theorem failingPart_eq (h : s.CachesMove t) (a n : Nat) : t.failingPart a n = s.failingPart a n := by
  simp only [State.failingPart, h.flt_eq]

/-- One of two branches, each of which moves the caches alone. -/
theorem ite {p : Prop} [Decidable p] (ht : s.CachesMove t) (hu : s.CachesMove u) :
    s.CachesMove (if p then t else u) := by
  split
  · exact ht
  · exact hu

/-- Steps that each move the caches alone do so together. -/
theorem foldl {α : Type} {f : State → α → State} (hf : ∀ (t : State) e, s.CachesMove t → s.CachesMove (f t e))
    (es : List α) : s.CachesMove (es.foldl f s) :=
  List.foldlRecOn es f (refl s) (fun t ht e _ => hf t e ht)

end State.CachesMove

theorem State.setL2_cachesMove (s : State) (m : TMap CacheLine) : s.CachesMove (s.setL2 m) :=
  ⟨_, s.ptn.credit, s.l3c.hot, rfl⟩

theorem State.setL3_cachesMove (s : State) (m : TMap CacheLine) : s.CachesMove (s.setL3 m) :=
  ⟨_, s.ptn.credit, s.l3c.hot, rfl⟩

theorem State.setHot_cachesMove (s : State) (m : TMap HotWin) :
    s.CachesMove { s with l3c := { s.l3c with hot := m } } := ⟨s.lines, s.ptn.credit, m, rfl⟩

theorem State.spend_cachesMove (s : State) (p port n : Nat) : s.CachesMove (s.spend p port n) :=
  ⟨s.lines, _, s.l3c.hot, rfl⟩

theorem State.dram_cachesMove (s : State) (p a n : Nat) : s.CachesMove (s.dram p a n) :=
  (s.setHot_cachesMove _).trans (State.spend_cachesMove ..)

theorem State.setSector_cachesMove (s : State) (key tag i : Nat) (f : Sector → Sector) :
    s.CachesMove (s.setSector key tag i f) := s.setL3_cachesMove _

theorem State.sectorBack_cachesMove (s : State) (slice tag : Nat) (e : Nat × Sector) :
    s.CachesMove (s.sectorBack slice tag e) := by
  unfold State.sectorBack
  split
  · exact s.dram_cachesMove ..
  · exact .refl s

theorem State.l3Drop_cachesMove (s : State) (key : Nat) (evicted : Bool) : s.CachesMove (s.l3Drop key evicted) := by
  unfold State.l3Drop
  split
  · exact .refl s
  · next l _ =>
    have back := State.CachesMove.foldl (s := s)
      (fun t e ht => ht.trans (t.sectorBack_cachesMove (key / 16 / 1024) l.tag e)) l.sectors
    have gone := fun m => back.trans (State.setL3_cachesMove _ m)
    exact .ite (gone _) ((gone _).trans (State.setHot_cachesMove ..))

theorem State.l3Access_cachesMove (s : State) (p : Nat) (w : Option Nat) (a n : Nat) (wr unc : Bool) :
    s.CachesMove (s.l3Access p w a n wr unc) := by
  unfold State.l3Access
  dsimp only
  split
  · exact s.dram_cachesMove ..
  · split
    · exact s.dram_cachesMove ..
    · refine .trans ?_ (State.setL3_cachesMove ..)
      refine .trans ?_ (.ite (State.setSector_cachesMove ..) (.refl _))
      refine .trans ?_ (.ite (State.dram_cachesMove ..) (.refl _))
      refine .trans ?_ (State.setSector_cachesMove ..)
      refine .trans ?_ (.ite (.refl _) ((State.dram_cachesMove ..).trans (State.spend_cachesMove ..)))
      exact .ite (.refl _) (s.l3Drop_cachesMove ..)

theorem State.homeAccess_cachesMove (s : State) (p : Nat) (w : Option Nat) (a n : Nat) (wr unc : Bool) :
    s.CachesMove (s.homeAccess p w a n wr unc) := by
  unfold State.homeAccess
  split
  · exact s.l3Access_cachesMove ..
  · exact .refl s
  · exact s.spend_cachesMove ..

/-- The bytes of a line whose home is not the sibling die stand at their home already (R204, R205). -/
theorem State.l2Back_cachesMove (s : State) (p : Nat) (l : CacheLine) (dramToo : Bool) (h : target (l.tag * 128) ≠ 1) :
    s.CachesMove (s.l2Back p l dramToo) := by
  simp only [State.l2Back, if_neg h]
  exact .ite (.refl s) (.trans (s.homeAccess_cachesMove ..) (.ite (State.dram_cachesMove ..) (.refl _)))

/-- Where no delta is asked for, none is added. -/
theorem State.flushDeltas_none (s : State) {f : Delta → Bool} (h : ∀ d ∈ s.deltas, f d = false) :
    s.flushDeltas f = s := by
  have hf : s.deltas.filter f = [] := List.filter_eq_nil_iff.2 (fun d hd => by simp [h d hd])
  have hk : s.deltas.filter (fun d => !f d) = s.deltas := List.filter_eq_self.2 (fun d hd => by simp [h d hd])
  simp only [State.flushDeltas, hf, List.foldl_nil, hk]

/-- The way that a search finds holds the tag. -/
theorem findWay_tag {m : TMap CacheLine} {base tag w : Nat} {ways : List Nat} {l : CacheLine}
    (hw : findWay m base ways tag = some w) (hl : m.find (base + w) = some l) : l.tag = tag := by
  have := List.find?_some hw
  simpa [hl] using this

theorem target_line (a : Nat) : target (a / 128 * 128) = target a := by
  unfold target
  omega

/-- The other clusters' copies of a line that no delta is held against. -/
theorem State.l2Others_cachesMove (s : State) (p cl : Nat) (w : Option Nat) (a : Nat) (wr : Bool)
    (h : ∀ d ∈ s.deltas, d.pa / 128 ≠ a / 128) : s.CachesMove (s.l2Others p cl w a wr) := by
  unfold State.l2Others
  split
  · exact .refl s
  · next home =>
    apply State.CachesMove.foldl
    intro t c ht
    dsimp only
    split
    · exact ht
    · next way found =>
      split
      · exact ht
      · next l listed =>
        have tag : l.tag = a / 128 := findWay_tag found listed
        have back : target (l.tag * 128) ≠ 1 := by rwa [tag, target_line]
        have none : t.flushDeltas (fun d => d.cluster == c && d.pa / 128 == l.tag) = t :=
          t.flushDeltas_none (fun d hd => by simp [tag, h d (ht.deltas_eq ▸ hd)])
        rw [none, ite_self]
        exact ht.trans ((t.l2Back_cachesMove _ _ _ back).trans (State.setL2_cachesMove ..))

/-- An access of the host to a line that no delta is held against (R470). -/
theorem State.hostServed_cachesMove (s : State) (a n : Nat) (wr : Bool) (h : ∀ d ∈ s.deltas, d.pa / 128 ≠ a / 128) :
    s.CachesMove (s.hostServed a n wr) :=
  (s.l2Others_cachesMove _ _ _ a wr h).trans (State.l3Access_cachesMove ..)

/-- An access through the aperture to such a line (R23, R238). -/
theorem State.apertureServed_cachesMove (s : State) (a n : Nat) (wr : Bool) (h : ∀ d ∈ s.deltas, d.pa / 128 ≠ a / 128) :
    s.CachesMove (s.apertureServed a n wr) := by
  obtain ⟨l, k, w, served⟩ := s.hostServed_cachesMove a n wr h
  exact ⟨l, s.ptn.credit, s.l3c.hot, by simp only [State.apertureServed, served]⟩

end Sys2Proof.Machine
end

section
/-! SUPPORT. What a write to a register or through the aperture does, one rule per register block and per BAR (R10, R11,
R42, R237, R238, R250). -/

namespace Sys2Proof.Machine

open Sys2Proof

/-! ### Fields -/

/-- A write of ones clears those bits and keeps the others (R11). -/
@[simp] theorem bit_w1c {w : Nat} (m : BitVec w) (v : U32) (i : Nat) : bit (w1c m v) i = (bit m i && !bit v i) := by
  by_cases hi : i < w
  · simp [bit, w1c, hi]
  · simp [bit, BitVec.getLsbD_of_ge _ _ (Nat.le_of_not_lt hi)]

/-- A field whose other values are replaced by an allowed one always holds an allowed one. -/
theorem within_bounds {lo hi other : Nat} (v : Nat) (hl : lo ≤ other) (hh : other ≤ hi) :
    lo ≤ within v lo hi other ∧ within v lo hi other ≤ hi := by
  unfold within
  split
  · assumption
  · exact ⟨hl, hh⟩

/-! ### The event registers of the blocks -/

section

variable (s : State) (v : U32)

@[simp] theorem State.writeBar0_ptnEvents : (s.writeBar0 0x10024 v).ptn.events = w1c s.ptn.events v := rfl
@[simp] theorem State.writeBar0_feEvents : (s.writeBar0 0x20048 v).fe.events = w1c s.fe.events v := rfl
@[simp] theorem State.writeBar0_mmuEvents : (s.writeBar0 0x50024 v).mmu.events = w1c s.mmu.events v := rfl
@[simp] theorem State.writeBar0_l3cEvents : (s.writeBar0 0x6000C v).l3c.events = w1c s.l3c.events v := rfl
@[simp] theorem State.writeBar0_splEvents : (s.writeBar0 0x70010 v).spl.events = w1c s.spl.events v := rfl
@[simp] theorem State.writeBar0_cmpEvents : (s.writeBar0 0x80008 v).cmp.events = w1c s.cmp.events v := rfl
@[simp] theorem State.writeBar0_pwrEvents : (s.writeBar0 0x90038 v).pwr.events = w1c s.pwr.events v := rfl
@[simp] theorem State.writeBar0_dspEvents : (s.writeBar0 0xA001C v).dsp.events = w1c s.dsp.events v := rfl
@[simp] theorem State.writeBar0_svcEvents : (s.writeBar0 0xC0028 v).svc.events = w1c s.svc.events v := rfl
@[simp] theorem State.writeBar0_slkEvents : (s.writeBar0 0xD0004 v).slk.events = w1c s.slk.events v := rfl
@[simp] theorem State.writeBar0_mcEvents : (s.writeBar0 0xE0008 v).mc.events = w1c s.mc.events v := rfl

/-- Those of FLT are the leader's (R313). -/
theorem State.writeBar0_fltEvents (h : s.leader = true) :
    (s.writeBar0 0x40004 v).flt.events = w1c s.flt.events v := by
  simp [State.writeBar0, State.writeFlt, h]

theorem State.writeBar0_throttle :
    (s.writeBar0 0x9003C v).pwr.throttle = BitVec.ofNat 8 (within (bitsAt v 0 8) 60 105 95) := rfl
theorem State.writeBar0_alertAt :
    (s.writeBar0 0x9003C v).pwr.alertAt = BitVec.ofNat 8 (within (bitsAt v 8 8) 60 108 100) := rfl
theorem State.writeBar0_hyst :
    (s.writeBar0 0x9003C v).pwr.hyst = BitVec.ofNat 4 (within (bitsAt v 16 4) 1 15 5) := rfl

/-- The throttle, the alert and the hysteresis hold values of their ranges whatever is written (R421). -/
theorem State.writeBar0_thermal_bounds :
    let t := (s.writeBar0 0x9003C v).pwr
    60 ≤ t.throttle.toNat ∧ t.throttle.toNat ≤ 105 ∧ 60 ≤ t.alertAt.toNat ∧ t.alertAt.toNat ≤ 108 ∧
      1 ≤ t.hyst.toNat := by
  obtain ⟨throttleLo, throttleHi⟩ : 60 ≤ within (bitsAt v 0 8) 60 105 95 ∧ within (bitsAt v 0 8) 60 105 95 ≤ 105 :=
    within_bounds _ (by decide) (by decide)
  obtain ⟨alertLo, alertHi⟩ : 60 ≤ within (bitsAt v 8 8) 60 108 100 ∧ within (bitsAt v 8 8) 60 108 100 ≤ 108 :=
    within_bounds _ (by decide) (by decide)
  obtain ⟨hystLo, hystHi⟩ : 1 ≤ within (bitsAt v 16 4) 1 15 5 ∧ within (bitsAt v 16 4) 1 15 5 ≤ 15 :=
    within_bounds _ (by decide) (by decide)
  simp only [State.writeBar0_throttle, State.writeBar0_alertAt, State.writeBar0_hyst, BitVec.toNat_ofNat]
  omega

end

/-! ### The BARs -/

section

variable (s : State) (off : Nat) (v : U32)

/-- A narrower or unaligned write is dropped (R10). -/
theorem exec_registerWrite_dropped (bar size : Nat) (h : size ≠ 4 ∨ off % 4 ≠ 0) :
    exec (.registerWrite bar off size v) s = .next s :=
  if_pos (by simpa using h)

/-- A write to BAR0 of the die. -/
theorem exec_registerWrite_bar0 (h : off % 4 = 0) :
    exec (.registerWrite 0 off 4 v) s = .next (s.hostBar0 off v) :=
  if_neg (by simp [h])

/-- A write to BAR0 outside the PWR and DSP blocks ends Nap first (R416). -/
theorem State.hostBar0_wakes (h9 : off / 0x10000 ≠ 9) (hA : off / 0x10000 ≠ 10) (up : (s.hostWake false).feUp = true) :
    s.hostBar0 off v = (s.hostWake false).writeBar0 off v := by
  simp [State.hostBar0, h9, hA, up]

/-- A write to the PWR and DSP blocks wakes nothing (R416). -/
theorem State.hostBar0_sleeps (h : off / 0x10000 = 9 ∨ off / 0x10000 = 10) (up : s.feUp = true) :
    s.hostBar0 off v = s.writeBar0 off v := by
  simp [State.hostBar0, h, up]

/-- A write through the aperture (R238). -/
theorem exec_registerWrite_aperture (h : off % 4 = 0) :
    exec (.registerWrite 4 off 4 v) s = .next (s.writeAperture off v) :=
  if_neg (by simp [h])

/-- The doorbell page of queue `q` (R250). -/
theorem exec_registerWrite_doorbell (q r : Nat) (hr : r < 0x1000) (h4 : r % 4 = 0) :
    exec (.registerWrite 2 (0x1000 * q + r) 4 v) s = writeDoorbell q r v s := by
  have page : (0x1000 * q + r) / 0x1000 = q := by omega
  have reg : (0x1000 * q + r) % 0x1000 = r := by omega
  have aligned : (0x1000 * q + r) % 4 = 0 := by omega
  have run : exec (.registerWrite 2 (0x1000 * q + r) 4 v) s =
      writeDoorbell ((0x1000 * q + r) / 0x1000) ((0x1000 * q + r) % 0x1000) v s := if_neg (by simp [aligned])
  rw [run, page, reg]

/-- A write to the BAR2 of VF `n` reaches the queue that the VF shows there, or none (R42). -/
theorem exec_registerWrite_vf (n : Nat) (h : off % 4 = 0) :
    exec (.registerWrite (32 + n) off 4 v) s =
      (s.vfQueue n off).elim (.next s) (fun q => writeDoorbell q (off % 0x1000) v s) := by
  have not2 : 32 + n ≠ 2 := by omega
  have not4 : 32 + n ≠ 4 := by omega
  have not32 : ¬ 32 + n < 32 := by omega
  have same : 32 + n - 32 = n := by omega
  have not0 : 32 + n ≠ 0 := by omega
  have whole : ¬ (decide ((4 : Nat) ≠ 4) || decide (off % 4 ≠ 0)) = true := by simp [h]
  show execRegisterWrite .. = _
  simp only [execRegisterWrite, if_neg whole, if_neg not0, if_neg not2, if_neg not4, if_neg not32, same]
  cases s.vfQueue n off with
  | none => rfl
  | some q => rfl

/-- The doorbell page of a queue of the partition that VF `n` reaches (R42). -/
theorem exec_registerWrite_vfDoorbell (n q r : Nat) (hr : r < 0x1000) (h4 : r % 4 = 0) (vf : s.onVf n = true)
    (leader : s.leader = true) (own : q < (s.part n).qCount.toNat) :
    exec (.registerWrite (32 + n) (0x1000 * q + r) 4 v) s = writeDoorbell ((s.part n).qFirst.toNat + q) r v s := by
  have page : (0x1000 * q + r) / 0x1000 = q := by omega
  have reg : (0x1000 * q + r) % 0x1000 = r := by omega
  rw [exec_registerWrite_vf s _ v n (by omega), reg]
  simp [State.vfQueue, page, vf, leader, own]

/-- A VF that gives no access, and a page beyond its partition's queues, ring nothing (R42). -/
theorem exec_registerWrite_vfNone (n q r : Nat) (hr : r < 0x1000) (h4 : r % 4 = 0)
    (shut : s.onVf n = false ∨ s.leader = false ∨ (s.part n).qCount.toNat ≤ q) :
    exec (.registerWrite (32 + n) (0x1000 * q + r) 4 v) s = .next s := by
  have page : (0x1000 * q + r) / 0x1000 = q := by omega
  have none : s.vfQueue n (0x1000 * q + r) = none := by
    rcases shut with h | h | h
    · simp [State.vfQueue, h]
    · simp [State.vfQueue, h]
    · simp [State.vfQueue, page, Nat.not_lt.2 h]
  rw [exec_registerWrite_vf s _ v n (by omega), none, Option.elim_none]

end

/-! ### Bytes through the aperture -/

/-- A base whose window ends within the installed capacity is taken (R238). -/
theorem exec_idApertureWrite_fits (s : State) (v : U32) (up : (s.hostWake false).feUp = true)
    (room : (v.toNat % 256 + 1) * 2 ^ 28 ≤ (s.hostWake false).die.dramMib * 2 ^ 20) :
    exec (.idApertureWrite v) s =
      .next { s.hostWake false with die := { (s.hostWake false).die with aperture := v.truncate 8 } } :=
  congrArg Host.Outcome.next (if_pos (by simpa [up] using room))

/-- One whose window would reach beyond it is refused (R238). -/
theorem exec_idApertureWrite_beyond (s : State) (v : U32) (up : (s.hostWake false).feUp = true)
    (beyond : (s.hostWake false).die.dramMib * 2 ^ 20 < (v.toNat % 256 + 1) * 2 ^ 28) :
    exec (.idApertureWrite v) s = .next (s.hostWake false) :=
  congrArg Host.Outcome.next (if_neg (by simpa [up] using beyond))

/-- A byte of a number's little-endian bytes. -/
theorem toBytes_getD (n v i : Nat) (h : i < n) : (toBytes n v).getD i 0 = BitVec.ofNat 8 (v / 256 ^ i) := by
  induction n generalizing v i with
  | zero => omega
  | succ n ih =>
    cases i with
    | zero => simp [toBytes]
    | succ i =>
      rw [toBytes, List.getD_cons_succ, ih _ _ (by omega), Nat.div_div_eq_div_mul, Nat.pow_succ, Nat.mul_comm]

/-- A write through the aperture that meets no failing line and no delta writes its four bytes of local DRAM, and
beside the caches, whose accounts it passes, changes what a write of bytes changes (R238). -/
theorem State.writeAperture_writes (s : State) (off : Nat) (v : U32) (up : s.memUp = true)
    (room : s.apertureAddr off + 4 ≤ s.capacity) (sound : s.failingPart (s.apertureAddr off) 4 = false)
    (bare : ∀ d ∈ s.deltas, d.pa / 128 ≠ s.apertureAddr off / 128) :
    ∃ t, s.CachesMove t ∧ s.writeAperture off v = t.poke (s.apertureAddr off) (toBytes 4 v.toNat) := by
  have served := s.apertureServed_cachesMove (s.apertureAddr off) 4 true bare
  refine ⟨_, served, ?_⟩
  simp [State.writeAperture, up, Nat.not_lt.2 room, served.failingPart_eq, sound]

/-- A write through the aperture puts its bytes in local DRAM and leaves the contexts and the commands. -/
theorem registerWrite_aperture_bytes (s : State) (off : Nat) (v : U32) (aligned : off % 4 = 0) (up : s.memUp = true)
    (room : s.apertureAddr off + 4 ≤ s.capacity) (sound : s.failingPart (s.apertureAddr off) 4 = false)
    (canon : s.mem.wf = true) (bare : ∀ d ∈ s.deltas, d.pa / 128 ≠ s.apertureAddr off / 128) :
    ∃ t, exec (.registerWrite 4 off 4 v) s = .next t ∧
      (∀ b, t.mem.byte b = if s.apertureAddr off ≤ b ∧ b < s.apertureAddr off + 4 then
        BitVec.ofNat 8 (v.toNat / 256 ^ (b - s.apertureAddr off)) else s.mem.byte b) ∧
      t.ctxs = s.ctxs ∧ t.jobs = s.jobs := by
  obtain ⟨t, served, wrote⟩ := s.writeAperture_writes off v up room sound bare
  refine ⟨t.poke (s.apertureAddr off) (toBytes 4 v.toNat), by rw [exec_registerWrite_aperture s off v aligned, wrote],
    fun b => ?_, served.ctxs_eq, served.jobs_eq⟩
  rw [State.poke_byte _ _ _ _ (by rwa [served.mem_eq]), toBytes_length, served.mem_eq]
  split
  · exact toBytes_getD _ _ _ (by omega)
  · rfl

end Sys2Proof.Machine
end

section
/-! The statement about writes to registers. -/

namespace Sys2Proof.Machine

open Sys2Proof

/-- Settles O60: one rule per BAR, per event register and for the aperture. -/
theorem registerWrites : Obligations.RegisterWrites := by
  unfold Obligations.RegisterWrites
  refine ⟨?dropped, ?bar0, ?asleep, ?events, ?thermal, ?doorbells, ?aperture, ?base⟩
  case dropped => exact fun s bar off size v h => exec_registerWrite_dropped s off v bar size h
  case bar0 =>
    intro s off v aligned h9 hA up
    rw [exec_registerWrite_bar0 s off v aligned, s.hostBar0_wakes off v h9 hA up]
  case asleep =>
    intro s off v aligned h up
    rw [exec_registerWrite_bar0 s off v aligned, s.hostBar0_sleeps off v h up]
  case events =>
    intro s v
    refine ⟨?_, ?_, fun leader i => ?_, ?_⟩
    · simp
    · simp
    · rw [s.writeBar0_fltEvents v leader, bit_w1c]
    · simp
  case thermal => exact fun s v => s.writeBar0_thermal_bounds v
  case doorbells =>
    intro s q v
    refine ⟨exec_registerWrite_doorbell s v q 0 (by decide) (by decide),
      exec_registerWrite_doorbell s v q 4 (by decide) (by decide),
      fun n _ => ⟨fun vf leader own => ⟨?_, ?_⟩, fun shut => ?_⟩⟩
    · exact exec_registerWrite_vfDoorbell s v n q 0 (by decide) (by decide) vf leader own
    · exact exec_registerWrite_vfDoorbell s v n q 4 (by decide) (by decide) vf leader own
    · exact exec_registerWrite_vfNone s v n q 0 (by decide) (by decide) shut
  case aperture =>
    exact fun s off v aligned up room sound canon bare =>
      registerWrite_aperture_bytes s off v aligned up room sound canon bare
  case base =>
    exact fun s v up => ⟨exec_idApertureWrite_fits s v up, exec_idApertureWrite_beyond s v up⟩

end Sys2Proof.Machine
end

section
/-! SUPPORT. What the operations around an apply leave of the pattern: the records, the logs, the kills and losses of
commands, the write-back and the clearing of memories that move, and the return of core slots change nothing of the PTN
block but the credit of the partitions (R46, R48). -/

namespace Sys2Proof.Machine

open Sys2Proof

/-- `t` has the PTN block of `s` but for the credit of the partitions, and the die, the partitions of the contexts, an open
that waits and an entry to a sleep state as `s` has them. -/
structure State.PatternKept (s t : State) : Prop where
  ptn : ∃ k, t.ptn = { s.ptn with credit := k }
  twoDie : t.die.twoDie = s.die.twoDie
  strap : t.die.strap = s.die.strap
  openWaits : t.fe.openWaits = s.fe.openWaits
  entry : t.pwr.entry = s.pwr.entry
  partition : ∀ c, (t.ctx c).partition = (s.ctx c).partition

namespace State.PatternKept

variable {s t u : State}

/-- An operation that leaves the fields named as they are. -/
theorem of_eq (ptn : t.ptn = s.ptn := by rfl) (die : t.die = s.die := by rfl) (fe : t.fe = s.fe := by rfl)
    (entry : t.pwr.entry = s.pwr.entry := by rfl) (ctxs : t.ctxs = s.ctxs := by rfl) : s.PatternKept t :=
  ⟨⟨s.ptn.credit, ptn⟩, by rw [die], by rw [die], by rw [fe], entry, fun c => by unfold State.ctx; rw [ctxs]⟩

theorem refl (s : State) : s.PatternKept s := of_eq

theorem trans (h : s.PatternKept t) (h' : t.PatternKept u) : s.PatternKept u := by
  obtain ⟨k, hk⟩ := h.ptn
  obtain ⟨l, hl⟩ := h'.ptn
  exact ⟨⟨l, by rw [hl, hk]⟩, h'.twoDie.trans h.twoDie, h'.strap.trans h.strap, h'.openWaits.trans h.openWaits,
    h'.entry.trans h.entry, fun c => (h'.partition c).trans (h.partition c)⟩

theorem ite {p : Prop} [Decidable p] (ht : s.PatternKept t) (hu : s.PatternKept u) :
    s.PatternKept (if p then t else u) := by
  split
  · exact ht
  · exact hu

theorem foldl {α : Type} {f : State → α → State} (hf : ∀ (t : State) e, t.PatternKept (f t e)) (es : List α)
    (s : State) : s.PatternKept (es.foldl f s) :=
  List.foldlRecOn es f (refl s) (fun t ht e _ => ht.trans (hf t e))

/-- Steps that carry a result beside the state. -/
theorem foldl_fst {α β : Type} {f : State × β → α → State × β}
    (hf : ∀ (x : State × β) e, x.1.PatternKept (f x e).1) (es : List α) (x : State × β) :
    x.1.PatternKept (es.foldl f x).1 :=
  List.foldlRecOn (motive := fun y => x.1.PatternKept y.1) es f (refl x.1) (fun y hy e _ => hy.trans (hf y e))

theorem parts_eq (h : s.PatternKept t) : t.ptn.parts = s.ptn.parts := by obtain ⟨_, e⟩ := h.ptn; rw [e]
theorem shadows_eq (h : s.PatternKept t) : t.ptn.shadows = s.ptn.shadows := by obtain ⟨_, e⟩ := h.ptn; rw [e]
theorem apply_eq (h : s.PatternKept t) : t.ptn.apply = s.ptn.apply := by obtain ⟨_, e⟩ := h.ptn; rw [e]
theorem activeSeq_eq (h : s.PatternKept t) : t.ptn.activeSeq = s.ptn.activeSeq := by obtain ⟨_, e⟩ := h.ptn; rw [e]
theorem events_eq (h : s.PatternKept t) : t.ptn.events = s.ptn.events := by obtain ⟨_, e⟩ := h.ptn; rw [e]
theorem busy_eq (h : s.PatternKept t) : t.ptn.busy = s.ptn.busy := by obtain ⟨_, e⟩ := h.ptn; rw [e]
theorem step_eq (h : s.PatternKept t) : t.ptn.step = s.ptn.step := by obtain ⟨_, e⟩ := h.ptn; rw [e]
theorem haltReq_eq (h : s.PatternKept t) : t.ptn.haltReq = s.ptn.haltReq := by obtain ⟨_, e⟩ := h.ptn; rw [e]
theorem halted_eq (h : s.PatternKept t) : t.ptn.halted = s.ptn.halted := by obtain ⟨_, e⟩ := h.ptn; rw [e]

theorem dies_eq (h : s.PatternKept t) : t.dies = s.dies := by unfold State.dies; rw [h.twoDie]

end State.PatternKept

/-- What moves the caches alone keeps the pattern. -/
theorem State.CachesMove.patternKept {s t : State} (h : s.CachesMove t) : s.PatternKept t := by
  obtain ⟨l, k, w, rfl⟩ := h
  exact ⟨⟨k, rfl⟩, rfl, rfl, rfl, rfl, fun _ => rfl⟩

section

variable (s : State)

/-! ### Records and logs -/

theorem State.updCtx_patternKept (c : Nat) (f : Ctx → Ctx) (h : ∀ x, (f x).partition = x.partition := by exact fun _ => rfl) :
    s.PatternKept (s.updCtx c f) := by
  refine ⟨⟨s.ptn.credit, rfl⟩, rfl, rfl, rfl, rfl, fun k => ?_⟩
  rw [State.updCtx_ctx]
  split
  · next e => rw [h, e]
  · rfl

theorem State.poke_patternKept (a : Nat) (bs : List U8) : s.PatternKept (s.poke a bs) := .of_eq

theorem State.fltEvent_patternKept (i : Nat) : s.PatternKept (s.fltEvent i) := .of_eq

theorem State.setGrans_patternKept (m : TMap Granule) : s.PatternKept { s with spl := { s.spl with grans := m } } :=
  .of_eq

theorem State.setGated_patternKept (g : U64) : s.PatternKept { s with pwr := { s.pwr with gated := g } } :=
  .of_eq

theorem State.mmuEvent_patternKept (i : Nat) : s.PatternKept (s.mmuEvent i) := .of_eq

theorem State.updQueue_patternKept (q : Nat) (f : Queue → Queue) : s.PatternKept (s.updQueue q f) :=
  .of_eq

theorem State.updSource_patternKept (n : Nat) (f : IcSource → IcSource) : s.PatternKept (s.updSource n f) :=
  .of_eq

theorem State.raise_patternKept (i : Nat) : s.PatternKept (s.raise i) := .of_eq

theorem State.mcUe_patternKept (a : Nat) : s.PatternKept (s.mcUe a) := .of_eq

theorem State.raiseFault_patternKept (p : Nat) : s.PatternKept (s.raiseFault p) :=
  .ite (s.raise_patternKept _) (.refl s)

theorem State.setPq_patternKept (p : Nat) (w : PartFq) : s.PatternKept (s.setPq p w) := .of_eq

theorem State.setLog_patternKept (p : Nat) (w : LogWin) : s.PatternKept (s.setLog p w) := .of_eq

theorem State.updJob_patternKept (j : Nat) (f : Job → Job) : s.PatternKept (s.updJob j f) :=
  .of_eq (by simp) (by simp) (by simp) (by simp) (by simp)

theorem State.partRecord_patternKept (p : Nat) (r : FaultRec) : s.PatternKept (s.partRecord p r) := by
  unfold State.partRecord
  extract_lets w a bad placed counted
  have failed : s.PatternKept counted := .ite (s.mcUe_patternKept _) (.refl s)
  refine failed.trans (.ite ?placed ?dropped)
  case placed =>
    exact (((State.poke_patternKept _ _ _).trans (State.setPq_patternKept _ _ _)).trans
      (State.fltEvent_patternKept _ _)).trans (State.raiseFault_patternKept _ _)
  case dropped => exact (State.setPq_patternKept _ _ _).trans (State.fltEvent_patternKept _ _)

theorem State.dramRecord_patternKept (a : Nat) (byHost : Bool) : s.PatternKept (s.dramRecord a byHost) :=
  (s.mcUe_patternKept a).trans (State.partRecord_patternKept _ _ _)

theorem State.log_patternKept (p type ctx stitch : Nat) (payload : List U8) :
    s.PatternKept (s.log p type ctx stitch payload) := by
  refine .ite (.refl s) (.ite (.ite ?bad (s.setLog_patternKept _ _)) ?entry)
  case bad => exact (s.setLog_patternKept _ _).trans (State.dramRecord_patternKept _ _ _)
  case entry => exact (s.poke_patternKept _ _).trans (State.setLog_patternKept _ _ _)

theorem State.logPattern_patternKept (p : Nat) : s.PatternKept (s.logPattern p) := s.log_patternKept ..

theorem State.logCores_patternKept (p : Nat) : s.PatternKept (s.logCores p) := s.log_patternKept ..

theorem State.everyPart_patternKept (r : FaultRec) : s.PatternKept (s.everyPart r) :=
  .foldl (fun t p => t.partRecord_patternKept p r) _ s

/-! ### Commands killed and lost -/

theorem State.flushDeltas_patternKept (f : Delta → Bool) : s.PatternKept (s.flushDeltas f) :=
  (State.PatternKept.foldl (fun t (d : Delta) => t.poke_patternKept d.pa _) _ s).trans (.of_eq)

theorem State.spoilRange_patternKept (r : Nat × Nat) : s.PatternKept (s.spoilRange r) := .of_eq

theorem State.spoil_patternKept (j : Nat) : s.PatternKept (s.spoil j) := by
  rw [State.spoil_fold]
  exact (State.PatternKept.foldl State.spoilRange_patternKept _ s).trans (.of_eq)

theorem State.dropBlocks_patternKept (j : Nat) : s.PatternKept (s.dropBlocks j) := .of_eq

theorem State.free_patternKept : s.PatternKept s.free.2 := .of_eq

theorem State.killAs_patternKept (j cause : Nat) (held : Bool) (st : JobState) :
    s.PatternKept (s.killAs j cause held st) := by
  unfold State.killAs
  split
  · exact .refl s
  · refine .ite (.refl s) (.trans (.trans ?ended (.ite ?counted (.refl _))) (State.log_patternKept _ _ _ _ _ _))
    case ended =>
      exact (((s.free_patternKept.trans (State.flushDeltas_patternKept _ _)).trans (State.dropBlocks_patternKept _ _)).trans
        (State.spoil_patternKept _ _)).trans (State.updJob_patternKept _ _ _)
    case counted => exact State.updCtx_patternKept _ _ _ (fun _ => rfl)

theorem State.kill_patternKept (j cause : Nat) (st : JobState) : s.PatternKept (s.kill j cause st) :=
  s.killAs_patternKept ..

theorem State.killFirst_patternKept (j cause rank : Nat) (st : JobState) : s.PatternKept (s.killFirst j cause rank st) :=
  (s.kill_patternKept ..).trans (State.updJob_patternKept _ _ _)

theorem State.quiesce_patternKept (parts : Nat → Bool) (cause : Nat) : s.PatternKept (s.quiesce parts cause) :=
  .foldl (fun t _ => t.killFirst_patternKept ..) _ s

theorem State.remove_patternKept (j : Nat) : s.PatternKept (s.remove j) := .of_eq

theorem State.abandon_patternKept (j : Nat) : s.PatternKept (s.abandon j) := by
  unfold State.abandon
  refine .trans (.trans ?_ (State.spoil_patternKept _ _)) (State.remove_patternKept _ _)
  split
  · exact .refl s
  · exact s.flushDeltas_patternKept _

theorem State.killAll_patternKept (c : Nat) : s.PatternKept (s.killAll c) :=
  .foldl (fun t (e : Nat × Job) => t.abandon_patternKept e.1) _ s

theorem State.putEvent_patternKept (a p : Nat) (e : EventObj) (accepted : Bool) :
    s.PatternKept (s.putEvent a p e accepted) := by
  unfold State.putEvent
  extract_lets written active woken
  have wakes : written.PatternKept woken := .ite (written.setGated_patternKept 0) (.refl _)
  exact ((s.poke_patternKept _ _).trans wakes).trans (.ite (woken.raise_patternKept _) (.refl _))

theorem State.failEvent_patternKept (c a : Nat) (status : U8) : s.PatternKept (s.failEvent c a status).1 := by
  unfold State.failEvent
  dsimp only
  split
  · exact .refl s
  · exact .refl s
  · split
    · exact .refl s
    · exact (s.putEvent_patternKept ..).trans (.ite (State.updCtx_patternKept _ _ _) (.refl _))

theorem State.failQueue_patternKept (q : Nat) (status : U8) : s.PatternKept (s.failQueue q status).1 := by
  refine State.PatternKept.foldl_fst (fun x i => ?_) _ (s, [])
  dsimp only
  split
  · exact .refl _
  · split
    · exact .refl _
    · exact State.failEvent_patternKept ..

theorem State.failQueues_patternKept (qs : List Nat) (status : U8) : s.PatternKept (s.failQueues qs status).1 :=
  State.PatternKept.foldl_fst
    (f := fun st q => let r := st.1.failQueue q status; (r.1, st.2 ++ r.2))
    (fun x q => x.1.failQueue_patternKept q status) qs (s, [])

theorem State.merge_patternKept (c n : Nat) : s.PatternKept (s.merge c n) :=
  .ite (.refl s) (s.updCtx_patternKept _ _)

theorem State.ctxRecord_patternKept (c : Nat) (r : FaultRec) : s.PatternKept (s.ctxRecord c r).1 := by
  have dropped : s.PatternKept ((s.updCtx c (fun x => { x with
      overflow := satAdd32 x.overflow 1, fqDroppedSince := x.fqDroppedSince + 1, fqSeq := x.fqSeq + 1 })).fltEvent 2) :=
    (s.updCtx_patternKept _ _).trans (State.fltEvent_patternKept _ _)
  unfold State.ctxRecord
  dsimp only
  split
  · exact dropped
  · split
    · exact dropped
    · exact (((s.poke_patternKept _ _).trans (State.updCtx_patternKept _ _ _)).trans
        (State.fltEvent_patternKept _ _)).trans (State.raiseFault_patternKept _ _)

theorem State.lossWritten_patternKept (c : Nat) (r : FaultRec) : s.PatternKept (s.lossWritten c r) :=
  ((s.ctxRecord_patternKept c r).trans (.ite (State.merge_patternKept _ _ _) (.refl _))).trans
    (State.fltEvent_patternKept _ _)

/-- The part of a loss that follows the context's own change: its queues stop, its commands and deltas go, and the record
is written (R296). -/
theorem State.loseCore_patternKept (c : Nat) (r : FaultRec) : s.PatternKept (s.loseCore c r) := by
  unfold State.loseCore
  extract_lets x cause
  split
  · exact .refl s
  · exact s.merge_patternKept ..
  · exact .ite (s.merge_patternKept ..) ((s.updCtx_patternKept _ _).trans (State.lossWritten_patternKept _ _ _))
  · refine .trans ?_ (State.lossWritten_patternKept _ _ _)
    refine .trans ?_ (.ite (State.mmuEvent_patternKept _ _) (.ite (State.mmuEvent_patternKept _ _) (.refl _)))
    refine .trans ?_ (State.flushDeltas_patternKept _ _)
    refine .trans ?_ (State.merge_patternKept _ _ _)
    refine .trans ?_ (State.failQueues_patternKept _ _ _)
    refine .trans ?_ (State.killAll_patternKept _ _)
    refine .trans ?_ (.foldl (fun t q => t.updQueue_patternKept q _) _ _)
    exact s.updCtx_patternKept _ _

/-! ### Memories that move -/

theorem State.spend_patternKept (p port n : Nat) : s.PatternKept (s.spend p port n) :=
  (s.spend_cachesMove p port n).patternKept

theorem State.putUnit_patternKept (c a size : Nat) (bs : List U8) {k : State → State}
    (h : ∀ t : State, t.PatternKept (k t)) : s.PatternKept (s.putUnit c a size bs k) := by
  unfold State.putUnit
  split
  · exact s.loseCore_patternKept ..
  · exact ((s.poke_patternKept _ _).trans (State.spend_patternKept _ _ _ _)).trans (h _)

theorem State.unitAt_patternKept (c a size : Nat) (packed : Bool) (e : LosingError) {k : State → List U8 → State}
    (h : ∀ (t : State) bs, t.PatternKept (k t bs)) : s.PatternKept (s.unitAt c a size packed e k) := by
  unfold State.unitAt
  dsimp only
  split
  · exact s.loseCore_patternKept ..
  · refine (s.spend_patternKept (s.ctx c).partition 0 (if packed then packedBytes size (s.peek a size) else size)).trans ?_
    cases packed with
    | false => exact h _ _
    | true =>
      simp only [if_true]
      split
      · exact State.loseCore_patternKept ..
      · exact h _ _

theorem State.saveGranule_patternKept (p b g : Nat) : s.PatternKept (s.saveGranule p b g) := by
  unfold State.saveGranule
  refine .ite (.refl s) ?_
  split
  · exact .refl s
  · exact s.putUnit_patternKept _ _ _ _ (fun t => .trans (t.updCtx_patternKept _ _) (State.setGrans_patternKept _ _))

theorem State.saveBlock_patternKept (b : Nat) : s.PatternKept (s.saveBlock b) := by
  unfold State.saveBlock
  split
  · exact .refl s
  · exact .ite (.refl s) (s.putUnit_patternKept _ _ _ _ (fun t => .of_eq))

theorem State.saveParked_patternKept (cores : U64) : s.PatternKept (s.saveParked cores) :=
  .foldl (fun t (e : Nat × Block) => t.saveBlock_patternKept e.1) _ s

theorem State.restoreGranule_patternKept (c i b g : Nat) : s.PatternKept (s.restoreGranule c i b g) := by
  unfold State.restoreGranule
  split
  · exact .refl s
  · exact s.unitAt_patternKept _ _ _ _ _ (fun t bs => .trans (t.poke_patternKept _ bs) (State.setGrans_patternKept _ _))

theorem State.restorePart_patternKept (p : Nat) (lost : List (Nat × Nat)) : s.PatternKept (s.restorePart p lost) := by
  refine .foldl (fun t c => .foldl (fun t e => ?_) _ t) _ s
  dsimp only
  split
  · exact .refl t
  · exact t.restoreGranule_patternKept ..

theorem State.l3Clear_patternKept (f : Nat → CacheLine → Bool) : s.PatternKept (s.l3Clear f) :=
  .foldl (fun t (e : Nat × CacheLine) => (t.l3Drop_cachesMove e.1 false).patternKept) _ s

theorem State.clearWays_patternKept (ways : U16) : s.PatternKept (s.clearWays ways) := s.l3Clear_patternKept _

theorem State.setL1_patternKept (m : TMap CacheLine) : s.PatternKept (s.setL1 m) := .of_eq

theorem State.l1Clear_patternKept (k : Nat) : s.PatternKept (s.l1Clear k) := .ite (.refl s) (.of_eq)

theorem State.l2Back_patternKept (p : Nat) (l : CacheLine) (dramToo : Bool) : s.PatternKept (s.l2Back p l dramToo) := by
  unfold State.l2Back
  extract_lets x a served charged
  have charge : served.PatternKept charged := .ite (served.dram_cachesMove ..).patternKept (.refl _)
  exact .ite (.refl s) (((s.homeAccess_cachesMove ..).patternKept.trans charge).trans
    (.ite (charged.poke_patternKept _ _) (.refl _)))

theorem State.l2Drop_patternKept (p key : Nat) : s.PatternKept (s.l2Drop p key) := by
  unfold State.l2Drop
  split
  · exact .refl s
  · exact ((s.flushDeltas_patternKept _).trans (State.l2Back_patternKept _ _ _ _)).trans (.of_eq)

theorem State.l2Clear_patternKept (f : Nat → CacheLine → Bool) : s.PatternKept (s.l2Clear f) :=
  .foldl (fun t (e : Nat × CacheLine) => t.l2Drop_patternKept _ e.1) _ s

theorem State.clearBanks_patternKept (banks : U8) : s.PatternKept (s.clearBanks banks) := .of_eq

theorem State.rehome_patternKept (result : TMap Part16) : s.PatternKept (s.rehome result) := by
  unfold State.rehome State.reowned
  extract_lets moves gone bare
  exact   ((s.l2Clear_patternKept _).trans (State.setL1_patternKept _ _)).trans (State.l3Clear_patternKept _ _)

theorem State.moveUnits_patternKept (result : TMap Part16) : s.PatternKept (s.moveUnits result) := by
  refine .trans ?_ (State.clearBanks_patternKept _ _)
  refine .trans ?_ (.foldl State.l1Clear_patternKept _ _)
  refine .trans ?_ (State.clearWays_patternKept _ _)
  exact (State.PatternKept.foldl (fun t e => t.saveGranule_patternKept ..) _ s).trans (State.saveParked_patternKept _ _)

theorem State.dropPart_patternKept (p : Nat) : s.PatternKept (s.dropPart p) := .of_eq

/-! ### Slots that rejoin and banks that retire -/

theorem State.checkFloors_patternKept : s.PatternKept s.checkFloors := by
  refine .trans ?floors (.ite (.refl _) ?record)
  case floors => exact ⟨⟨s.ptn.credit, rfl⟩, rfl, rfl, rfl, rfl, fun _ => rfl⟩
  case record =>
    exact ((State.everyPart_patternKept _ _).trans (State.fltEvent_patternKept _ _)).trans (State.raise_patternKept _ _)

theorem State.rewriteCaps_patternKept : s.PatternKept s.rewriteCaps := by
  unfold State.rewriteCaps
  refine .trans ?counted (State.checkFloors_patternKept _)
  exact ⟨⟨s.ptn.credit, rfl⟩, rfl, rfl, rfl, rfl, fun _ => rfl⟩

theorem State.coreLog_patternKept (k : Nat) : s.PatternKept (s.coreLog k) := by
  unfold State.coreLog
  split
  · exact .refl s
  · exact s.logCores_patternKept _

theorem State.rejoin_patternKept (k : Nat) : s.PatternKept (s.rejoin k) := by
  unfold State.rejoin
  split
  · exact .refl s
  · refine .trans (.trans ?_ (State.rewriteCaps_patternKept _)) (.of_eq)
    refine .trans (.trans ?_ (State.partRecord_patternKept _ _ _)) (State.coreLog_patternKept _ _)
    exact .of_eq

theorem State.rejoinPart_patternKept (p : Nat) : s.PatternKept (s.rejoinPart p) :=
  .foldl (fun t (e : Nat × (Nat × Bool)) => t.rejoin_patternKept e.1) _ s

theorem State.retireBanks_patternKept : s.PatternKept s.retireBanks := by
  refine .ite (.refl s) (.trans ?retired (State.rewriteCaps_patternKept _))
  exact .of_eq

end

end Sys2Proof.Machine
end

section
/-! SUPPORT. Which commands a quiesce kills, and which stay as they are (R46, R52). -/

namespace Sys2Proof

variable {α : Type}

theorem TMap.mem_of_find {m : TMap α} {k : Nat} {v : α} (h : m.find k = some v) : (k, v) ∈ m := by
  induction m with
  | nil => simp at h
  | cons e m ih =>
    obtain ⟨j, w⟩ := e
    simp only [TMap.find] at h
    split at h
    · next hj => simp_all
    · exact List.mem_cons_of_mem _ (ih h)

theorem TMap.find_of_mem {m : TMap α} {k : Nat} {v : α} (nd : m.keys.Nodup) (h : (k, v) ∈ m) : m.find k = some v := by
  induction m with
  | nil => simp at h
  | cons e m ih =>
    obtain ⟨j, w⟩ := e
    obtain ⟨fresh, nd'⟩ := List.nodup_cons.1 nd
    rcases List.mem_cons.1 h with eq | h'
    · obtain ⟨rfl, rfl⟩ := Prod.mk.inj eq
      simp [TMap.find]
    · have ne : j ≠ k := fun e => fresh (List.mem_map.2 ⟨(k, v), h', e.symm⟩)
      simp [TMap.find, ne, ih nd' h']

end Sys2Proof

namespace Sys2Proof.Machine

open Sys2Proof

section

variable (s : State)

/-! ### The table of commands -/

@[simp] theorem State.poke_jobs (a : Nat) (bs : List U8) : (s.poke a bs).jobs = s.jobs := rfl
@[simp] theorem State.mcUe_jobs (a : Nat) : (s.mcUe a).jobs = s.jobs := rfl
@[simp] theorem State.dropBlocks_jobs (j : Nat) : (s.dropBlocks j).jobs = s.jobs := rfl
@[simp] theorem State.free_jobs : s.free.2.jobs = s.jobs := rfl

@[simp] theorem State.raiseFault_jobs (p : Nat) : (s.raiseFault p).jobs = s.jobs := by
  simp [State.raiseFault, apply_ite State.jobs]

@[simp] theorem State.partRecord_jobs (p : Nat) (r : FaultRec) : (s.partRecord p r).jobs = s.jobs := by
  simp [State.partRecord, apply_ite State.jobs]

@[simp] theorem State.dramRecord_jobs (a : Nat) (byHost : Bool) : (s.dramRecord a byHost).jobs = s.jobs :=
  State.partRecord_jobs ..

@[simp] theorem State.log_jobs (p type ctx stitch : Nat) (payload : List U8) :
    (s.log p type ctx stitch payload).jobs = s.jobs := by
  simp [State.log, apply_ite State.jobs]

/-- Steps that each leave the table of commands. -/
theorem State.foldl_jobs {β : Type} {f : State → β → State} (hf : ∀ (t : State) e, (f t e).jobs = t.jobs) (es : List β) :
    (es.foldl f s).jobs = s.jobs :=
  List.foldlRecOn (motive := fun t => t.jobs = s.jobs) es f rfl (fun t ht e _ => (hf t e).trans ht)

@[simp] theorem State.flushDeltas_jobs (f : Delta → Bool) : (s.flushDeltas f).jobs = s.jobs :=
  s.foldl_jobs (fun t (d : Delta) => t.poke_jobs d.pa _) (s.deltas.filter f)

@[simp] theorem State.spoil_jobs (j : Nat) : (s.spoil j).jobs = s.jobs := by
  rw [State.spoil_fold]
  exact s.foldl_jobs (f := State.spoilRange) (fun _ _ => rfl) _

/-! ### Kills -/

/-- A kill touches no other command. -/
theorem State.killAs_find_ne {j k : Nat} (cause : Nat) (held : Bool) (st : JobState) (h : k ≠ j) :
    (s.killAs j cause held st).jobs.find k = s.jobs.find k := by
  unfold State.killAs
  split
  · rfl
  · split
    · rfl
    · simp [apply_ite State.jobs, State.updJob_find, h]

theorem State.killFirst_find_ne {j k : Nat} (cause rank : Nat) (st : JobState) (h : k ≠ j) :
    (s.killFirst j cause rank st).jobs.find k = s.jobs.find k := by
  unfold State.killFirst
  rw [State.updJob_find, if_neg h]
  exact s.killAs_find_ne _ _ _ h

/-- A command that a kill names has either committed, and is as it was, or is in the state that the kill gives. -/
theorem State.killAs_find_self {j cause : Nat} {held : Bool} {st : JobState} {w : Job}
    (h : (s.killAs j cause held st).jobs.find j = some w) :
    (s.jobs.find j = some w ∧ w.committed = true) ∨ w.st = st := by
  unfold State.killAs at h
  split at h
  · next none => simp [none] at h
  · next v listed =>
    split at h
    · next committed =>
      left
      have : v = w := by simpa [listed] using h
      exact ⟨h, this ▸ committed⟩
    · right
      simp only [State.log_jobs, apply_ite State.jobs, State.updCtx_jobs, ite_self] at h
      rw [State.updJob_find, if_pos rfl] at h
      obtain ⟨_, _, rfl⟩ := Option.map_eq_some_iff.1 h
      rfl

theorem State.killFirst_find_self {j cause rank : Nat} {st : JobState} {w : Job}
    (h : (s.killFirst j cause rank st).jobs.find j = some w) :
    (s.jobs.find j = some w ∧ w.committed = true) ∨ w.st = st := by
  unfold State.killFirst at h
  rw [State.updJob_find, if_pos rfl] at h
  obtain ⟨v, killed, rfl⟩ := Option.map_eq_some_iff.1 h
  have same : (if v.committed then v else { v with front := rank }).st = v.st := by split <;> rfl
  rw [same]
  rcases s.killAs_find_self killed with ⟨listed, committed⟩ | ended
  · exact .inl (by simp [committed, listed])
  · exact .inr ended

/-- After kills one after another a command that is not killed is as it was, and has committed if a kill named it. -/
theorem State.killFirsts_find {cause rank : Nat} {st : JobState} (es : TMap Job) {j : Nat} {w : Job} :
    ∀ s : State, (es.foldl (fun s e => s.killFirst e.1 cause rank st) s).jobs.find j = some w →
      (s.jobs.find j = some w ∧ (j ∈ es.keys → w.committed = true)) ∨ w.st = st := by
  induction es with
  | nil => intro s h; exact .inl ⟨h, fun m => absurd m List.not_mem_nil⟩
  | cons e es ih =>
    intro s h
    rcases ih _ h with ⟨listed, later⟩ | ended
    · by_cases named : j = e.1
      · subst named
        rcases s.killFirst_find_self listed with ⟨before, committed⟩ | ended
        · exact .inl ⟨before, fun _ => committed⟩
        · exact .inr ended
      · rw [s.killFirst_find_ne _ _ _ named] at listed
        exact .inl ⟨listed, fun m => later ((List.mem_cons.1 m).resolve_left named)⟩
    · exact .inr ended

/-- After a quiesce the commands on engines of its partitions are the non-restartable ones and those that have
committed. -/
theorem State.quiesce_find {parts : Nat → Bool} {cause j : Nat} {w : Job}
    (h : (s.quiesce parts cause).jobs.find j = some w) (runs : w.onEngines = true) (launch : w.launch = none)
    (inPart : s.jobIn parts w = true) : w.nonRestart = true ∨ w.committed = true := by
  rcases State.killFirsts_find _ s h with ⟨listed, committed⟩ | ended
  · by_cases restarts : w.nonRestart = true
    · exact .inl restarts
    · refine .inr (committed (List.mem_map.2 ⟨(j, w), List.mem_filter.2 ⟨TMap.mem_of_find listed, ?_⟩, rfl⟩))
      simp [runs, restarts, launch, inPart]
  · simp [Job.onEngines, ended] at runs

/-- A quiesce leaves a non-restartable command as it is. -/
theorem State.quiesce_find_nonRestart {parts : Nat → Bool} {cause j : Nat} {v : Job} (nd : s.jobs.keys.Nodup)
    (listed : s.jobs.find j = some v) (stays : v.nonRestart = true) :
    (s.quiesce parts cause).jobs.find j = some v := by
  refine List.foldlRecOn (motive := fun t : State => t.jobs.find j = some v) _ _ listed (fun t ht e he => ?_)
  obtain ⟨mem, restarts⟩ := List.mem_filter.1 he
  have other : j ≠ e.1 := by
    rintro rfl
    obtain rfl : v = e.2 := Option.some.inj (listed.symm.trans (TMap.find_of_mem nd mem))
    simp [stays] at restarts
  rw [t.killFirst_find_ne _ _ _ other]
  exact ht

/-- A non-restartable command on engines of a partition holds its quiesce out. -/
theorem State.holdsOut_of_find {parts : Nat → Bool} {j : Nat} {v : Job} (listed : s.jobs.find j = some v)
    (runs : v.onEngines = true) (stays : v.nonRestart = true) (launch : v.launch = none)
    (inPart : s.jobIn parts v = true) : s.holdsOut parts = true :=
  List.any_eq_true.2 ⟨(j, v), TMap.mem_of_find listed, by simp [runs, stays, launch, inPart]⟩

/-- Without commands nothing is killed, and nothing holds out. -/
theorem State.quiesce_idle (parts : Nat → Bool) (cause : Nat) (idle : s.jobs = []) : s.quiesce parts cause = s := by
  simp [State.quiesce, idle]

theorem State.holdsOut_idle (parts : Nat → Bool) (idle : s.jobs = []) : s.holdsOut parts = false := by
  simp [State.holdsOut, idle]

end

end Sys2Proof.Machine
end

section
/-! SUPPORT. What a direct write, a takeup, a halt and a refill do, one rule each (R38, R39, R43, R44, R52). -/

namespace Sys2Proof

variable {α ι : Type}

/-- Entries updated one after another, each once, from their own earlier values. -/
theorem TMap.get_foldl_update (d : α) (key : ι → Nat) (g : ι → α → α) (is : List ι) (nd : (is.map key).Nodup) :
    ∀ m : TMap α,
      (∀ i ∈ is, (is.foldl (fun m i => m.set (key i) (g i (m.get d (key i)))) m).get d (key i) = g i (m.get d (key i))) ∧
      ∀ k, k ∉ is.map key → (is.foldl (fun m i => m.set (key i) (g i (m.get d (key i)))) m).get d k = m.get d k := by
  induction is with
  | nil => exact fun m => ⟨fun _ h => absurd h List.not_mem_nil, fun _ _ => rfl⟩
  | cons j is ih =>
    intro m
    obtain ⟨fresh, nd'⟩ := List.nodup_cons.1 nd
    obtain ⟨updated, kept⟩ := ih nd' (m.set (key j) (g j (m.get d (key j))))
    refine ⟨fun i hi => ?_, fun k hk => ?_⟩
    · rw [List.foldl_cons]
      rcases List.mem_cons.1 hi with rfl | later
      · rw [kept _ fresh, TMap.get_set_self]
      · have ne : key i ≠ key j := fun e => fresh (e ▸ List.mem_map_of_mem later)
        rw [updated i later, TMap.get_set_ne _ _ _ ne]
    · rw [List.map_cons, List.mem_cons, not_or] at hk
      rw [List.foldl_cons, kept k hk.2, TMap.get_set_ne _ _ _ hk.1]

end Sys2Proof

namespace Sys2Proof.Machine

open Sys2Proof

section

variable (s : State)

/-! ### Direct writes -/

/-- The offset of register `r` in the window of partition `p` (R52). -/
theorem ptnWindow_at {p r : Nat} (hp : p < 16) (hr : r < 256) (h4 : r % 4 = 0) :
    ptnWindow (0x10800 + 256 * p + r) = some (p, r) := by
  have within : 0x10800 ≤ 0x10800 + 256 * p + r ∧ 0x10800 + 256 * p + r < 0x10800 + 16 * 0x100 ∧
      (0x10800 + 256 * p + r) % 4 = 0 := by omega
  have part : (0x10800 + 256 * p + r - 0x10800) / 0x100 = p := by omega
  have reg : (0x10800 + 256 * p + r - 0x10800) % 0x100 = r := by omega
  unfold ptnWindow
  rw [if_pos (by simpa [and_assoc] using within), part, reg]

/-- A write to a live field of a window (R39, R43, R44). -/
theorem exec_ptnLiveWrite {p r : Nat} (v : U32) (hp : p < 16) (hr : r < 256) (h4 : r % 4 = 0)
    (up : (s.hostWake false).feUp = true) (live : r ∈ liveOffsets) :
    let u := s.hostWake false
    let off := 0x10800 + 256 * p + r
    exec (.ptnLiveWrite off v) s = .next (
      if u.affectedNow p then u.refuseWrite 0x20 off
      else if r = 0x14 && popcount (u.part p).cores < (v.truncate 8 : U8).toNat then u.refuseWrite 0x21 off
      else { u with ptn := { u.ptn with shadows := u.ptn.shadows.set (shadowKey (u.partKey p) r) v } }) := by
  intro u off
  show execPtnLiveWrite off v s = _
  have known : liveOffsets.contains r = true := by simpa using live
  simp only [execPtnLiveWrite, off, ptnWindow_at hp hr h4, up, known]
  rfl

/-- A write to a static field of a window (R44). -/
theorem exec_ptnStaticWrite {p r : Nat} (v : U32) {new : Part16} (hp : p < 16) (hr : r < 256) (h4 : r % 4 = 0)
    (up : (s.hostWake false).feUp = true) (loads : ((s.hostWake false).part p).loadStatic r v = some new) :
    let u := s.hostWake false
    let off := 0x10800 + 256 * p + r
    let result := u.ptn.parts.set (u.partKey p) new
    exec (.ptnStaticWrite off v) s = .next (
      if u.partRuns p || u.affectedNow p then u.refuseWrite 0x20 off
      else match checkResult u result with
        | some _ => u.refuseWrite 0x21 off
        | none =>
          let t : State := { (u.moveUnits result).rehome result with
            ptn := { ((u.moveUnits result).rehome result).ptn with parts := result } }
          if 0x40 ≤ r && r < 0xC0 then t.dropPart p else t) := by
  intro u off result
  show execPtnStaticWrite off v s = _
  simp only [execPtnStaticWrite, off, ptnWindow_at hp hr h4, up, loads]
  rfl

theorem State.partRuns_iff (p : Nat) :
    s.partRuns p = true ↔ (s.part p).enable = true ∧ bit s.ptn.halted p = false := by simp [State.partRuns]

/-! ### Takeups -/

theorem State.liveTaken_ptn (p n : Nat) :
    (s.liveTaken p n).ptn = { s.ptn with events := setBit s.ptn.events 3 true } := by
  unfold State.liveTaken
  split <;> rfl

theorem State.trimStreams_patternKept (p : Nat) : s.PatternKept (s.trimStreams p) :=
  .foldl (fun t (e : Nat × Job) => t.kill_patternKept e.1 1 .rerun) _ s

/-- The state in which a shadow's value has become the active one and the change is counted (R44). -/
def State.tookUp (s : State) (p off : Nat) (v : U32) : State :=
  State.liveTaken { s with ptn := { s.ptn with
    parts := s.ptn.parts.set (s.partKey p) ((s.part p).loadLive off v),
    shadows := s.ptn.shadows.del (shadowKey (s.partKey p) off) } } p 1

theorem exec_liveShadowTakeup {p off : Nat} {v : U32} (waits : s.ptn.shadows.find (shadowKey (s.partKey p) off) = some v) :
    let logged := (s.tookUp p off v).logPattern p
    let trimmed := if off = 0x20 then logged.trimStreams p else logged
    exec (.liveShadowTakeup p off) s = .next (
      if (s.part p).reserve == ((s.part p).loadLive off v).reserve then trimmed else trimmed.logCores p) := by
  intro logged trimmed
  show execLiveShadowTakeup p off s = _
  simp only [execLiveShadowTakeup, waits]
  rfl

/-- The log entries of a takeup, and the streams that a smaller share ends, leave the pattern (R44, R170, R383). -/
theorem liveShadowTakeup_tookUp {p off : Nat} {v : U32}
    (waits : s.ptn.shadows.find (shadowKey (s.partKey p) off) = some v) :
    ∃ t, exec (.liveShadowTakeup p off) s = .next t ∧ (s.tookUp p off v).PatternKept t :=
  ⟨_, exec_liveShadowTakeup s waits,
    ((State.logPattern_patternKept _ p).trans (.ite (State.trimStreams_patternKept _ p) (.refl _))).trans
      (.ite (.refl _) (State.logCores_patternKept _ p))⟩

/-! ### Halts -/

/-- A write of HALT_REQ quiesces the partitions newly requested (R52). -/
theorem exec_ptnHaltReq (v : U16) (up : (s.hostWake false).feUp = true) :
    let u := s.hostWake false
    exec (.ptnHaltReq v) s = .next (State.quiesce { u with ptn := { u.ptn with
      haltReq := v &&& 0xFFFE, halted := u.ptn.halted &&& (v &&& 0xFFFE) } }
      (fun p => bit (v &&& 0xFFFE &&& ~~~u.ptn.haltReq) p) 5) := by
  intro u
  show execPtnHaltReq v s = _
  simp only [execPtnHaltReq, up]
  rfl

/-- A requested halt that no non-restartable command holds out is reached (R52). -/
theorem exec_partitionHalted {p : Nat} (asked : bit s.ptn.haltReq p = true) (quiet : s.holdsOut (· == p) = false) :
    exec (.partitionHalted p) s = .next { s with ptn := { s.ptn with halted := setBit s.ptn.halted p true } } :=
  congrArg Host.Outcome.next (if_pos (by rw [asked, quiet]; rfl))

/-! ### The refill -/

/-- The regulator ports of R38, the host's and the Seam's in each direction. -/
def refillPorts : List Nat := [0, 1, 2, 3, 6, 7]

/-- The ports that a refill serves, by partition. -/
def State.servedPorts (s : State) : List (Nat × Nat) :=
  s.enabledParts.flatMap (fun p => refillPorts.map (fun port => (p, port)))

theorem mem_refillPorts {port : Nat} (h : port < 8) : port ∈ refillPorts ↔ port ≠ 4 ∧ port ≠ 5 := by
  simp only [refillPorts, List.mem_cons, List.not_mem_nil, or_false]
  omega

theorem refillPorts_lt : ∀ port ∈ refillPorts, port < 8 := by decide

theorem State.mem_enabledParts {p : Nat} : p ∈ s.enabledParts ↔ p < 16 ∧ (s.part p).enable = true := by
  rw [State.enabledParts, List.mem_filter, List.mem_range]

theorem State.mem_servedPorts_iff {x : Nat × Nat} :
    x ∈ s.servedPorts ↔ x.1 ∈ s.enabledParts ∧ x.2 ∈ refillPorts := by
  rw [State.servedPorts, List.mem_flatMap]
  constructor
  · rintro ⟨p, part, mem⟩
    obtain ⟨port, known, rfl⟩ := List.mem_map.1 mem
    exact ⟨part, known⟩
  · exact fun ⟨part, known⟩ => ⟨x.1, part, List.mem_map.2 ⟨x.2, known, rfl⟩⟩

theorem State.mem_servedPorts {p port : Nat} (h : port < 8) :
    (p, port) ∈ s.servedPorts ↔ p < 16 ∧ (s.part p).enable = true ∧ port ≠ 4 ∧ port ≠ 5 := by
  rw [s.mem_servedPorts_iff, s.mem_enabledParts, mem_refillPorts h, and_assoc]

theorem State.servedPorts_lt {x : Nat × Nat} (h : x ∈ s.servedPorts) : x.2 < 8 :=
  refillPorts_lt x.2 (s.mem_servedPorts_iff.1 h).2

theorem State.servedPorts_nodup : s.servedPorts.Nodup := by
  have parts : s.enabledParts.Nodup := List.Nodup.sublist List.filter_sublist List.nodup_range
  have ports : refillPorts.Nodup := by decide
  refine List.pairwise_flatMap.2 ⟨fun p _ => List.pairwise_map.2 (ports.imp ?ports), parts.imp ?parts⟩
  case ports => exact fun ne same => ne (Prod.mk.inj same).2
  case parts =>
    intro p q ne x hx y hy same
    obtain ⟨a, -, rfl⟩ := List.mem_map.1 hx
    obtain ⟨b, -, rfl⟩ := List.mem_map.1 hy
    exact ne (Prod.mk.inj same).1

/-- Each port of each partition has its own entry in the table of credit. -/
theorem State.creditKeys_nodup : (s.servedPorts.map (fun x => 8 * x.1 + x.2)).Nodup := by
  refine List.pairwise_map.2 (s.servedPorts_nodup.imp_of_mem (fun {x y} hx hy ne same => ne ?_))
  have := s.servedPorts_lt hx
  have := s.servedPorts_lt hy
  exact Prod.ext (by omega) (by omega)

/-- The table of credit after a refill interval (R38). -/
def State.refilledCredit (s : State) : TMap Int :=
  s.servedPorts.foldl (fun m x => m.set (8 * x.1 + x.2)
    (refilled s.die.dramMts (s.part x.1) (x.2 % 4) (m.get 0 (8 * x.1 + x.2)))) s.ptn.credit

theorem exec_regulatorRefill (out : s.die.inReset = false) :
    exec .regulatorRefill s = .next { s with ptn := { s.ptn with credit := s.refilledCredit } } := by
  show execRegulatorRefill s = _
  simp only [execRegulatorRefill, out, State.refilledCredit, State.servedPorts, List.foldl_flatMap, List.foldl_map]
  rfl

/-- A served port gains its rate's credit up to its burst, and the others keep theirs (R38). -/
theorem State.refilledCredit_get {p port : Nat} (h : port < 8) :
    s.refilledCredit.get 0 (8 * p + port) =
      if p < 16 ∧ (s.part p).enable = true ∧ port ≠ 4 ∧ port ≠ 5 then
        refilled s.die.dramMts (s.part p) (port % 4) (s.credit p port)
      else s.credit p port := by
  obtain ⟨served, kept⟩ := TMap.get_foldl_update (0 : Int) (fun x : Nat × Nat => 8 * x.1 + x.2)
    (fun x => refilled s.die.dramMts (s.part x.1) (x.2 % 4)) s.servedPorts s.creditKeys_nodup s.ptn.credit
  split
  · next mem => exact served (p, port) ((s.mem_servedPorts h).2 mem)
  · next out =>
    refine kept _ (fun mem => out ((s.mem_servedPorts h).1 ?_))
    obtain ⟨x, hx, e⟩ := List.mem_map.1 mem
    have := s.servedPorts_lt hx
    have same : x = (p, port) := Prod.ext (by dsimp only at *; omega) (by dsimp only at *; omega)
    exact same ▸ hx

end

end Sys2Proof.Machine
end

section
/-! The statement about direct writes, halts and the regulators' refill. -/

namespace Sys2Proof.Machine

open Sys2Proof

/-- Settles O33: the equation of each command, case by case. -/
theorem directWritesHaltsAndRefills : Obligations.DirectWritesHaltsAndRefills := by
  unfold Obligations.DirectWritesHaltsAndRefills
  refine ⟨⟨?writes, ?takeup⟩, ?haltReq, ?halted, ?refill⟩
  case writes =>
    intro s p r v hp hr h4 u off refused up
    refine ⟨fun live => ?live, fun new loads => ?static⟩
    case live =>
      have run := exec_ptnLiveWrite s v hp hr h4 up live
      have low : (v.truncate 8 : U8).toNat = v.toNat % 256 := by simp
      refine ⟨fun affected => ?_, fun free reserve above => ?_, fun free fits => ?_⟩
      · rw [run, if_pos affected]
        rfl
      · rw [run, if_neg (by simpa using free), if_pos (by simpa [low, reserve] using above)]
        rfl
      · rw [run, if_neg (by simpa using free), if_neg]
        · rfl
        · rw [low, Bool.and_eq_true, decide_eq_true_eq, decide_eq_true_eq]
          exact fun ⟨reserve, above⟩ => fits.elim (absurd reserve) (fun h => absurd above (Nat.not_lt.2 h))
    case static =>
      have run := exec_ptnStaticWrite s v hp hr h4 up loads
      refine ⟨fun busy => ?_, fun still free => ⟨fun fails => ?_, fun passes => ?_⟩⟩
      · rw [run, if_pos (by rw [Bool.or_eq_true, State.partRuns_iff]; exact busy)]
        rfl
      all_goals
        have stands : ¬(u.partRuns p || u.affectedNow p) = true := by
          rw [Bool.or_eq_true, State.partRuns_iff, free]
          rcases still with h | h <;> simp [h]
      · obtain ⟨fields, fails⟩ := Option.isSome_iff_exists.1 fails
        rw [run, if_neg stands]
        simp only [u, fails]
        rfl
      · refine ⟨_, by rw [run, if_neg stands], ?_⟩
        simp only [u, passes]
        split <;> rfl
  case takeup =>
    intro s p off v waits
    obtain ⟨t, run, kept⟩ := liveShadowTakeup_tookUp s waits
    refine ⟨t, run, ?_, ?_, ?_⟩
    · rw [kept.parts_eq, State.tookUp, State.liveTaken_ptn]
    · rw [kept.shadows_eq, State.tookUp, State.liveTaken_ptn, TMap.find_del, if_pos rfl]
    · rw [kept.events_eq, State.tookUp, State.liveTaken_ptn, bit_setBit, if_pos (by decide)]
  case haltReq =>
    intro s v u up
    refine ⟨_, exec_ptnHaltReq s v up, ?_, ?_, ?_, fun j w listed runs launch asked _ => ?_⟩
    · rw [(State.quiesce_patternKept _ _ _).haltReq_eq]
    · rw [(State.quiesce_patternKept _ _ _).halted_eq]
    · rw [(State.quiesce_patternKept _ _ _).parts_eq]
    · exact State.quiesce_find _ listed runs launch asked
  case halted => exact fun s p asked quiet => exec_partitionHalted s asked quiet
  case refill => exact fun s out => ⟨_, exec_regulatorRefill s out, fun p port h => s.refilledCredit_get h⟩

end Sys2Proof.Machine
end

section
/-! SUPPORT. The windows that step 5 of an apply loads (R43, R46). -/

namespace Sys2Proof

variable {α : Type}

theorem TMap.mem_set {m : TMap α} {k : Nat} {v : α} {x : Nat × α} (h : x ∈ m.set k v) : x = (k, v) ∨ x ∈ m := by
  induction m with
  | nil => simpa [TMap.set] using h
  | cons e m ih =>
    obtain ⟨j, w⟩ := e
    unfold TMap.set at h
    split at h
    · exact (List.mem_cons.1 h).imp_right (List.mem_cons_of_mem _)
    · split at h
      · exact List.mem_cons.1 h
      · rcases List.mem_cons.1 h with rfl | later
        · exact .inr List.mem_cons_self
        · exact (ih later).imp_right (List.mem_cons_of_mem _)

theorem TMap.mem_of_mem_del {m : TMap α} {k : Nat} {x : Nat × α} (h : x ∈ m.del k) : x ∈ m := by
  induction m with
  | nil => exact h
  | cons e m ih =>
    obtain ⟨j, w⟩ := e
    unfold TMap.del at h
    split at h
    · exact List.mem_cons_of_mem _ (ih h)
    · rcases List.mem_cons.1 h with rfl | later
      · exact List.mem_cons_self
      · exact List.mem_cons_of_mem _ (ih later)

end Sys2Proof

namespace Sys2Proof.Machine

open Sys2Proof

/-- No shadow waits in the windows of the partitions listed. -/
def Ptn.Unshadowed (aff : List Nat) (ptn : Ptn) : Prop := ∀ x ∈ ptn.shadows, x.1 / 256 ∉ aff

theorem liveOffsets_lt : ∀ off ∈ liveOffsets, off < 256 := by decide

/-- A shadow's key names its window. -/
theorem shadowKey_div (k : Nat) {off : Nat} (h : off ∈ liveOffsets) : shadowKey k off / 256 = k := by
  have := liveOffsets_lt off h
  unfold shadowKey
  omega

section

variable {ptn : Ptn} {aff carried : List Nat} {result : TMap Part16} {k : Nat}

theorem Ptn.Unshadowed.find_none (bare : ptn.Unshadowed aff) (h : k ∈ aff) {off : Nat} (live : off ∈ liveOffsets) :
    ptn.shadows.find (shadowKey k off) = none := by
  refine Option.eq_none_iff_forall_ne_some.2 (fun v found => bare _ (TMap.mem_of_find found) ?_)
  rw [shadowKey_div k live]
  exact h

theorem loadResult_cons (ks : List Nat) :
    loadResult ptn (k :: ks) aff carried result =
      loadResult (loadResult ptn [k] aff carried result) ks aff carried result := rfl

/-- An affected window without shadows becomes what the stream gives. -/
theorem loadResult_affected (bare : ptn.Unshadowed aff) (h : k ∈ aff) :
    loadResult ptn [k] aff carried result = { ptn with
      parts := ptn.parts.set k (result.get {} k), shadows := ptn.shadows.filter (fun x => x.1 / 256 != k) } := by
  refine (if_pos (List.contains_iff_mem.2 h)).trans (congrArg (fun w => ({ ptn with
    parts := ptn.parts.set k w, shadows := ptn.shadows.filter (fun x => x.1 / 256 != k) } : Ptn)) ?window)
  exact List.foldlRecOn (motive := fun w => w = result.get {} k) _ _ rfl (fun w same off live => by
    simp only [bare.find_none h live]
    exact same)

/-- Another window keeps its values, and what the stream gives it waits in its own shadows. -/
theorem loadResult_other (h : k ∉ aff) :
    ∃ m, loadResult ptn [k] aff carried result = { ptn with shadows := m } ∧
      ∀ x ∈ m, x ∈ ptn.shadows ∨ x.1 / 256 = k := by
  have other : ¬ aff.contains k = true := by simpa using h
  refine ⟨_, if_neg other, ?_⟩
  refine List.foldlRecOn (motive := fun m : TMap U32 => ∀ x ∈ m, x ∈ ptn.shadows ∨ x.1 / 256 = k) _ _
    (fun x hx => .inl hx) (fun m hm off live x hx => ?_)
  split at hx
  · exact hm x hx
  · split at hx
    · exact hm x (TMap.mem_of_mem_del hx)
    · rcases TMap.mem_set hx with rfl | before
      · exact .inr (shadowKey_div k live)
      · exact hm x before

/-- One window's turn leaves the affected ones without shadows. -/
theorem loadResult_unshadowed (bare : ptn.Unshadowed aff) : (loadResult ptn [k] aff carried result).Unshadowed aff := by
  by_cases h : k ∈ aff
  · rw [loadResult_affected bare h]
    exact fun x hx => bare x (List.mem_filter.1 hx).1
  · obtain ⟨m, same, own⟩ := loadResult_other (ptn := ptn) (carried := carried) (result := result) h
    rw [same]
    exact fun x hx => (own x hx).elim (bare x) (fun e => e ▸ h)

/-- One window's turn changes that window alone, and it where the apply affects it. -/
theorem loadResult_one_get (bare : ptn.Unshadowed aff) {i : Nat} (h : i ∈ aff) :
    (loadResult ptn [k] aff carried result).parts.get {} i = if i = k then result.get {} k else ptn.parts.get {} i := by
  by_cases hk : k ∈ aff
  · rw [loadResult_affected bare hk, TMap.get_set]
  · obtain ⟨m, same, -⟩ := loadResult_other (ptn := ptn) (carried := carried) (result := result) hk
    have ne : i ≠ k := fun e => hk (e ▸ h)
    rw [same, if_neg ne]

/-- After the turn of every window each affected one is what the stream gives (R46 step 5). -/
theorem loadResult_get (ks : List Nat) {i : Nat} (h : i ∈ aff) : ∀ ptn : Ptn, ptn.Unshadowed aff →
    i ∈ ks ∨ ptn.parts.get {} i = result.get {} i →
    (loadResult ptn ks aff carried result).parts.get {} i = result.get {} i := by
  induction ks with
  | nil => exact fun ptn _ loaded => loaded.resolve_left List.not_mem_nil
  | cons k ks ih =>
    intro ptn bare turn
    rw [loadResult_cons]
    refine ih _ (loadResult_unshadowed bare) ?_
    rw [loadResult_one_get bare h]
    split
    · next e => exact .inr (e ▸ rfl)
    · next ne => exact turn.imp_left (fun m => (List.mem_cons.1 m).resolve_left ne)

/-- Loading changes the windows and the shadows alone. -/
theorem loadResult_activeSeq (ks : List Nat) : ∀ ptn : Ptn,
    (loadResult ptn ks aff carried result).activeSeq = ptn.activeSeq := by
  induction ks with
  | nil => exact fun _ => rfl
  | cons k ks ih =>
    intro ptn
    rw [loadResult_cons, ih]
    simp only [loadResult, List.foldl_cons, List.foldl_nil]
    split <;> rfl

end

end Sys2Proof.Machine
end

section
/-! SUPPORT. The steps of an apply: its check, the wait at step 2, the loading of the windows, and its end (R46 to R52). -/

namespace Sys2Proof.Machine

open Sys2Proof

section

variable (s : State)

/-! ### The end of an apply, and what it sets going -/

/-- The end of an apply that no open waits for (R46, R52). -/
theorem State.endApply_alone (result : U8) (off cycles : U32) (alone : s.fe.openWaits = none) :
    s.endApply result off cycles = { s with ptn := { s.ptn with
      busy := false, step := 0, result := result, failOffset := off, applyTime := cycles, apply := none,
      events := setBit s.ptn.events 0 true } } := by
  unfold State.endApply
  extract_lets ptn ended
  have waits : ended.fe.openWaits = none := alone
  rw [waits]
  rfl

theorem State.settleSleep_awake (awake : s.pwr.entry = none) : s.settleSleep = s := by
  unfold State.settleSleep
  rw [awake]

/-- An apply that a non-restartable command holds out waits (R46 step 2). -/
theorem State.settle_heldOut {a : Apply} (runs : s.ptn.apply = some a) (held : s.holdsOut (fun p => bit a.affected p) = true)
    (awake : s.pwr.entry = none) : s.settle = s := by
  simp only [State.settle, runs, held, if_true]
  exact s.settleSleep_awake awake

/-- An apply that nothing holds out goes on. -/
theorem State.settle_goes {a : Apply} (runs : s.ptn.apply = some a)
    (quiet : s.holdsOut (fun p => bit a.affected p) = false) : s.settle = (s.applyFinish a).settleSleep := by
  simp only [State.settle, runs, quiet]
  rfl

/-! ### Steps 3 to 7 -/

/-- Steps none of which moves the state leave it. -/
theorem foldl_unmoved {α : Type} {s : State} {f : State → α → State} {es : List α} (h : ∀ e ∈ es, f s e = s) :
    es.foldl f s = s :=
  List.foldlRecOn (motive := fun t => t = s) es f rfl (fun _ same e mem => same ▸ h e mem)

/-- A partition whose windows are not hot keeps its key (R41). -/
theorem State.rekey_cool (cool : s.l3c.hot = []) (p : Nat) : s.rekey p = s := by
  have still : (s.l3c.hot.get {} p : HotWin) = {} := by rw [cool, TMap.get_nil]
  exact if_pos (by rw [still]; simp)

/-- The state whose windows an apply has loaded, under the stream's sequence number (R46 step 5). -/
def State.loadedBy (s : State) (a : Apply) : State :=
  { s with ptn :=
      loadResult { s.ptn with activeSeq := a.seq } (s.dies.flatMap keysOf) a.keys a.carried a.result }

/-- Steps 3 to 7 of an apply over partitions that are not hot and have no shadows: the memories move, the windows are
loaded, and the rest leaves the pattern (R46). -/
theorem State.applyFinish_loads {a : Apply} (runs : s.ptn.apply = some a) (cool : s.l3c.hot = [])
    (bare : s.ptn.shadows = []) :
    ∃ v w, s.PatternKept v ∧
      (v.loadedBy a).PatternKept w ∧
      s.applyFinish a = w.endApply 0x00 w.ptn.failOffset a.cycles := by
  generalize finish : s.applyFinish a = t
  unfold State.applyFinish at finish
  extract_lets d mine keyed b old result lost moved taken homed block loaded dropped logged rejoined restored retired
    at finish
  have keyed_eq : keyed = s := foldl_unmoved (fun p _ => s.rekey_cool cool p)
  have b_eq : b = a := by simp only [b, keyed_eq, runs, Option.getD_some]
  have moves : s.PatternKept moved := keyed_eq ▸ keyed.moveUnits_patternKept result
  have unshadowed : moved.ptn.shadows = [] := moves.shadows_eq.trans bare
  have taken_eq : taken = moved := by
    apply foldl_unmoved
    intro p _
    exact if_pos (by rw [shadowsLoaded, unshadowed]; rfl)
  have homes : s.PatternKept homed := moves.trans (taken_eq ▸ taken.rehome_patternKept result)
  have loaded_eq : loaded = homed.loadedBy a := by rw [← b_eq]; rfl
  have drops : loaded.PatternKept dropped := .foldl State.dropPart_patternKept mine loaded
  have logs : dropped.PatternKept logged := .foldl (fun t p => .trans (.trans
    (.ite (.refl t) (.foldl (fun u i => u.updSource_patternKept i _) _ t)) (State.logPattern_patternKept _ p))
    (.ite (.refl _) (State.logCores_patternKept _ p))) mine dropped
  have rejoins : logged.PatternKept rejoined := .foldl State.rejoinPart_patternKept mine logged
  have restores : rejoined.PatternKept restored := .foldl (fun t p => t.restorePart_patternKept p lost) mine rejoined
  have retires : restored.PatternKept retired := restored.retireBanks_patternKept
  exact ⟨homed, retired, homes,
    loaded_eq ▸ (((drops.trans logs).trans rejoins).trans restores).trans retires, by rw [← finish, b_eq]⟩

/-! ### GO and VALIDATE_ONLY -/

/-- What keeps an apply from running (R48, R50, R419, R426). -/
theorem State.goDropped_iff (up : s.feUp = true) :
    s.goDropped = true ↔
      s.ptn.busy = true ∨ s.pwr.entry.isSome = true ∨ s.leader = false ∨ s.die.stage ≠ .finished := by
  simp [State.goDropped, up, or_assoc]

theorem State.goDropped_free (up : s.feUp = true) (idle : s.ptn.busy = false) (awake : s.pwr.entry = none)
    (leader : s.leader = true) (stage : s.die.stage = .finished) : s.goDropped = false := by
  rw [Bool.eq_false_iff, ne_eq, s.goDropped_iff up]
  simp [idle, awake, leader, stage]

/-- A GO that may not run is dropped and reported (R48). -/
theorem exec_ptnApplyGo_dropped (cycles : U32) (up : (s.hostWake false).feUp = true)
    (barred : (s.hostWake false).goDropped = true) :
    exec (.ptnApplyGo cycles) s = .next ((s.hostWake false).ptnEvent 1) := by
  show execPtnApplyGo cycles s = _
  simp only [execPtnApplyGo, barred, up, if_true, Bool.not_true, Bool.false_eq_true, if_false]

theorem exec_ptnValidateOnly_dropped (cycles : U32) (up : (s.hostWake false).feUp = true)
    (barred : (s.hostWake false).goDropped = true) :
    exec (.ptnValidateOnly cycles) s = .next ((s.hostWake false).ptnEvent 1) := by
  show execPtnValidateOnly cycles s = _
  simp only [execPtnValidateOnly, barred, up, if_true, Bool.not_true, Bool.false_eq_true, if_false]

theorem exec_ptnApplyGo (cycles : U32) (free : (s.hostWake false).goDropped = false) :
    exec (.ptnApplyGo cycles) s = .next ((s.hostWake false).applyGo cycles) := by
  show execPtnApplyGo cycles s = _
  simp only [execPtnApplyGo, free, Bool.false_eq_true, if_false]

theorem exec_ptnValidateOnly (cycles : U32) (free : (s.hostWake false).goDropped = false) :
    exec (.ptnValidateOnly cycles) s = .next ((s.hostWake false).applyChecked cycles
      (fun s _ _ _ => s.endApply 0x00 s.ptn.failOffset cycles)) := by
  show execPtnValidateOnly cycles s = _
  simp only [execPtnValidateOnly, free, Bool.false_eq_true, if_false]

/-- A stream that fails its checks ends the apply (R36). Step 1 is unfolded as a function of its own, apart from the
stream of `s`, whose check the kernel would evaluate otherwise. -/
theorem State.applyChecked_bad {off : Nat} (cycles : U32) (k : State → TMap Part16 → U32 → List Nat → State)
    (bad : s.checkStream = .bad off) : s.applyChecked cycles k = s.endApply 0x21 (BitVec.ofNat 32 off) cycles := by
  generalize body : State.applyChecked = step1
  delta State.applyChecked at body
  rw [← body]
  dsimp only
  rw [bad]

/-- One that passes them goes on with its result (R36, R46). -/
theorem State.applyChecked_ok {result : TMap Part16} {seq : U32} {carried : List Nat} (cycles : U32)
    (k : State → TMap Part16 → U32 → List Nat → State) (ok : s.checkStream = .ok result seq carried) :
    s.applyChecked cycles k = k s result seq carried := by
  generalize body : State.applyChecked = step1
  delta State.applyChecked at body
  rw [← body]
  dsimp only
  rw [ok]

/-- The apply that a GO of a checked stream starts (R46). -/
def State.startedApply (s : State) (cycles : U32) (result : TMap Part16) (seq : U32) (carried : List Nat) : Apply :=
  { affected := affectedParts (affectedKeys s.dies s.ptn.parts result), result := result, seq := seq, cycles := cycles,
    carried := carried, keys := affectedKeys s.dies s.ptn.parts result }

/-- The state with an apply at step 2. -/
def State.atStep2 (s : State) (a : Apply) : State :=
  { s with ptn := { s.ptn with busy := true, step := 2, apply := some a } }

/-- A GO of a checked stream quiesces the affected partitions and goes on as far as they let it (R46). -/
theorem State.applyGo_ok {result : TMap Part16} {seq : U32} {carried : List Nat} (cycles : U32)
    (ok : s.checkStream = .ok result seq carried) :
    let a := s.startedApply cycles result seq carried
    s.applyGo cycles = ((s.atStep2 a).quiesce (fun p => bit a.affected p) 5).settle := by
  intro a
  unfold State.applyGo
  rw [s.applyChecked_ok cycles _ ok]
  rfl

/-- The partition of an affected window is marked (R50). -/
theorem bit_affectedParts {keys : List Nat} {k : Nat} (h : k ∈ keys) : bit (affectedParts keys) (k % 16) = true := by
  have marked : ∀ (ks : List Nat) (m : U16), k ∈ ks ∨ bit m (k % 16) = true →
      bit (ks.foldl (fun m k => setBit m (k % 16) true) m) (k % 16) = true := by
    intro ks
    induction ks with
    | nil => exact fun m h => h.resolve_left List.not_mem_nil
    | cons j ks ih =>
      intro m h
      refine ih _ ?_
      rw [bit_setBit]
      rcases h with mem | before
      · rcases List.mem_cons.1 mem with rfl | later
        · exact .inr (if_pos ⟨rfl, Nat.mod_lt _ (by decide)⟩)
        · exact .inl later
      · exact .inr (by rw [before, ite_self])
  exact marked keys 0 (.inl h)

/-- A GO that a non-restartable command of an affected partition holds out waits at step 2 (R46). -/
theorem applyGo_waits {result : TMap Part16} {seq : U32} {carried : List Nat} (cycles : U32)
    (ok : s.checkStream = .ok result seq carried) (awake : s.pwr.entry = none) (nd : s.jobs.keys.Nodup) {j k : Nat}
    {v : Job} (listed : s.jobs.find j = some v) (runs : v.onEngines = true) (stays : v.nonRestart = true)
    (launch : v.launch = none) (affected : k ∈ affectedKeys s.dies s.ptn.parts result)
    (inPart : (s.ctx v.ctx).partition = k % 16) :
    (s.atStep2 (s.startedApply cycles result seq carried)).PatternKept (s.applyGo cycles) := by
  have kept := State.quiesce_patternKept (s.atStep2 (s.startedApply cycles result seq carried))
    (fun p => bit (s.startedApply cycles result seq carried).affected p) 5
  rw [s.applyGo_ok cycles ok, State.settle_heldOut _ (kept.apply_eq.trans rfl) ?held (kept.entry.trans awake)]
  · exact kept
  case held =>
    refine State.holdsOut_of_find _ (State.quiesce_find_nonRestart _ nd listed stays) runs stays launch ?_
    have place : _ = (s.ctx v.ctx).partition := kept.partition v.ctx
    rw [State.jobIn, place, inPart]
    exact bit_affectedParts affected

/-- A GO that nothing holds out loads the windows and ends with OK (R46, R52). -/
theorem applyGo_completes {result : TMap Part16} {seq : U32} {carried : List Nat} (cycles : U32)
    (ok : s.checkStream = .ok result seq carried) (awake : s.pwr.entry = none) (alone : s.fe.openWaits = none)
    (idle : s.jobs = []) (bare : s.ptn.shadows = []) (cool : s.l3c.hot = []) :
    ∃ v w, (s.atStep2 (s.startedApply cycles result seq carried)).PatternKept v ∧
      (v.loadedBy (s.startedApply cycles result seq carried)).PatternKept w ∧
      s.applyGo cycles = { w with ptn := { w.ptn with
        busy := false, step := 0, result := 0x00, failOffset := w.ptn.failOffset, applyTime := cycles, apply := none,
        events := setBit w.ptn.events 0 true } } := by
  obtain ⟨v, w, moves, loads, finish⟩ :=
    (s.atStep2 (s.startedApply cycles result seq carried)).applyFinish_loads rfl cool bare
  have waits : w.fe.openWaits = none := loads.openWaits.trans (moves.openWaits.trans alone)
  have entry : w.pwr.entry = none := loads.entry.trans (moves.entry.trans awake)
  have empty : (s.atStep2 (s.startedApply cycles result seq carried)).jobs = [] := idle
  refine ⟨v, w, moves, loads, ?_⟩
  rw [s.applyGo_ok cycles ok, State.quiesce_idle _ _ _ empty, State.settle_goes _ rfl (State.holdsOut_idle _ _ empty),
    finish, w.endApply_alone _ _ _ waits, State.settleSleep_awake]
  · rfl
  · exact entry

end

end Sys2Proof.Machine
end

section
/-! The statement about applies. -/

namespace Sys2Proof.Machine

open Sys2Proof

/-- Settles O32: the checks of a stream, the wait at step 2, and the windows that an apply loads. -/
theorem patternApplies : Obligations.PatternApplies := by
  unfold Obligations.PatternApplies
  refine ⟨⟨?go, ?abandon⟩, ?completes⟩
  case go =>
    intro s cycles u ended up
    refine ⟨fun barred => ?dropped, fun idle awake leader stage alone => ?runs⟩
    case dropped =>
      have barred := (u.goDropped_iff up).2 barred
      exact ⟨exec_ptnApplyGo_dropped s cycles up barred, exec_ptnValidateOnly_dropped s cycles up barred⟩
    case runs =>
      have free : u.goDropped = false := u.goDropped_free up idle awake leader stage
      rw [exec_ptnApplyGo s cycles free, exec_ptnValidateOnly s cycles free]
      refine ⟨fun off bad => ?_, fun result seq carried ok =>
        ⟨?_, fun j v k nd listed runs stays launch affected inPart => ?_⟩⟩
      · have ends : u.endApply 0x21 (BitVec.ofNat 32 off) cycles = ended 0x21 (BitVec.ofNat 32 off) :=
          u.endApply_alone _ _ _ alone
        rw [State.applyGo, u.applyChecked_bad cycles _ bad, u.applyChecked_bad cycles _ bad, ends]
        exact ⟨rfl, rfl⟩
      · rw [u.applyChecked_ok cycles _ ok, u.endApply_alone _ _ _ alone]
      · have kept := applyGo_waits u cycles ok awake nd listed runs stays launch affected inPart
        exact ⟨_, _, rfl, kept.busy_eq, kept.step_eq, kept.apply_eq, rfl, kept.parts_eq⟩
  case abandon =>
    intro s cycles runs alone awake
    show execApplyAbandon cycles s = _
    rw [execApplyAbandon, if_pos runs, s.endApply_alone _ _ _ alone, State.settleSleep_awake]
    exact awake
  case completes =>
    intro s cycles result seq carried u up idle awake leader stage alone ok jobs bare cool
    have free : u.goDropped = false := u.goDropped_free up idle awake leader stage
    obtain ⟨v, w, moves, loads, finish⟩ := applyGo_completes u cycles ok awake alone jobs bare cool
    refine ⟨_, exec_ptnApplyGo s cycles free, ?_⟩
    rw [finish]
    refine ⟨rfl, rfl, rfl, ?seq, rfl, ?event, fun k affected => ?window⟩
    case seq => exact loads.activeSeq_eq.trans (loadResult_activeSeq _ _)
    case event => exact (bit_setBit ..).trans (if_pos (by decide))
    case window =>
      have listed : k ∈ v.dies.flatMap keysOf := moves.dies_eq ▸ (List.mem_filter.1 affected).1
      have unshadowed : Ptn.Unshadowed (affectedKeys u.dies u.ptn.parts result) { v.ptn with activeSeq := seq } := by
        have none : v.ptn.shadows = [] := moves.shadows_eq.trans bare
        intro x hx
        simp [none] at hx
      exact (congrArg (fun m => TMap.get {} m k) loads.parts_eq).trans
        (loadResult_get _ affected _ unshadowed (.inl listed))

end Sys2Proof.Machine
end

section
/-! SUPPORT. What a matrix instruction comes to: the trap of a divided executing set or of an engine that the block did
not declare, and what every live thread's issue of one runs (R73, R97, R108). -/

namespace Sys2Proof.Machine

open Sys2Proof

@[simp] theorem State.onGroup_blocks (s : State) (x : Group) : (s.onGroup x).blocks = s.blocks := by
  unfold State.onGroup State.on State.tileOf State.setTile
  split <;> simp

/-- A register field below 64 that is a multiple of 4 may name a descriptor (R108). -/
theorem xReg_of_aligned {r : U8} (low : r.toNat < 64) (aligned : r.toNat % 4 = 0) : xReg r = true := by
  simp [xReg, low, aligned]

section

variable {s : State} {g : Nat} {x : Group} {b : Block} {f : XForm} {uses pairs sweeps : Bool}
  {k : State → Group → Block → State}

/-- An executing set that leaves a live thread out traps (R73). -/
theorem State.runX_divided (issues : Issues s g x f.pneg f.pred) (divided : x.executing f.pneg f.pred ≠ x.live) :
    s.runX g f uses pairs sweeps k = s.trapAt x (.divergence true) (lowest (x.executing f.pneg f.pred)) := by
  obtain ⟨may, executes⟩ := issues
  simp only [State.runX, may, if_neg executes, if_pos divided]

/-- An engine beyond those that the block declared is an undefined encoding (R81, R97). -/
theorem State.runX_undeclared (issues : Issues s g x f.pneg f.pred) (whole : x.executing f.pneg f.pred = x.live)
    (block : s.blocks.find x.block = some b) (few : b.engines < (if f.engine then 2 else 1)) :
    s.runX g f uses pairs sweeps k = s.trap x 1 (lowest (x.executing f.pneg f.pred)) := by
  obtain ⟨may, executes⟩ := issues
  have beyond : decide ((if f.engine then 2 else 1) ≤ b.engines) = false := decide_eq_false (Nat.not_le.2 few)
  simp only [State.runX, may, block, if_neg executes, if_neg (fun divided : _ ≠ _ => divided whole), beyond,
    Bool.and_false, Bool.false_and]
  rfl

/-- On one declared engine, with register fields and flags that are defined, the instruction does what it does. -/
theorem State.runX_single (issues : Issues s g x f.pneg f.pred) (whole : x.executing f.pneg f.pred = x.live)
    (block : s.blocks.find x.block = some b) (declared : (if f.engine then 2 else 1) ≤ b.engines)
    (flags : f.flags.toNat < 64) (single : xPair f = false) (named : uses = true)
    (swept : xSweep f = true → sweeps = true) :
    s.runX g f uses pairs sweeps k = k (s.onGroup x) x b := by
  refine State.runX_ok issues whole block ?_
  cases sweep : xSweep f
  · simp [named, declared, flags, single]
  · simp [named, declared, flags, single, swept sweep]

/-- Every matrix instruction issues in the one way. -/
theorem exec_matrix_runX {i : Instr}
    (listed : i ∈ [Instr.mloadA g f, .mloadB g f, .manchor g f, .mma g f, .mstore g f, .madd g f]) :
    ∃ uses pairs sweeps k, exec i s = .next (s.runX g f uses pairs sweeps k) := by
  simp only [List.mem_cons, List.not_mem_nil, or_false] at listed
  rcases listed with rfl | rfl | rfl | rfl | rfl | rfl
  · exact ⟨_, _, _, _, congrArg Host.Outcome.next (State.mload.eq_1 ..)⟩
  · exact ⟨_, _, _, _, congrArg Host.Outcome.next (State.mload.eq_1 ..)⟩
  all_goals exact ⟨_, _, _, _, rfl⟩

/-- The Bolts of a bank that all agree with their shadows let the instruction go on (R130). -/
theorem State.boltCheck_agrees {e : Nat} {k : MxBank} (go : State → State)
    (agree : k.bolts.all (fun q => q.2.agrees) = true) : s.boltCheck x e k go = go s := if_pos agree

/-- One that does not is a failed residue check of its engine (R131). -/
theorem State.boltCheck_disagrees {e : Nat} {k : MxBank} (go : State → State) (block : s.blocks.find x.block = some b)
    (differ : k.bolts.all (fun q => q.2.agrees) = false) :
    s.boltCheck x e k go = s.residueFailed b.core e true x.job := by
  simp only [State.boltCheck, differ, block]
  rfl

end

end Sys2Proof.Machine
end

section
/-! SUPPORT. The products that MMA adds to each Bolt of a bank, and the operands that fit it (R97, R98, R113). -/

namespace Sys2Proof.Machine

open Sys2Proof

section

variable (k : MxBank) (f : Fmt) (faithful : Bool) (la lb : List (List FVal))

/-- What the products of row `i` and column `j` make of a Bolt (R98, R117). -/
def MxBank.product (i j : Nat) (v : Bolt) : Bolt :=
  v.dot (anchorOf ((k.rows[i]?).getD none) ((k.cols[j]?).getD none)) f faithful (la.getD i []) (lb.getD j [])

/-- One Bolt of a bank takes its products; one that they leave as it was is not written. -/
def MxBank.addProduct (m : TMap Bolt) (p : Nat × Nat) : TMap Bolt :=
  let v : Bolt := m.get {} (32 * p.1 + p.2)
  let w := k.product f faithful la lb p.1 p.2 v
  if w = v then m else m.set (32 * p.1 + p.2) w

/-- The places of a bank's Bolts, row by row. -/
def boltPlaces : List (Nat × Nat) := (List.range 32).flatMap (fun i => (List.range 32).map (fun j => (i, j)))

theorem mem_boltPlaces {i j : Nat} : (i, j) ∈ boltPlaces ↔ i < 32 ∧ j < 32 := by
  simp [boltPlaces]

theorem boltPlaces_nodup : boltPlaces.Nodup := by
  refine List.pairwise_flatMap.2 ⟨fun i _ => ?sameRow, List.nodup_range.imp fun {i i'} rows => ?twoRows⟩
  case sameRow => exact List.pairwise_map.2 (List.nodup_range.imp fun cols same => cols (Prod.ext_iff.1 same).2)
  case twoRows =>
    rintro p inRow _ inOther rfl
    obtain ⟨_, _, first⟩ := List.mem_map.1 inRow
    obtain ⟨_, _, second⟩ := List.mem_map.1 inOther
    exact rows ((Prod.ext_iff.1 first).1.trans (Prod.ext_iff.1 second).1.symm)

/-- The products of two halves enter one Bolt after another. -/
theorem MxBank.addProducts_eq_foldl :
    k.addProducts f faithful la lb = boltPlaces.foldl (k.addProduct f faithful la lb) k.bolts := by
  simp only [boltPlaces, List.foldl_flatMap, List.foldl_map]
  rfl

theorem MxBank.addProduct_get_self (m : TMap Bolt) (i j : Nat) :
    (k.addProduct f faithful la lb m (i, j)).get {} (32 * i + j) =
      k.product f faithful la lb i j (m.get {} (32 * i + j)) := by
  unfold MxBank.addProduct
  dsimp only
  split
  · next same => exact same.symm
  · exact TMap.get_set_self ..

theorem MxBank.addProduct_get_ne (m : TMap Bolt) {p : Nat × Nat} {n : Nat} (other : n ≠ 32 * p.1 + p.2) :
    (k.addProduct f faithful la lb m p).get {} n = m.get {} n := by
  unfold MxBank.addProduct
  dsimp only
  split
  · rfl
  · exact TMap.get_set_ne _ _ _ other

/-- Over distinct places, the Bolt of each takes its products once and every other stays as it was. -/
theorem MxBank.foldl_addProduct_get {i j : Nat} (col : j < 32) : ∀ (ps : List (Nat × Nat)) (m : TMap Bolt),
    ps.Nodup → (∀ p ∈ ps, p.2 < 32) →
    (ps.foldl (k.addProduct f faithful la lb) m).get {} (32 * i + j) =
      if (i, j) ∈ ps then k.product f faithful la lb i j (m.get {} (32 * i + j)) else m.get {} (32 * i + j)
  | [], _, _, _ => rfl
  | p :: ps, m, distinct, cols => by
    obtain ⟨fresh, distinct⟩ := List.nodup_cons.1 distinct
    have ih := foldl_addProduct_get (i := i) col ps (k.addProduct f faithful la lb m p) distinct
      (fun q hq => cols q (List.mem_cons_of_mem _ hq))
    rw [List.foldl_cons, ih]
    by_cases here : p = (i, j)
    · subst here
      rw [if_neg fresh, if_pos List.mem_cons_self, MxBank.addProduct_get_self]
    · have bound := cols p List.mem_cons_self
      have other : 32 * i + j ≠ 32 * p.1 + p.2 := fun same => here (Prod.ext (by omega) (by omega))
      rw [MxBank.addProduct_get_ne _ _ _ _ _ _ other]
      simp only [List.mem_cons, Ne.symm here, false_or]

/-- Each Bolt of a bank takes the products of its row and its column (R98, R113). -/
theorem MxBank.addProducts_get {i j : Nat} (row : i < 32) (col : j < 32) :
    (k.addProducts f faithful la lb).get {} (32 * i + j) =
      k.product f faithful la lb i j (k.bolts.get {} (32 * i + j)) := by
  rw [MxBank.addProducts_eq_foldl, MxBank.foldl_addProduct_get k f faithful la lb col boltPlaces k.bolts boltPlaces_nodup
    (fun _ listed => (mem_boltPlaces.1 listed).2), if_pos (mem_boltPlaces.2 ⟨row, col⟩)]

end

/-- A half that is loaded in the instruction's format, or not at all, does not clash with it. -/
theorem half_format_matches {h : Option MxHalf} {c : BitVec 5} (same : ∀ a, h = some a → a.fmt = c.toNat) :
    h.any (fun a => a.fmt != c.toNat) = false := by
  cases h with
  | none => rfl
  | some a => simpa using same a rfl

/-- Two halves with one KC, or fewer than two halves, do not clash. -/
theorem half_depths_match {h h' : Option MxHalf} (same : ∀ a b, h = some a → h' = some b → a.kc = b.kc) :
    h.any (fun a => h'.any (fun b => a.kc != b.kc)) = false := by
  cases h with
  | none => rfl
  | some a =>
    cases h' with
    | none => rfl
    | some b => simpa using same a b rfl rfl

end Sys2Proof.Machine
end

section
/-! The statement about MLOAD, MANCHOR, MSTORE and MADD. -/

namespace Sys2Proof.Machine

open Sys2Proof

/-- Settles O18: each of the four goes on through its checks to its effect; the traps and the failed residue check come
before any of them. -/
theorem matrixLoadsStoresAndAdds : Obligations.MatrixLoadsStoresAndAdds := by
  unfold Obligations.MatrixLoadsStoresAndAdds
  refine ⟨fun s s1 s2 g x b f issues whole block declared flags => ⟨?mload, ?manchor⟩,
    fun s s1 s2 s3 g x b f issues block => ⟨?bank, ?divided, ?undeclared⟩⟩
  case mload =>
    intro isB d t u fmt l m rs pair noSweep low aligned desc td fits small ranges ls h put v
    have body : exec (if isB then .mloadB g f else .mloadA g f) s = .next (s.mload g f isB) := by cases isB <;> rfl
    have named : xReg u = true := xReg_of_aligned low aligned
    rw [body, State.mload, State.runX_ok issues whole block ?defined]
    case defined =>
      cases hp : xPair f
      · simpa [u, declared, flags, noSweep] using named
      · obtain ⟨rfl, first, both⟩ := pair hp
        simpa [u, flags, noSweep, first, both] using named
    dsimp only [u, fmt] at desc fits ⊢
    simp only [desc]
    refine congrArg _ ((td _ _).trans ?_)
    simp only [fits, if_neg (Nat.not_lt.2 small)]
    exact ranges _ _
  case manchor =>
    intro s3 s4 da db ta tb ua ub single lowA alignedA lowB alignedB descA descB tdA tdB fitsA fitsB termsA termsB
    have named : (xReg f.a && xReg f.b) = true := by
      rw [xReg_of_aligned lowA alignedA, xReg_of_aligned lowB alignedB]; rfl
    show Host.Outcome.next (State.runX ..) = _
    rw [State.runX_single issues whole block declared flags single named (fun _ => rfl)]
    simp only [descA, descB]
    refine congrArg _ ((tdA _ _).trans ((tdB _ _).trans ?_))
    simp only [fitsA, fitsB]
    exact (termsA _).trans (termsB _)
  case bank =>
    intro whole declared flags single noSweep low aligned k va e t bank desc i0 j0 r n w
    have named : xReg f.out = true := xReg_of_aligned low aligned
    have runs : ∀ {k : State → Group → Block → State},
        s.runX g f (xReg f.out) false false k = k (s.onGroup x) x b := fun {_} =>
      State.runX_single issues whole block declared flags single named (by simp [noSweep])
    have mstore : exec (.mstore g f) s = .next (s.runX g f (xReg f.out) false false _) := rfl
    have madd : exec (.madd g f) s = .next (s.runX g f (xReg f.out) false false _) := rfl
    rw [runs] at mstore madd
    simp only [bank, desc] at mstore madd
    refine ⟨fun differ i listed => ?_, fun agree epilogue ranges summary => ?_, fun m agree epilogue ranges adds => ?_⟩
    · simp only [List.mem_cons, List.not_mem_nil, or_false] at listed
      rcases listed with rfl | rfl
      · rw [mstore, State.boltCheck_disagrees _ (by simpa using block) differ]
      · rw [madd, State.boltCheck_disagrees _ (by simpa using block) differ]
    · rw [mstore, State.boltCheck_agrees _ agree]
      exact congrArg _ ((epilogue _ _).trans ((ranges _ _).trans (summary _)))
    · rw [madd, State.boltCheck_agrees _ agree]
      refine congrArg _ ((epilogue _ _).trans ((ranges _ _).trans ?_))
      dsimp only [Group.outTile]
      rw [adds]
  case divided =>
    intro divided i listed
    obtain ⟨_, _, _, _, runs⟩ := exec_matrix_runX (s := s) listed
    rw [runs, State.runX_divided issues divided]
  case undeclared =>
    intro whole few i listed
    obtain ⟨_, _, _, _, runs⟩ := exec_matrix_runX (s := s) listed
    rw [runs, State.runX_undeclared issues whole block few]

end Sys2Proof.Machine
end

section
/-! The statement about MMA. -/

namespace Sys2Proof.Machine

open Sys2Proof

/-- Settles O19: with operands that fit the instruction and anchors that are not stale, the loop over the bank's Bolts
gives each the products of its row and column. -/
theorem mmaAddsDotProducts : Obligations.MmaAddsDotProducts := by
  unfold Obligations.MmaAddsDotProducts
  intro s g x b f fa fb k issues whole block declared flags single noSweep codeA codeB allowed y ha hb la lb bank formatA
    formatB depths freshA freshB
  refine ⟨k.addProducts fa (b.faithful f.engine) la lb, ?_, fun i j row col => k.addProducts_get _ _ _ _ row col⟩
  have runs : exec (.mma g f) s = .next (s.runX g f true false false _) := rfl
  rw [State.runX_single issues whole block declared flags single rfl (by simp [noSweep])] at runs
  dsimp only [la, lb, ha, hb, y] at bank formatA formatB depths freshA freshB ⊢
  simp only [codeA, codeB, allowed, bank, half_format_matches formatA, half_format_matches formatB,
    half_depths_match depths, freshA, freshB] at runs
  exact runs

end Sys2Proof.Machine
end

section
/-! SUPPORT. What the floating-point, conversion and twin-thread instructions write in each executing lane (R78, R95,
R151). -/

namespace Sys2Proof.Machine

open Sys2Proof

/-- One register, two, a 64-bit pair and a twin-thread pair, as words from DST up. -/
theorem Group.setReg_words (g : Group) (d t : Nat) (v : U32) : g.setReg d t v = g.setWords d t [v] := rfl

theorem Group.setReg_setReg_words (g : Group) (d t : Nat) (v w : U32) :
    (g.setReg d t v).setReg (d + 1) t w = g.setWords d t [v, w] := rfl

theorem Group.setPair_words (g : Group) (d t : Nat) (v : U64) : g.setPair d t v = g.setWords d t (pairWords v) := rfl

theorem Group.setTwin_words (g : Group) (d t : Nat) (v : FVal) : g.setTwin d t v = g.setWords d t (twinWords v) := rfl

/-- The words of a thread's anchored slot of 64 or 128 bits, its exact value rounded once (R147). -/
def acvtWords (f : VForm) (x : Group) (t : Nat) : List U32 :=
  let lo := (x.pair f.sa.toNat t).toNat
  let v := if f.sub = 0 then slotVal 64 lo (signedOf 16 (x.ureg f.sb.toNat).toNat)
    else slotVal 128 (lo + 2 ^ 64 * (x.pair (f.sa.toNat + 2) t).toNat) (signedOf 16 (x.ureg f.sb.toNat).toNat)
  let c := (typeFmt f.ty).encode ((Rnd.ofField f.rnd.toNat).getD .rne) false v
  if f.ty = 0 then [BitVec.ofNat 32 c] else pairWords (BitVec.ofNat 64 c)

/-- The words of a thread's conversion: an FP64 or twin result as a pair, any other in one register (R82, R94, R95). -/
def cvtWords (f : VForm) (a b : Fmt) (x : Group) (t : Nat) : List U32 :=
  let r := (Rnd.ofField f.rnd.toNat).getD .rne
  let v := cvtSource a f x t
  if b = .tw32 then
    let p := cvtTwin (if a = .tw32 then .rne else r) (bit f.sub 5) v
    let q := if f.sat then twinSat p else p
    [BitVec.ofNat 32 q.1, BitVec.ofNat 32 q.2]
  else
    let c := b.encode r (bit f.sub 5) v
    let c := if f.sat then b.sat01 c else c
    if b = .fp64 then pairWords (BitVec.ofNat 64 c) else [widen b c]

theorem cvtWords_narrow {f : VForm} {a b : Fmt} {x : Group} {t : Nat} (narrow : b.isPair = false) :
    cvtWords f a b x t =
      (let c := b.encode ((Rnd.ofField f.rnd.toNat).getD .rne) (bit f.sub 5) (cvtSource a f x t)
       [widen b (if f.sat then b.sat01 c else c)]) := by
  have notTwin : b ≠ .tw32 := by rintro rfl; cases narrow
  have notDouble : b ≠ .fp64 := by rintro rfl; cases narrow
  simp only [cvtWords, if_neg notTwin, if_neg notDouble]

section

variable {s : State} {g : Nat} {x : Group} {f : VForm}

/-- A floating-point instruction writes the words of its operation. -/
theorem runV_fpWords {ok : Group → Bool} {op : Fmt → Rnd → FVal → FVal → FVal → Nat}
    (issues : Issues s g x f.pneg f.pred) (sel : f.sel ≠ 3) (defined : ok x = true) :
    ∃ y, Host.Outcome.next (φ := Fault) (ρ := Refusal) (s.runV g f ok (fpEach f op)) = .next (s.setGroup g y) ∧
      Lanes x y (vWords f) f.dst.toNat (x.executing f.pneg f.pred) (fpWords f op x) :=
  runV_lanes issues sel defined (fpEach_words f op x)

/-- At level 2 a twin-thread instruction writes the pair of its result (R151). -/
theorem runTwin_lanes {ok : Group → Bool} {k : Group → Nat → FVal} (issues : Issues s g x f.pneg f.pred)
    (sel : f.sel ≠ 3) (level : s.levelOf x = 2) (defined : ok x = true) :
    ∃ y, Host.Outcome.next (φ := Fault) (ρ := Refusal) (s.runTwin g f ok k) = .next (s.setGroup g y) ∧
      Lanes x y (vWords f) f.dst.toNat (x.executing f.pneg f.pred) (fun t => twinWords (k x t)) :=
  runV_lanes issues sel (by simp [level, defined]) (fun _ => by simp only [Group.setTwin_words])

/-- A conversion between two formats writes the words of its target (R94, R95). -/
theorem exec_cvt_lanes {op : OpField} {a b : Fmt} (issues : Issues s g x f.pneg f.pred) (sel : f.sel ≠ 3)
    (src : Fmt.ofCode op.toNat = some a) (dst : Fmt.ofCode (f.sub.toNat % 32) = some b)
    (defined : okCvt op f a b x = true) :
    ∃ y, exec (.cvt g op f) s = .next (s.setGroup g y) ∧
      Lanes x y (vWords f) f.dst.toNat (x.executing f.pneg f.pred) (cvtWords f a b x) := by
  refine runV_lanes issues sel (by simpa only [src, dst] using defined) (fun e => congrArg (x.each e) ?_)
  funext h t
  simp only [src, dst, Option.getD_some, cvtWords]
  by_cases twin : b = .tw32
  · simp only [if_pos twin, Group.setReg_setReg_words]
  · by_cases double : b = .fp64
    · simp only [if_neg twin, if_pos double, Group.setPair_words]
    · simp only [if_neg twin, if_neg double, Group.setReg_words]

/-- ACVT writes its slot's value, rounded once, in one register or in a pair (R147). -/
theorem exec_acvt_lanes (issues : Issues s g x f.pneg f.pred) (sel : f.sel ≠ 3) (defined : okAcvt f x = true) :
    ∃ y, exec (.acvt g f) s = .next (s.setGroup g y) ∧
      Lanes x y (vWords f) f.dst.toNat (x.executing f.pneg f.pred) (acvtWords f x) := by
  refine runV_lanes issues sel defined (fun e => congrArg (x.each e) ?_)
  funext h t
  unfold acvtWords
  by_cases short : f.sub = 0 <;> by_cases single : f.ty = 0
  · simp only [if_pos short, if_pos single, Group.setReg_words]
  · simp only [if_pos short, if_neg single, Group.setPair_words]
  · simp only [if_neg short, if_pos single, Group.setReg_words]
  · simp only [if_neg short, if_neg single, Group.setPair_words]

end

end Sys2Proof.Machine
end

section
/-! The statement about approximate functions and conversions. -/

namespace Sys2Proof.Machine

open Sys2Proof

/-- Settles O9: each instruction writes, lane by lane, the words of its operation; a conversion's depend on the format it
goes to. -/
theorem approximateAndConversionLanes : Obligations.ApproximateAndConversionLanes := by
  unfold Obligations.ApproximateAndConversionLanes
  refine ⟨fun s g x f issues sel => ?approximate, fun s g x f issues sel => ⟨?acvt, ?twin, ?narrow, ?pairs⟩⟩
  case approximate =>
    intro e gives
    exact ⟨fun ok => runV_fpWords issues sel ok, fun ok => runV_fpWords issues sel ok, fun ok =>
      ⟨runV_fpWords issues sel ok, runV_fpWords issues sel ok, runV_fpWords issues sel ok, runV_fpWords issues sel ok⟩⟩
  case acvt => exact exec_acvt_lanes issues sel
  case twin =>
    exact fun level => ⟨runTwin_lanes issues sel level, runTwin_lanes issues sel level, runTwin_lanes issues sel level⟩
  case narrow =>
    intro op a b src dst ok narrow
    simp only [← cvtWords_narrow narrow]
    exact exec_cvt_lanes issues sel src dst ok
  case pairs =>
    exact fun op a src => ⟨fun dst ok => exec_cvt_lanes issues sel src dst ok,
      fun dst ok => exec_cvt_lanes issues sel src dst ok⟩

end Sys2Proof.Machine
end

section
/-! SUPPORT. What the records and the loss of a context leave of the DET block: all of it (R160, R172, R298, R303). -/

namespace Sys2Proof.Machine

open Sys2Proof

section

variable (s : State)

/-! ### Steps that repeat -/

/-- Steps that each leave the DET block. -/
theorem State.foldl_det {β : Type} {f : State → β → State} (hf : ∀ (t : State) e, (f t e).det = t.det) (es : List β) :
    (es.foldl f s).det = s.det :=
  List.foldlRecOn (motive := fun t => t.det = s.det) es f rfl (fun t ht e _ => (hf t e).trans ht)

/-- Steps that carry a result beside the state. -/
theorem State.foldl_fst_det {α β : Type} {f : State × β → α → State × β} (hf : ∀ x e, (f x e).1.det = x.1.det)
    (es : List α) (x : State × β) : (es.foldl f x).1.det = x.1.det :=
  List.foldlRecOn (motive := fun y => y.1.det = x.1.det) es f rfl (fun y hy e _ => (hf y e).trans hy)

/-! ### Records -/

theorem State.poke_mem (a : Nat) (bs : List U8) : (s.poke a bs).mem = s.mem.putBytes a bs := rfl
@[simp] theorem State.poke_det (a : Nat) (bs : List U8) : (s.poke a bs).det = s.det := rfl
@[simp] theorem State.mcUe_det (a : Nat) : (s.mcUe a).det = s.det := rfl
@[simp] theorem State.dropBlocks_det (j : Nat) : (s.dropBlocks j).det = s.det := rfl
@[simp] theorem State.remove_det (j : Nat) : (s.remove j).det = s.det := rfl

@[simp] theorem State.raiseFault_det (p : Nat) : (s.raiseFault p).det = s.det := by
  simp [State.raiseFault, apply_ite State.det]

@[simp] theorem State.partRecord_det (p : Nat) (r : FaultRec) : (s.partRecord p r).det = s.det := by
  simp [State.partRecord, apply_ite State.det]

@[simp] theorem State.dramRecord_det (a : Nat) (byHost : Bool) : (s.dramRecord a byHost).det = s.det :=
  State.partRecord_det ..

@[simp] theorem State.merge_det (c n : Nat) : (s.merge c n).det = s.det := by
  simp [State.merge, apply_ite State.det]

@[simp] theorem State.ctxRecord_det (c : Nat) (r : FaultRec) : (s.ctxRecord c r).1.det = s.det := by
  unfold State.ctxRecord
  dsimp only
  split
  · simp
  · split <;> simp

@[simp] theorem State.lossWritten_det (c : Nat) (r : FaultRec) : (s.lossWritten c r).det = s.det := by
  simp [State.lossWritten, apply_ite State.det]

/-! ### Commands and events of a lost context -/

@[simp] theorem State.flushDeltas_det (f : Delta → Bool) : (s.flushDeltas f).det = s.det :=
  s.foldl_det (fun t (d : Delta) => t.poke_det d.pa _) (s.deltas.filter f)

@[simp] theorem State.spoil_det (j : Nat) : (s.spoil j).det = s.det := by
  rw [State.spoil_fold]
  exact s.foldl_det (f := State.spoilRange) (fun _ _ => rfl) _

@[simp] theorem State.abandon_det (j : Nat) : (s.abandon j).det = s.det := by
  simp only [State.abandon, State.remove_det, State.spoil_det]
  split <;> simp

@[simp] theorem State.killAll_det (c : Nat) : (s.killAll c).det = s.det :=
  s.foldl_det (fun t (e : Nat × Job) => t.abandon_det e.1) _

@[simp] theorem State.putEvent_det (a p : Nat) (e : EventObj) (accepted : Bool) :
    (s.putEvent a p e accepted).det = s.det := by
  simp [State.putEvent, apply_ite State.det]

@[simp] theorem State.failEvent_det (c a : Nat) (status : U8) : (s.failEvent c a status).1.det = s.det := by
  unfold State.failEvent
  dsimp only
  split
  · rfl
  · rfl
  · split <;> simp [apply_ite State.det]

@[simp] theorem State.failQueue_det (q : Nat) (status : U8) : (s.failQueue q status).1.det = s.det := by
  refine State.foldl_fst_det (fun x i => ?_) _ (s, [])
  dsimp only
  split
  · rfl
  · split <;> simp

@[simp] theorem State.failQueues_det (qs : List Nat) (status : U8) : (s.failQueues qs status).1.det = s.det :=
  State.foldl_fst_det (f := fun st q => let r := st.1.failQueue q status; (r.1, st.2 ++ r.2))
    (fun x q => x.1.failQueue_det q status) qs (s, [])

/-- The teardown of a context discards its commands, and so no KILL entry is logged (R170, R298). -/
@[simp] theorem State.loseCore_det (c : Nat) (r : FaultRec) : (s.loseCore c r).det = s.det := by
  unfold State.loseCore
  dsimp only
  split
  · rfl
  · simp
  · simp [apply_ite State.det]
  · simp only [apply_ite State.det, State.lossWritten_det, State.mmuEvent_det, ite_self, State.flushDeltas_det,
      State.merge_det, State.failQueues_det, State.killAll_det]
    exact State.foldl_det _ (fun t q => t.updQueue_det q _) _

@[simp] theorem State.losePhys_det (c : Nat) (e : PhysFail) (acc : Access) : (s.losePhys c e acc).det = s.det :=
  s.loseCore_det ..

@[simp] theorem State.ctxReport_det (c : Nat) (r : FaultRec) : (s.ctxReport c r).det = s.det := by
  unfold State.ctxReport
  dsimp only
  split <;> simp

end

end Sys2Proof.Machine
end

section
/-! SUPPORT. What the commands of the replay log and of the counters of strict mode do, one rule each (R160, R162, R169,
R170, R172, R175). -/

namespace Sys2Proof.Machine

open Sys2Proof

section

variable (s : State)

/-! ### The replay log -/

/-- An entry that has room is written at the head of its window, and nothing but its bytes and the window moves. -/
theorem State.log_written {p : Nat} {w : LogWin} (type ctx stitch : Nat) (payload : List U8)
    (window : s.det.logs.get {} p = w) (enabled : w.enable = true) (space : w.full = false) (place : s.logPlace w = true)
    (sound : s.failingPart (w.base + 32 * w.head.toNat) 32 = false) :
    s.log p type ctx stitch payload =
      (s.poke (w.base + 32 * w.head.toNat)
          (logBytes type (if type = 8 then 0 else s.dieNo) ctx w.seq.toNat stitch payload)).setLog p
        { w with head := BitVec.ofNat 16 ((w.head.toNat + 1) % 2 ^ w.order), seq := w.seq + 1 } := by
  simp only [State.log, window, enabled, space, place, sound]
  rfl

/-- Writing a window leaves the others. -/
theorem State.setLog_logs_ne {p q : Nat} (w : LogWin) (other : q ≠ p) :
    (s.setLog p w).det.logs.get {} q = s.det.logs.get {} q := TMap.get_set_ne _ _ _ other

theorem State.setLog_logs_self (p : Nat) (w : LogWin) : (s.setLog p w).det.logs.get {} p = w :=
  TMap.get_set_self ..

/-- An entry, written or dropped, leaves the windows of the other partitions. -/
theorem State.log_logs_ne {p q : Nat} (type ctx stitch : Nat) (payload : List U8) (other : q ≠ p) :
    (s.log p type ctx stitch payload).det.logs.get {} q = s.det.logs.get {} q := by
  unfold State.log
  dsimp only
  split
  · rfl
  · split
    · simp only [apply_ite State.det, State.dramRecord_det, ite_self]
      exact s.setLog_logs_ne _ other
    · exact State.setLog_logs_ne _ _ other

/-- The writes to the log windows of the sixteen partitions are taken. -/
theorem State.logWindow_taken {u : State} {p : Nat} (up : u.feUp = true) (hp : p < 16) :
    ¬ (!u.feUp || decide (16 ≤ p)) = true := by
  simp [up, hp]

/-- LOG_ENABLE is written (R169). -/
theorem exec_logEnableWrite {p : Nat} (v : Bool) (hp : p < 16) (up : (s.hostWake false).feUp = true) :
    let u := s.hostWake false
    let w : LogWin := u.det.logs.get {} p
    exec (.logEnableWrite p v) s = .next (u.setLog p (if w.enable = false ∧ v = true
      then { w with enable := true, dropped := 0, seq := 0, droppedSince := 0 } else { w with enable := v })) := by
  intro u w
  have enables : ((v && !w.enable) = true) = (w.enable = false ∧ v = true) := by
    rw [Bool.and_eq_true, Bool.not_eq_true', and_comm]
  rw [apply_ite (u.setLog p)]
  exact congrArg Host.Outcome.next
    ((if_neg (State.logWindow_taken up hp)).trans (ite_congr enables (fun _ => rfl) (fun _ => rfl)))

/-- Drops since the last OVERFLOW entry are owed one, and the ring has a place for it (R169, R170). -/
def State.owesOverflow (s : State) (w : LogWin) : Prop :=
  w.enable = true ∧ w.droppedSince ≠ 0 ∧ (w.head.toNat + 1) % 2 ^ w.order ≠ w.tail.toNat % 2 ^ w.order ∧
    w.base + 32 * w.head.toNat + 32 ≤ s.capacity

/-- The check that a write of LOG_TAIL makes. -/
theorem State.owesOverflow_iff (w : LogWin) :
    s.owesOverflow w ↔ (w.enable && w.droppedSince ≠ 0 && !w.full && s.logPlace w) = true := by
  simp [State.owesOverflow, LogWin.full, State.logPlace, and_assoc]

/-- Window `w` of partition `p` and the OVERFLOW entry that it is owed (R170). -/
def State.overflowLogged (s : State) (p : Nat) (w : LogWin) : State :=
  let t := (s.setLog p w).log p 0x08 0xFFFF 0 (toBytes 4 w.droppedSince.toNat)
  t.setLog p { t.det.logs.get {} p with droppedSince := 0 }

/-- LOG_TAIL is written where no entry is owed, or none has room. -/
theorem exec_logTailWrite_quiet {p : Nat} {v : U16} (hp : p < 16) (up : (s.hostWake false).feUp = true)
    (quiet : ¬ (s.hostWake false).owesOverflow { (s.hostWake false).det.logs.get {} p with tail := v }) :
    exec (.logTailWrite p v) s =
      .next ((s.hostWake false).setLog p { (s.hostWake false).det.logs.get {} p with tail := v }) := by
  rw [State.owesOverflow_iff] at quiet
  exact congrArg Host.Outcome.next ((if_neg (State.logWindow_taken up hp)).trans (if_neg quiet))

/-- LOG_TAIL is written where the room that it makes is owed to an OVERFLOW entry. -/
theorem exec_logTailWrite_overflow {p : Nat} {v : U16} (hp : p < 16) (up : (s.hostWake false).feUp = true)
    (owed : (s.hostWake false).owesOverflow { (s.hostWake false).det.logs.get {} p with tail := v }) :
    exec (.logTailWrite p v) s =
      .next ((s.hostWake false).overflowLogged p { (s.hostWake false).det.logs.get {} p with tail := v }) := by
  rw [State.owesOverflow_iff] at owed
  exact congrArg Host.Outcome.next ((if_neg (State.logWindow_taken up hp)).trans (if_pos owed))

theorem State.overflowLogged_logs_ne {p q : Nat} (w : LogWin) (other : q ≠ p) :
    (s.overflowLogged p w).det.logs.get {} q = s.det.logs.get {} q :=
  (State.setLog_logs_ne _ _ other).trans ((State.log_logs_ne _ _ _ _ _ other).trans (s.setLog_logs_ne w other))

/-- The OVERFLOW entry stands at the window's head under the next entry number, names no context and holds the drops,
which then start anew (R170). -/
theorem State.overflowLogged_written {p : Nat} {w : LogWin} (owed : s.owesOverflow w)
    (sound : s.failingPart (w.base + 32 * w.head.toNat) 32 = false) :
    (s.overflowLogged p w).mem = (s.poke (w.base + 32 * w.head.toNat)
      (logBytes 8 0 0xFFFF w.seq.toNat 0 (toBytes 4 w.droppedSince.toNat))).mem ∧
    (s.overflowLogged p w).det.logs.get {} p = { w with
      head := BitVec.ofNat 16 ((w.head.toNat + 1) % 2 ^ w.order), seq := w.seq + 1, droppedSince := 0 } := by
  obtain ⟨enabled, _, space, place⟩ := owed
  have entry := (s.setLog p w).log_written 0x08 0xFFFF 0 (toBytes 4 w.droppedSince.toNat) (s.setLog_logs_self p w)
    enabled (by simpa [LogWin.full] using space) (decide_eq_true place) sound
  rw [State.overflowLogged, entry]
  exact ⟨by simp [State.poke_mem], by simp only [State.setLog_logs_self]⟩

/-! ### The counters -/

/-- DET_CTRL.CLEAR (R172). -/
theorem exec_detClear (up : (s.hostWake false).feUp = true) :
    exec .detClear s = .next { s.hostWake false with det := { (s.hostWake false).det with lateUntagged := 0 } } :=
  congrArg Host.Outcome.next (if_pos up)

/-- The cycles of a frozen strict command join its counts of stalls (R162). -/
theorem exec_strictFreezeResume {job : Nat} {v : Job} (a b : U32) (out : s.die.inReset = false)
    (listed : s.jobs.find job = some v) (runs : v.st = .running) (strict : s.strict v = true) :
    exec (.strictFreezeResume job a b) s = .next { s with jobs := s.jobs.set job { v with
      refresh := satAdd32 v.refresh a.toNat, retry := satAdd32 v.retry b.toNat } } := by
  show execStrictFreezeResume job a b s = _
  simp [execStrictFreezeResume, State.updJob, listed, out, runs, strict]

theorem State.updJob_dieNo (j : Nat) (f : Job → Job) : (s.updJob j f).dieNo = s.dieNo := by
  unfold State.dieNo
  rw [State.updJob_die]

/-- A late delivery is counted. -/
def State.lateCounted (s : State) : State :=
  { s with det := { s.det with lateUntagged := satAdd32 s.det.lateUntagged 1 } }

/-- The LATE record of command `v` (R160, R302). -/
def State.lateRecord (s : State) (v : Job) : FaultRec :=
  { status := 0, source := 0x0E, context := BitVec.ofNat 16 v.ctx, stitch := v.stitch64, info := satAdd32 v.late 1,
    die := s.dieNo == 1 }

theorem exec_lateDelivery (job : Option Nat) (out : s.die.inReset = false) :
    exec (.lateDelivery job) s = .next (s.lateFor job) :=
  congrArg Host.Outcome.next (if_neg (by simp [out]))

/-- A late delivery that reaches no strict command is counted and nothing else. -/
theorem State.lateFor_relaxed {job : Option Nat}
    (relaxed : ∀ j v, job = some j → s.jobs.find j = some v → s.strict v = false) : s.lateFor job = s.lateCounted := by
  cases job with
  | none => rfl
  | some j =>
    simp only [State.lateFor, Option.bind_some]
    cases listed : s.jobs.find j with
    | none => rfl
    | some v =>
      have reached : s.lateCounted.strict v = false := relaxed j v rfl listed
      exact if_pos (congrArg not reached)

/-- A late delivery that reaches a strict command is counted by it too, and recorded (R160). -/
theorem State.lateFor_strict {j : Nat} {v : Job} (listed : s.jobs.find j = some v) (strict : s.strict v = true) :
    s.lateFor (some j) =
      (s.lateCounted.updJob j (fun v' => { v' with late := satAdd32 v.late 1 })).ctxReport v.ctx (s.lateRecord v) := by
  simp only [State.lateFor, Option.bind_some, listed]
  have reached : s.lateCounted.strict v = true := strict
  refine (if_neg (ne_true_of_eq_false (congrArg not reached))).trans ?_
  rw [State.updJob_dieNo]
  rfl

/-- A report that loses the context keeps the count too. -/
theorem State.lateFor_lateUntagged (job : Option Nat) :
    (s.lateFor job).det.lateUntagged = satAdd32 s.det.lateUntagged 1 := by
  by_cases reached : ∃ j v, job = some j ∧ s.jobs.find j = some v ∧ s.strict v = true
  · obtain ⟨j, v, rfl, listed, strict⟩ := reached
    rw [s.lateFor_strict listed strict, State.ctxReport_det, State.updJob_det, State.lateCounted]
  · have relaxed : ∀ j v, job = some j → s.jobs.find j = some v → s.strict v = false :=
      fun j v named listed => Bool.eq_false_iff.2 (fun strict => reached ⟨j, v, named, listed, strict⟩)
    rw [s.lateFor_relaxed relaxed, State.lateCounted]

/-- The upper half of a 64-bit counter (R175). -/
theorem high_word (v : U64) : ((v >>> 32).truncate 32 : U32) = BitVec.ofNat 32 (v.toNat / 2 ^ 32) := by
  apply BitVec.eq_of_toNat_eq
  simp [Nat.shiftRight_eq_div_pow]

/-- A read of a _LO register latches its partner (R175). -/
theorem exec_counterLoRead {off : Nat} {v : U64} (up : s.feUp = true) (counter : s.counterAt off = some v) :
    exec (.counterLoRead off) s = .next { s with det := { s.det with
      latches := s.det.latches.set off (BitVec.ofNat 32 (v.toNat / 2 ^ 32)) } } := by
  show execCounterLoRead off s = _
  simp only [execCounterLoRead, State.throughLatch, up, counter, high_word]
  rfl

end

end Sys2Proof.Machine
end

section
/-! The statement about the replay log and the counters of strict mode. -/

namespace Sys2Proof.Machine

open Sys2Proof

/-- Settles O45: the equation of each command; the report of a late delivery leaves its count, also where the context is
lost by it. -/
theorem logsAndStrictCounters : Obligations.LogsAndStrictCounters := by
  unfold Obligations.LogsAndStrictCounters
  refine ⟨?enable, ?tail, exec_detClear, ?freeze, ?late, ?latch⟩
  case enable =>
    intro s p v hp up u w
    exact ⟨_, exec_logEnableWrite s v hp up, rfl, fun q other => u.setLog_logs_ne _ other, u.setLog_logs_self p _⟩
  case tail =>
    intro s p v hp up u w room
    by_cases owed : u.owesOverflow w
    · exact ⟨_, exec_logTailWrite_overflow s hp up owed, fun q other => u.overflowLogged_logs_ne w other,
        fun quiet => absurd owed quiet, fun _ sound => u.overflowLogged_written owed sound⟩
    · exact ⟨_, exec_logTailWrite_quiet s hp up owed, fun q other => u.setLog_logs_ne w other,
        fun _ => ⟨rfl, u.setLog_logs_self p w⟩, fun owes => absurd owes owed⟩
  case freeze =>
    intro s job v a b out listed runs strict
    exact ⟨_, exec_strictFreezeResume s a b out listed runs strict, rfl, fun j other => TMap.find_set_ne _ _ other,
      TMap.find_set_self ..⟩
  case late =>
    intro s job out
    refine ⟨_, exec_lateDelivery s job out, s.lateFor_lateUntagged job, s.lateFor_relaxed, ?_⟩
    rintro j v rfl listed strict
    exact s.lateFor_strict listed strict
  case latch =>
    intro s off v up counter
    exact ⟨_, exec_counterLoRead s up counter, rfl, fun o => TMap.find_set ..⟩

end Sys2Proof.Machine
end

section
/-! SUPPORT. What reset, a supply loss and the loss of power leave of memory, and when VR_VID is 0 (R423, R482 to R485). -/

namespace Sys2Proof.Machine

open Sys2Proof

/-- `m'` is `m` with its bytes at the addresses `gone` lost. -/
def Mem.Loses (m m' : Mem) (gone : Nat → Bool) : Prop :=
  m.wf = true → m'.wf = true ∧ ∀ a, m'.byte a = if gone a then 0 else m.byte a

/-- A memory loses the bytes that are not kept. -/
theorem Mem.keep_loses (m : Mem) {p gone : Nat → Bool} (lost : ∀ a, p a = !gone a) : m.Loses (m.keep p) gone := by
  intro canon
  refine ⟨m.wf_keep p canon, fun a => ?_⟩
  have kept : (m.keep p).byte a = if p a then m.byte a else 0 := m.byte_filter p a canon
  rw [kept, lost]
  cases gone a <;> rfl

/-- Of what is kept twice, both parts are lost. -/
theorem Mem.keep_keep (m : Mem) (p q : Nat → Bool) : (m.keep p).keep q = m.keep (fun a => q a && p a) :=
  List.filter_filter ..

/-- No performance level asks for a VDD_CORE of 0 (R402, R482). -/
theorem levelSettings_vid (n : Nat) : (levelSettings n).vid ≠ 0 := by
  unfold levelSettings
  split <;> decide

/-- Once the start runs, VR_VID is 0 in Hold and Off alone (R483). -/
theorem State.vrVid_awake {s : State} (out : s.die.inReset = false) (hold : s.pwr.state ≠ .hold)
    (off : s.pwr.state ≠ .off) : s.vrVid ≠ 0 := by
  simpa [State.vrVid, hold, off, out, Pwr.settings] using levelSettings_vid s.pwr.current.toNat

/-- VR_PG is low outside Hold and Off: the die stops with its pin as it is (R485). -/
theorem exec_vrPgLoss {s : State} (out : s.die.inReset = false) (hold : s.pwr.state ≠ .hold)
    (off : s.pwr.state ≠ .off) : exec .vrPgLoss s = .next (s.stopped s.die.pinLow) :=
  congrArg Host.Outcome.next (if_neg (by simpa [out] using State.vrVid_awake out hold off))

/-- The rails fall: beside what a stop loses, DRAM and its failing lines go (R464). -/
theorem exec_powerLoss (s : State) :
    exec .powerLoss s = .next { s.stopped true with
      mem := s.mem.keep (fun a => target a != 0 && target a != 3)
      flt := { (s.stopped true).flt with failing := [] } } := by
  rw [← Mem.keep_keep]
  rfl

end Sys2Proof.Machine
end

section
/-! The statement about reset, a supply loss and the loss of power. -/

namespace Sys2Proof.Machine

open Sys2Proof

/-- Settles O23: each of the three stops the die, and of memory goes what is not kept. -/
theorem resetStopsTheDie : Obligations.ResetStopsTheDie := by
  unfold Obligations.ResetStopsTheDie
  intro s off keeps
  have spool : s.mem.Loses (s.mem.keep (fun a => target a != 3)) (fun a => target a == 3) :=
    s.mem.keep_loses (fun _ => rfl)
  have dramToo : s.mem.Loses (s.mem.keep (fun a => target a != 0 && target a != 3))
      (fun a => target a == 3 || target a == 0) :=
    s.mem.keep_loses (fun a => by rw [Bool.not_or, Bool.and_comm]; rfl)
  exact ⟨⟨_, rfl, spool⟩, fun out hold off => ⟨_, exec_vrPgLoss out hold off, spool⟩, _, exec_powerLoss s, dramToo⟩

end Sys2Proof.Machine
end

section
/-! SUPPORT. What SPL_RETAIN, a scrub of the Spool and the sparing of a row do, one rule each (R187, R190 to R192). -/

namespace Sys2Proof.Machine

open Sys2Proof

/-! ### Retention and scrubbing -/

/-- SPL_RETAIN takes a mask of at most four banks, and a write of more raises RETAIN_REJECTED alone (R187). -/
theorem exec_splRetainWrite (s : State) (v : U32) (up : (s.hostWake false).feUp = true) :
    exec (.splRetainWrite v) s = .next (
      if 4 < popcount (v.truncate 8 : U8) then (s.hostWake false).splEvent 5
      else { s.hostWake false with spl := { (s.hostWake false).spl with retain := v.truncate 8 } }) :=
  congrArg Host.Outcome.next (if_neg (by simp [up]))

/-- A scrub that is on reports the errors that it found, in their order (R192). -/
theorem exec_spoolScrub {s : State} (errs : List ScrubError) (on : s.spl.scrub = true) (up : s.t5Up = true) :
    exec (.spoolScrub errs) s = .next (errs.foldl State.scrubError s) :=
  congrArg Host.Outcome.next (if_neg (by simp [on, up]))

/-- One that is off reports nothing (R192). -/
theorem exec_spoolScrub_off {s : State} (errs : List ScrubError) (off : s.spl.scrub = false) :
    exec (.spoolScrub errs) s = .next s :=
  congrArg Host.Outcome.next (if_pos (by simp [off]))

/-- An error outside the enabled words of the banks in service is none, a corrected one is counted, and an uncorrectable
one binds to the granule's owner and clears the granule (R190). -/
theorem State.scrubError_eq (s : State) (e : ScrubError) :
    s.scrubError e =
      if 8 ≤ e.bank ∨ bit s.spl.online e.bank = false ∨ s.die.part.bankMib * 2 ^ 20 ≤ e.off then s
      else if e.corrected = true then s.spoolCorrected e.bank e.off
      else (s.spoolLost none e.bank e.off).clearGranule e.bank (e.off / 0x10000) :=
  ite_congr (by simp [or_assoc]) (fun _ => rfl) (fun _ => rfl)

/-! ### The darning map -/

section

variable (s : State) (e : DarnEntry)

/-- An entry is the last of the map. -/
@[simp] theorem State.darnAdd_entries : (s.darnAdd e).darn.entries = s.darn.entries ++ [e] := by
  unfold State.darnAdd
  split <;> rfl

/-- An entry changes the map alone. -/
theorem State.darnAdd_eq : s.darnAdd e = { s with darn := (s.darnAdd e).darn } := rfl

@[simp] theorem State.darnAdd_spl : (s.darnAdd e).spl = s.spl := rfl
@[simp] theorem State.darnAdd_cores : (s.darnAdd e).cores = s.cores := rfl

end

/-! ### Rows of a Spool bank -/

/-- The Spool block with a row of bank `b` spared (R191). -/
def Spl.rowSpared (x : Spl) (b sub row : Nat) : Spl :=
  let w := x.banks.get {} b
  { x with
    banks := x.banks.set b
      { w with spares := w.spares.set sub (w.spares.get 0 sub + 1), rowCe := w.rowCe.del (0x10000 * sub + row) }
    events := setBit x.events 3 true }

/-- The Spool block with bank `b` out of spare rows (R191). -/
def Spl.bankWorn (x : Spl) (b : Nat) : Spl :=
  { x with toRetire := setBit x.toRetire b true, events := setBit x.events 4 true }

section

variable (x : Spl) (b sub row : Nat)

theorem Spl.rowSpared_bank :
    (x.rowSpared b sub row).banks.get {} b =
      { x.banks.get {} b with
        spares := (x.banks.get {} b).spares.set sub ((x.banks.get {} b).spares.get 0 sub + 1)
        rowCe := (x.banks.get {} b).rowCe.del (0x10000 * sub + row) } :=
  TMap.get_set_self ..

theorem Spl.rowSpared_bank_ne {c : Nat} (other : c ≠ b) :
    (x.rowSpared b sub row).banks.get {} c = x.banks.get {} c :=
  TMap.get_set_ne _ _ _ other

theorem Spl.rowSpared_event : bit (x.rowSpared b sub row).events 3 = true :=
  (bit_setBit ..).trans (if_pos (by decide))

theorem Spl.bankWorn_event : bit (x.bankWorn b).events 4 = true := (bit_setBit ..).trans (if_pos (by decide))

theorem Spl.bankWorn_retires (hb : b < 8) : bit (x.bankWorn b).toRetire b = true :=
  (bit_setBit ..).trans (if_pos ⟨rfl, hb⟩)

end

section

variable {s : State} {b sub row : Nat} (due : spareAt ≤ (s.spl.banks.get {} b).rowCe.get 0 (0x10000 * sub + row))
  (free : ∀ g ∈ s.spl.grans, g.1 / 256 = b → g.2.st ≠ .alloc)

include due free

/-- A row that is due, of a bank without an ALLOC granule, is at a point where it is spared (R191). -/
theorem State.spoolRow_spares :
    ¬ (decide ((s.spl.banks.get {} b).rowCe.get 0 (0x10000 * sub + row) < spareAt) ||
      s.spl.grans.any (fun g => g.1 / 256 == b && g.2.st == .alloc)) = true := by
  have unheld : s.spl.grans.any (fun g => g.1 / 256 == b && g.2.st == .alloc) = false :=
    List.any_eq_false.2 (fun g listed => by simpa using free g listed)
  simpa [unheld] using due

/-- It takes a spare of its sub-bank. -/
theorem State.spareSpool_spared (left : (s.spl.banks.get {} b).spares.get 0 sub < 16) :
    s.spareSpool b sub row = { s with spl := s.spl.rowSpared b sub row }.darnAdd
      { type := 5, c := b, s := sub, u := 0, index := sub, value := row } :=
  (if_neg (State.spoolRow_spares due free)).trans (if_pos left)

/-- Without one its bank is to retire. -/
theorem State.spareSpool_worn (used : 16 ≤ (s.spl.banks.get {} b).spares.get 0 sub) :
    s.spareSpool b sub row = { s with spl := s.spl.bankWorn b }.darnAdd { type := 6, u := 1, c := b } :=
  (if_neg (State.spoolRow_spares due free)).trans (if_neg (Nat.not_lt.2 used))

end

theorem exec_rowSpare_spool {s : State} (b sub row : Nat) (up : s.t5Up = true) :
    exec (.rowSpare (.spool b sub) row) s = .next (s.spareSpool b sub row) :=
  congrArg Host.Outcome.next (if_neg (by simp [up]))

/-! ### Rows of a core -/

/-- The spare rows that an array of a core has used: the tile buffer, or a bank of the local memory (R191). -/
def CoreSlot.sparesUsed (x : CoreSlot) (tile : Bool) (bank : Nat) : Nat :=
  if tile then x.tbSpares else x.lmSpares.get 0 bank

/-- The corrected errors of a row of such an array. -/
def CoreSlot.rowErrors (x : CoreSlot) (tile : Bool) (bank row : Nat) : Nat :=
  if tile then x.tbRows.get 0 row else x.lmRows.get 0 (0x10000 * bank + row)

/-- The core slot with a row of such an array spared. -/
def CoreSlot.rowSpared (x : CoreSlot) (tile : Bool) (bank row : Nat) : CoreSlot :=
  if tile then { x with tbRows := x.tbRows.del row, tbSpares := x.sparesUsed tile bank + 1 }
  else { x with
    lmRows := x.lmRows.del (0x10000 * bank + row), lmSpares := x.lmSpares.set bank (x.sparesUsed tile bank + 1) }

section

variable (x : CoreSlot) (tile : Bool) (bank row : Nat)

theorem CoreSlot.rowSpared_sparesUsed :
    (x.rowSpared tile bank row).sparesUsed tile bank = x.sparesUsed tile bank + 1 := by
  cases tile with
  | false => exact TMap.get_set_self ..
  | true => rfl

@[simp] theorem CoreSlot.rowSpared_st : (x.rowSpared tile bank row).st = x.st := by cases tile <;> rfl
@[simp] theorem CoreSlot.rowSpared_phys : (x.rowSpared tile bank row).phys = x.phys := by cases tile <;> rfl

end

section

variable {s : State} {k bank row : Nat} {tile : Bool} (idle : s.coreIdle k = true) (live : bit s.flt.quar k = false)
  (due : spareAt ≤ (s.cores.get {} k).rowErrors tile bank row)

include idle live due

/-- A row that is due, of an idle core in service, is at a point where it is spared (R191). -/
theorem State.coreRow_spares :
    ¬ (decide ((s.cores.get {} k).rowErrors tile bank row < spareAt) || !s.coreIdle k || bit s.flt.quar k) = true := by
  simpa [idle, live] using due

/-- It takes a spare of its array. -/
theorem State.spareCore_spared (left : (s.cores.get {} k).sparesUsed tile bank < if tile then 8 else 4) :
    s.spareCore k bank row tile = (s.updCore k (fun x => x.rowSpared tile bank row)).darnAdd
      { type := 5, c := k / 8, s := (s.cores.get {} k).phys, u := if tile then 2 else 1, index := bank, value := row } :=
  (if_neg (State.coreRow_spares idle live due)).trans (if_pos left)

/-- Without one its core leaves service. -/
theorem State.spareCore_worn (used : (if tile then 8 else 4) ≤ (s.cores.get {} k).sparesUsed tile bank) :
    s.spareCore k bank row tile = s.quarantine k :=
  (if_neg (State.coreRow_spares idle live due)).trans (if_neg (Nat.not_lt.2 used))

end

/-- The tile buffer is one array, which stands as bank 0. -/
theorem exec_rowSpare_core {s : State} (k bank row : Nat) (tile : Bool) (up : s.t5Up = true)
    (one : tile = true → bank = 0) :
    exec (.rowSpare (if tile then .tileBuffer k else .localMem k bank) row) s =
      .next (s.spareCore k bank row tile) := by
  have runs : ¬ (!s.t5Up) = true := by simp [up]
  cases tile with
  | false => exact congrArg Host.Outcome.next (if_neg runs)
  | true =>
    rw [one rfl]
    exact congrArg Host.Outcome.next (if_neg runs)

end Sys2Proof.Machine
end

section
/-! The statement about retention, the scrub and the spare rows of the on-chip memories. -/

namespace Sys2Proof.Machine

open Sys2Proof

/-- Settles O47: a further error of a scrub acts on the state that those before it left, and a row that is due takes a
spare or takes its bank or its core out of service. -/
theorem spoolRetentionScrubAndSpares : Obligations.SpoolRetentionScrubAndSpares := by
  unfold Obligations.SpoolRetentionScrubAndSpares
  refine ⟨exec_splRetainWrite, ?none, fun s errs off => exec_spoolScrub_off errs off, ?further, ?spool, ?core⟩
  case none => exact fun s => congrArg Host.Outcome.next (ite_self s)
  case further =>
    intro s u errs e on up before
    obtain rfl : errs.foldl State.scrubError s = u :=
      Host.Outcome.next.inj ((exec_spoolScrub errs on up).symm.trans before)
    rw [exec_spoolScrub _ on up, List.foldl_append, List.foldl_cons, List.foldl_nil, State.scrubError_eq]
  case spool =>
    intro s b sub row up w e _ due free
    by_cases left : w.spares.get 0 sub < 16
    · refine ⟨_, exec_rowSpare_spool b sub row up, ?_⟩
      rw [State.spareSpool_spared due free left]
      refine ⟨rfl, fun _ => ⟨State.darnAdd_entries .., s.spl.rowSpared_event b sub row, rfl, ?_, ?_⟩,
        fun used => absurd left (Nat.not_lt.2 used)⟩
      · dsimp only
        rw [State.darnAdd_spl, Spl.rowSpared_bank]
        exact ⟨TMap.get_set_self .., (TMap.find_del ..).trans (if_pos rfl), rfl, rfl⟩
      · exact fun c other => s.spl.rowSpared_bank_ne b sub row other
    · refine ⟨_, exec_rowSpare_spool b sub row up, ?_⟩
      rw [State.spareSpool_worn due free (Nat.not_lt.1 left)]
      exact ⟨rfl, fun spare => absurd spare left,
        fun _ hb => ⟨State.darnAdd_entries .., s.spl.bankWorn_event b, s.spl.bankWorn_retires b hb, rfl⟩⟩
  case core =>
    intro s k bank row tile up x n c one idle live due
    have run : exec c s = .next (s.spareCore k bank row tile) := exec_rowSpare_core k bank row tile up one
    refine ⟨fun left _ => ⟨_, run, ?_⟩, fun used => ?_⟩
    · rw [State.spareCore_spared idle live due left]
      refine ⟨rfl, State.darnAdd_entries .., ?_⟩
      dsimp only
      rw [State.darnAdd_cores, State.updCore_cores, TMap.get_set_self]
      exact ⟨x.rowSpared_sparesUsed tile bank row, x.rowSpared_st tile bank row, x.rowSpared_phys tile bank row⟩
    · rw [run, State.spareCore_worn idle live due used]

end Sys2Proof.Machine
end
